-- ==== Sys2Proof/Word.lean ====
section
/-! DEFINITION. The word types of the device and nothing else: every other helper lives where a repair can mend it. -/

namespace Sys2Proof

/-- A 32-bit register word (R144). -/
abbrev W32 := BitVec 32
/-- A 64-bit instruction word or counter (R186, R327). -/
abbrev W64 := BitVec 64
/-- One byte of memory. -/
abbrev Byte := BitVec 8
/-- One bit per lane of a group: bit l is lane l (R26). -/
abbrev Mask := BitVec 32
/-- One value per lane of a group (R26). -/
abbrev Lanes (α : Type) := Vector α 32
/-- A context number (R385). -/
abbrev Asid := BitVec 12
/-- A core of the package: die × 16 + cluster × 4 + core within the cluster (R27). -/
abbrev CoreId := Fin 64
/-- A residence index of a group, or a team slot, on one core (R68, R402). -/
abbrev Slot := Fin 64

end Sys2Proof
end

