-- ==== Sys2Proof/Config.lean ====
section
/-! DEFINITION. What the spec leaves open and what one implementation fixes: constants without a body, so that no
proof can learn a value of them. -/

namespace Sys2Proof.Config

/-- The value that stands wherever the spec calls a byte undefined or fixes no value for it (R8): applied to the
running count State.fresh, so two undefined bytes need not agree. Log entry 3. -/
opaque freeByte : Nat → Byte

/-- A 64-bit value the spec leaves open, applied to State.fresh. Log entry 3. -/
opaque freeWord : Nat → W64

/-- What a read through key `named` returns for a byte of a sector written under key `stored` (R422: the XTS
decryption of the stored bits under the named key): sector address, byte within the sector and plaintext byte. The
AES-256-XTS function itself takes key values that State does not hold. Log entry 4. -/
opaque foreignByte : (stored named : Nat) → (sector offset : Nat) → Byte → Byte

/-- SHA-384 of bytes (index 0), and the measurements 1, 3 and 4 of a package that runs a firmware image (R419, R420). Log
entry 5. -/
opaque digest : (index : Nat) → (image : List Byte) → BitVec 384

/-- Certificate chain of a slot (R420): 0 Ed25519, 1 ML-DSA-65; it ends at the alias key of a firmware image, or with none at
the DeviceID key (R419, R457). -/
opaque certificate : (slot : Nat) → (image : Option (List Byte)) → List Byte

/-- Signature over a transcript digest by the key at the end of a slot's chain (R419, R420). Log entry 5. -/
opaque signature : (slot : Nat) → (image : Option (List Byte)) → (transcript : List Nat) → List Byte

/-- The device's key-exchange share answering a requester's share (R420). Log entry 5. -/
opaque keyShare : Nat → Nat

/-- PLDM answers whose contents are sensor readings or FRU data that the spec does not give (R451): type, request.
Log entry 5. -/
opaque pldmAnswer : Nat → List Byte → List Byte

end Sys2Proof.Config
end

