-- ==== Sys2Proof/Syntax.lean ====
section
/-! DEFINITION. The instructions: one constructor of Instr for every row of the opcode table.
Group instructions carry one payload structure for each word format of R187 and R188; companion
instructions carry RISC-V fields (R334, R336); the events of the other agents carry the inputs of their
environment. -/

namespace Sys2Proof

/-! ## Group instruction words (R186 to R188) -/

/-- Bits [17:10] of every group word: uniform bit, scoreboard field, guard negate, guard (R186). -/
structure Hd where
  u  : Bool
  sb : BitVec 3
  gn : Bool
  g  : BitVec 3
  deriving DecidableEq, Repr

/-- The low modifiers [23:18] (R190): bits 23, 22 and 21, and the three-bit field [20:18]. -/
structure Low where
  b23 : Bool
  b22 : Bool
  b21 : Bool
  m   : BitVec 3
  deriving DecidableEq, Repr

/-- Format R, also the shape of RX (R187, R188); h is the byte [63:56]. -/
structure FmtR where
  hd : Hd
  lo : Low
  d  : BitVec 8
  a  : BitVec 8
  b  : BitVec 8
  c  : BitVec 8
  h  : BitVec 8
  deriving DecidableEq, Repr

/-- Format I24 (R187). -/
structure FmtI24 where
  hd  : Hd
  lo  : Low
  d   : BitVec 8
  a   : BitVec 8
  imm : BitVec 24
  deriving DecidableEq, Repr

/-- Format I32 (R187): D is source and destination. -/
structure FmtI32 where
  hd  : Hd
  lo  : Low
  d   : BitVec 8
  imm : BitVec 32
  deriving DecidableEq, Repr

/-- Format M (R187): handle LH, coordinate count DM + 1, first coordinate register CR, element offset. -/
structure FmtM where
  hd  : Hd
  lo  : Low
  d   : BitVec 8
  dm  : BitVec 2
  lh  : BitVec 6
  cr  : BitVec 8
  off : BitVec 16
  deriving DecidableEq, Repr

/-- Format C (R187): off counts 8-byte units from the clause header. -/
structure FmtC where
  hd  : Hd
  lo  : Low
  d   : BitVec 8
  off : BitVec 32
  deriving DecidableEq, Repr

/-- Variant RE, engine (R188); lsz and ldz are the bits [39:38] and [47:46] that must be zero. -/
structure FmtRE where
  hd   : Hd
  spec : BitVec 3
  rm   : BitVec 3
  rge  : Bool
  fut  : Bool
  ds   : BitVec 6
  lsz  : BitVec 2
  ls   : BitVec 6
  ldz  : BitVec 2
  ldh  : BitVec 6
  ring : BitVec 3
  sa   : BitVec 6
  bi   : BitVec 7
  deriving DecidableEq, Repr

/-- Variant SY, system (R188); z4 and z16 are the fields [47:44] and [63:48] that must be zero. -/
structure FmtSY where
  hd  : Hd
  lo  : Low
  d   : BitVec 8
  srn : BitVec 12
  z4  : BitVec 4
  z16 : BitVec 16
  deriving DecidableEq, Repr

/-- Variant MA, atomic (R188); z is the pair of bits [63:62] that must be zero. -/
structure FmtMA where
  hd  : Hd
  op  : BitVec 6
  d   : BitVec 8
  dm  : BitVec 2
  lh  : BitVec 6
  cr  : BitVec 8
  b   : BitVec 8
  z   : BitVec 2
  w64 : Bool
  ord : BitVec 2
  sco : BitVec 3
  deriving DecidableEq, Repr

/-! ## Companion instructions (R334, R336) -/

/-- A register number of a companion core: x0 to x31. -/
abbrev XReg := BitVec 5

/-- The two companion cores of a core (R332). -/
inductive Role where
  | feeder | drain
  deriving DecidableEq, Repr

/-- Conditions of the conditional branches of RV32I. -/
inductive BrOp where
  | beq | bne | blt | bge | bltu | bgeu
  deriving DecidableEq, Repr

/-- Loads of RV32I. -/
inductive LdOp where
  | lb | lh | lw | lbu | lhu
  deriving DecidableEq, Repr

/-- Stores of RV32I. -/
inductive StOp where
  | sb | sh | sw
  deriving DecidableEq, Repr

/-- Register-immediate operations of RV32I. -/
inductive ImmOp where
  | addi | slti | sltiu | xori | ori | andi
  deriving DecidableEq, Repr

/-- Shift-amount operations of RV32I and Zbb. -/
inductive ShOp where
  | slli | srli | srai | rori
  deriving DecidableEq, Repr

/-- Register-register operations of RV32I, M, Zba and Zbb. -/
inductive RegOp where
  | add | sub | sll | slt | sltu | xor | srl | sra | or | and
  | mul | mulh | mulhsu | mulhu | div | divu | rem | remu
  | sh1add | sh2add | sh3add
  | andn | orn | xnor | max | maxu | min | minu | rol | ror
  deriving DecidableEq, Repr

/-- One-operand operations of Zbb. -/
inductive UnOp where
  | clz | ctz | cpop | sextb | sexth | zexth | orcb | rev8
  deriving DecidableEq, Repr

/-- Operations of Zicsr. -/
inductive CsrOp where
  | rw | rs | rc
  deriving DecidableEq, Repr

/-- The standard instructions of RV32I, M, Zicsr, Zba and Zbb that have no row of their own (R334). A compressed
form stands for the same instruction. -/
inductive Rv where
  | lui (rd : XReg) (imm : BitVec 20)
  | auipc (rd : XReg) (imm : BitVec 20)
  | jal (rd : XReg) (imm : BitVec 20)
  | jalr (rd rs1 : XReg) (imm : BitVec 12)
  | branch (op : BrOp) (rs1 rs2 : XReg) (imm : BitVec 12)
  | load (op : LdOp) (rd rs1 : XReg) (imm : BitVec 12)
  | store (op : StOp) (rs1 rs2 : XReg) (imm : BitVec 12)
  | opImm (op : ImmOp) (rd rs1 : XReg) (imm : BitVec 12)
  | shift (op : ShOp) (rd rs1 : XReg) (sh : BitVec 5)
  | op (op : RegOp) (rd rs1 rs2 : XReg)
  | unary (op : UnOp) (rd rs1 : XReg)
  | csr (op : CsrOp) (imm : Bool) (rd : XReg) (num : BitVec 12) (src : XReg)
  deriving DecidableEq, Repr

/-- The copy commands and KCPQ: result register and source register (R336). -/
structure K2 where
  rd  : XReg
  rs1 : XReg
  deriving DecidableEq, Repr

/-- KBARA: barrier and bytes (R336). -/
structure KArr where
  rs1 : XReg
  rs2 : XReg
  deriving DecidableEq, Repr

/-- KBARW: form, parity, barrier and operand (R336). -/
structure KWait where
  form : BitVec 2
  par  : Bool
  rs1  : XReg
  rs2  : XReg
  deriving DecidableEq, Repr

/-- KRGPUT and KRGGET (R336). -/
structure KRing where
  wait : Bool
  rs1  : XReg
  rs2  : XReg
  deriving DecidableEq, Repr

/-- KLT: handle, data register, coordinates (R336). -/
structure KLt where
  h   : BitVec 6
  rd  : XReg
  rs1 : XReg
  rs2 : XReg
  deriving DecidableEq, Repr

/-! ## Inputs of the events -/

/-- The place of a correctable or uncorrectable error (R403, R453). -/
inductive EccPlace where
  | l2 (die : Fin 4) | msc (stack : Fin 8) | media (stack : Fin 4)
  deriving DecidableEq, Repr

/-- Who sent a management request (R435, R451). -/
inductive Requester where
  | mailbox | mctp (endpoint : Nat)
  deriving DecidableEq, Repr

/-- An offset of BAR0 or of BAR2 (R7, R372). -/
inductive RegPlace where
  | bar0 (off : Nat) | bar2 (off : Nat)
  deriving DecidableEq, Repr

/-- What carries a register write (R7, R455). -/
inductive RegSource where
  | cxlIo | mailbox | mctp
  deriving DecidableEq, Repr

/-- Whether each of an image's two signatures verifies over its SHA-384 digest (R22). -/
structure Signed where
  ed25519 : Bool
  mldsa65 : Bool
  deriving DecidableEq, Repr

/-- A mode of the host link (R370): lanes, GT/s, bytes of a flit. -/
structure LinkMode where
  lanes : Nat
  rate  : Nat
  flit  : Nat
  deriving DecidableEq, Repr

/-- What the environment supplies to one start of the package (R418, R456): whether each stage's checks pass, the
hold-up energy of the board descriptor (R406), the mode and the IDE keys that the host link trains with (R370), and
where the firmware keeps its regions (R371, R408). -/
structure BootEnv where
  slotA      : Signed
  slotB      : Signed
  secA       : Bool        -- slot A is at or above the fused security version
  secB       : Bool
  diesOk     : Bool
  stacksOk   : Bool
  tierOk     : Bool
  tierBlank  : Bool
  lj         : BitVec 5    -- log2 of the journal's records, chosen when the tier is formatted
  jbase      : BitVec 40
  cmdCore    : Signed
  linkOk     : Bool
  link       : LinkMode
  ide        : Vector Nat 3   -- CXL.io, CXL.cache, CXL.mem
  fwDram     : List (Nat × Nat)   -- device-physical address and length
  fwTier     : List (Nat × Nat)   -- PWIN offset and length
  inTime     : Bool        -- READY within 30 s of stage 1
  holdup     : Option Nat  -- the Olbel field of the board descriptor, in mJ
  pfailed    : Bool        -- PFAIL_N asserted during the start
  deriving DecidableEq, Repr

/-- A signal that a put or a reduction session carries to a team of this package (R316, R441, R442): a fill of the
future cell at an address; an arrival at a barrier; a failure of a barrier with its code. -/
inductive PutSignal where
  | fill (asid : Asid) (key : BitVec 10) (va : Nat) (value : W32)
  | arrive (asid : Asid) (team : W32) (bar : BitVec 7)
  | fail (asid : Asid) (team : W32) (bar : BitVec 7) (code : BitVec 7) (flog : W32)
  deriving DecidableEq, Repr

/-- What a remote request asks of its home (R437). -/
inductive RemoteOp where
  | read (n : Nat)
  | write (bytes : List Byte)
  | atomicAdd (w64 : Bool) (value : W64)
  deriving DecidableEq, Repr

/-- A request that reaches this package over Spacen (R389, R437). -/
structure RemoteReq where
  src  : BitVec 14
  job  : BitVec 16
  key  : BitVec 10
  pst  : Bool
  va   : BitVec 48
  op   : RemoteOp
  deriving DecidableEq, Repr

/-- What a put brings to a reduction session (R440, R441): the put's number at its node, the addresses of all its bytes at
the requester, and those that have arrived with their values. -/
structure Contribution where
  node  : BitVec 14
  put   : Nat := 0
  op    : BitVec 2
  fmt   : BitVec 5
  asid  : Asid
  key   : BitVec 10
  pst   : Bool
  whole : List Nat
  cells : List (Nat × Byte)
  deriving DecidableEq, Repr

/-- A posted scale-out operation (R444): local region and wire data. -/
structure RoceOp where
  asid : Asid
  key  : BitVec 10
  va   : Nat
  len  : Nat
  imm  : W32
  peer : Nat
  deriving DecidableEq, Repr

/-- What arrives on an Ethernet port (R444). -/
inductive RocePacket where
  | write (asid : Asid) (key : BitVec 10) (va : Nat) (bytes : List Byte) (ecn : Bool)
  | readReq (asid : Asid) (key : BitVec 10) (va len : Nat) (ecn : Bool)
  | readResp (asid : Asid) (key : BitVec 10) (va : Nat) (bytes : List Byte) (ecn : Bool)
  | pause (priority : Fin 8)
  | resume (priority : Fin 8)
  deriving DecidableEq, Repr

/-! ## The instructions -/

/-- Every row of the opcode table (R195, R336 and the table of operations and events). -/
inductive Instr where
  -- Integer and logic (0x000, R204)
  | nop (x : FmtR)
  | iadd (x : FmtR)
  | iaddI24 (x : FmtI24)
  | isub (x : FmtR)
  | isubI24 (x : FmtI24)
  | iaddc (x : FmtR)
  | imul (x : FmtR)
  | imulI24 (x : FmtI24)
  | imulh (x : FmtR)
  | imad (x : FmtR)
  | imadw (x : FmtR)
  | imin (x : FmtR)
  | iminI24 (x : FmtI24)
  | imax (x : FmtR)
  | imaxI24 (x : FmtI24)
  | iabs (x : FmtR)
  | ineg (x : FmtR)
  | idot4 (x : FmtR)
  | lop (x : FmtR)
  | shl (x : FmtR)
  | shlI24 (x : FmtI24)
  | shr (x : FmtR)
  | shrI24 (x : FmtI24)
  | sar (x : FmtR)
  | sarI24 (x : FmtI24)
  | shf (x : FmtR)
  | bfx (x : FmtR)
  | bfxI24 (x : FmtI24)
  | bfi (x : FmtR)
  | popc (x : FmtR)
  | clz (x : FmtR)
  | brev (x : FmtR)
  | icmp (x : FmtR)
  | icmpI24 (x : FmtI24)
  | sel (x : FmtR)
  | mov (x : FmtR)
  | movi (x : FmtI32)
  | prmt (x : FmtR)
  | gfmul (x : FmtR)
  | gfmac (x : FmtR)
  | crc32c (x : FmtR)
  | plop (x : FmtR)
  -- Float (0x080, R238 to R244)
  | fadd (x : FmtR)
  | faddI24 (x : FmtI24)
  | fmul (x : FmtR)
  | fmulI24 (x : FmtI24)
  | ffma (x : FmtR)
  | fmin (x : FmtR)
  | fminI24 (x : FmtI24)
  | fmax (x : FmtR)
  | fmaxI24 (x : FmtI24)
  | fcmp (x : FmtR)
  | fcmpI24 (x : FmtI24)
  | fclass (x : FmtR)
  | frnd (x : FmtR)
  | frcp (x : FmtR)
  | frsq (x : FmtR)
  | fsqrt (x : FmtR)
  | fdiv (x : FmtR)
  | fexp2 (x : FmtR)
  | flog2 (x : FmtR)
  | fsin (x : FmtR)
  | fcos (x : FmtR)
  | ftanh (x : FmtR)
  | fsigm (x : FmtR)
  | fscale (x : FmtR)
  | fexpo (x : FmtR)
  | hadd2 (x : FmtR)
  | hmul2 (x : FmtR)
  | hfma2 (x : FmtR)
  | hmin2 (x : FmtR)
  | hmax2 (x : FmtR)
  | fdot2 (x : FmtR)
  -- Conversion (0x100, R246 to R251)
  | cvtF2f (x : FmtR)
  | cvtF2i (x : FmtR)
  | cvtI2f (x : FmtR)
  | cvtI2i (x : FmtR)
  | pack (x : FmtR)
  | unpack (x : FmtR)
  | qnt (x : FmtR)
  | dqnt (x : FmtR)
  -- Lane (0x140, R212)
  | shfl (x : FmtR)
  | bcst (x : FmtR)
  | vote (x : FmtR)
  | matchLanes (x : FmtR)
  | redux (x : FmtR)
  | fredux (x : FmtR)
  | scan (x : FmtR)
  | s2v (x : FmtR)
  | v2s (x : FmtR)
  -- Memory (0x180, R253)
  | ld (x : FmtM)
  | st (x : FmtM)
  | ldu (x : FmtM)
  | stu (x : FmtM)
  | ldf (x : FmtM)
  | stf (x : FmtM)
  | pref (x : FmtM)
  | cctl (x : FmtM)
  | ltsub (x : FmtR)
  | ltsubInv (x : FmtR)
  | ltqry (x : FmtR)
  -- Atomics and futures (0x200, R265)
  | atom (x : FmtMA)
  | atomf (x : FmtMA)
  | cas (x : FmtMA)
  | red (x : FmtMA)
  | redf (x : FmtMA)
  | redd (x : FmtMA)
  | redflush (x : FmtR)
  | ffill (x : FmtMA)
  | fwait (x : FmtMA)
  | freset (x : FmtMA)
  | waita (x : FmtMA)
  -- Synchronisation (0x240, R278)
  | bari (x : FmtR)
  | bara (x : FmtR)
  | barw (x : FmtR)
  | bars (x : FmtR)
  | barq (x : FmtR)
  | fence (x : FmtR)
  | pfence (x : FmtR)
  | psync (x : FmtR)
  | stepClose (x : FmtR)
  | snap (x : FmtR)
  -- Control (0x280, R220)
  | bra (x : FmtC)
  | brx (x : FmtR)
  | call (x : FmtC)
  | callx (x : FmtR)
  | ret (x : FmtR)
  | meet (x : FmtC)
  | join (x : FmtR)
  | exitLanes (x : FmtR)
  | yieldTurn (x : FmtR)
  | sleep (x : FmtI24)
  | phint (x : FmtI24)
  | trap (x : FmtI24)
  | bkpt (x : FmtI24)
  -- Matrix and rings (0x2C0, R289)
  | qmma (x : FmtR)
  | qmmb (x : FmtR)
  | qzero (x : FmtR)
  | qmov (x : FmtR)
  | mxcfg (x : FmtR)
  | mxw (x : FmtR)
  | mxmm (x : FmtR)
  | mxscan (x : FmtR)
  | mxepi (x : FmtR)
  | mxt (x : FmtR)
  | rgset (x : FmtR)
  | rgsetClr (x : FmtR)
  | rgput (x : FmtR)
  | rgget (x : FmtR)
  | rgqry (x : FmtR)
  -- Copy and tasks (0x300, R309)
  | cpt (x : FmtRE)
  | cpg (x : FmtRE)
  | cps (x : FmtRE)
  | cpf (x : FmtRE)
  | cpr (x : FmtRE)
  | cpput (x : FmtRE)
  | cpget (x : FmtRE)
  | cpc (x : FmtR)
  | cpq (x : FmtR)
  | tspawn (x : FmtC)
  | tchild (x : FmtR)
  | twait (x : FmtR)
  | targ (x : FmtR)
  | stage (x : FmtM)
  -- System (0x340, R325)
  | rdsr (x : FmtSY)
  | wrsr (x : FmtSY)
  | rdcnt (x : FmtSY)
  | rte (x : FmtR)
  | flt (x : FmtI24)
  | ill (bits : BitVec 54)
  -- Companion instructions (R334, R336)
  | kcpt (x : K2)
  | kcpg (x : K2)
  | kcps (x : K2)
  | kcpf (x : K2)
  | kcpr (x : K2)
  | kcpput (x : K2)
  | kcpget (x : K2)
  | kcpqState (x : K2)
  | kcpqDone (x : K2)
  | kbara (x : KArr)
  | kbarw (x : KWait)
  | krgput (x : KRing)
  | krgget (x : KRing)
  | kltLw (x : KLt)
  | kltSw (x : KLt)
  | companionFence (fm : BitVec 4) (pred : BitVec 4) (succ : BitVec 4) (rs1 : XReg) (rd : XReg)
  | ecall
  | ebreak (compressed : Bool)
  | wfi
  | rv32 (compressed : Bool) (op : Rv)
  -- Issue, retirement and waits
  | clauseIssue (core : CoreId) (idx : Slot)
  | instructionRetire (core : CoreId) (idx : Slot) (ctr : BitVec 3)
  | sleepExpiry (core : CoreId) (idx : Slot)
  | hangReport (core : CoreId) (idx : Slot)
  | groupHangDelivery (core : CoreId) (idx : Slot)
  | taskBinTimeout (core : CoreId) (team : Slot) (entry : W32)
  | taskGroupResident (core : CoreId) (n : Nat)
  | classRise (core : CoreId) (n : Nat)
  | barrierWaveRelease (core : CoreId) (team : Slot) (nb : BitVec 7)
  | waitRecheck (core : CoreId) (idx : Slot)
  | watchedWriteWake (core : CoreId) (idx : Slot)
  -- Engines, staging and teams
  | copyDelivery (core : CoreId) (seq : W32) (rows : Nat)
  | copyComplete (core : CoreId) (seq : W32)
  | engineOperationFault (core : CoreId) (seq : W32)
  | remoteSignal (sig : PutSignal)
  | remoteRequest (req : RemoteReq)
  | arrayOpFire (core : CoreId)
  | arrayOpComplete (core : CoreId) (n : Nat)
  | stagingStart (core : CoreId) (grid : Nat)
  | stageEntryLand (core : CoreId) (n : Nat)
  | stageEntryFault (core : CoreId) (n : Nat)
  | admissionDeadline (core : CoreId) (n : Nat)
  | teamAdmit (core : CoreId) (n : Nat)
  | teamRetire (core : CoreId) (team : Slot)
  -- Commands and context switching
  | commandStart (seq : W64)
  | preemptStop (core : CoreId)
  | drainWindowClose (core : CoreId)
  | contextSwitch (core : CoreId)
  | contextHandover (core : CoreId)
  | contextRestore (core : CoreId) (asid : Asid)
  | typedBufferStream (core : CoreId)
  -- Memory path, power and snapshots
  | wayConversionDone (die : Fin 4)
  | dirtySectorWriteback (die : Fin 4) (n : Nat)
  | eccError (place : EccPlace) (sector : Nat) (correctable : Bool)
  | persistentStackFail (stack : Fin 4)
  | powerSlot (cluster : Fin 16)
  | energyUpdate (cluster : Fin 16) (total : Nat) (shares : List (Asid × Nat)) (system : Nat)
  | freqHandover (cluster : Fin 16)
  | snapshotFrameCopy
  | closeNotice (node : BitVec 14) (step : W32)
  | snapshotComplete
  | parityCompute (slotEqual : Bool)
  | snapshotProtected (acked : Bool)
  -- Package and host
  | startup (env : BootEnv)
  | pfail
  | hostLinkLoss
  | tailWatch (q : Fin 256)
  | acceptanceRound
  | headAdvance (q : Fin 256)
  | cxlMemRead (pwin : Bool) (off : Nat)
  | cxlMemWrite (pwin : Bool) (off : Nat) (bytes : List Byte)
  -- Spacen, sessions and Ethernet
  | idleFlit (port : Fin 18)
  | nodeLost (node : BitVec 14)
  | lostNodeNotice (node : BitVec 14)
  | reductionContribution (slot : Fin 64) (con : Contribution)
  | sessionComplete (slot : Fin 64)
  | sessionTimeout (slot : Fin 64)
  | earlyContributionTimeout (n : Nat)
  | roceSend (op : RoceOp)
  | rdmaWrite (op : RoceOp)
  | rdmaWriteImm (op : RoceOp)
  | rdmaRead (op : RoceOp)
  -- Register writes
  | qcfgWrite (q : Fin 256) (v : W64)
  | cancel (v : W64)
  | jlowWrite (v : W64)
  | ctxbaseWrite (v : W64)
  | tlbinvPage (va : BitVec 41) (rsv : BitVec 9) (asid : Asid)
  | tlbinvAsid (va : BitVec 41) (rsv : BitVec 9) (asid : Asid)
  | tlbinvAll (va : BitVec 41) (rsv : BitVec 9) (asid : Asid)
  | tlbinvDone
  | frrespRetry (id : W32) (rsv : BitVec 30)
  | frrespAbort (id : W32) (rsv : BitVec 30)
  | dbgres (v : W64)
  | deadMark (v : BitVec 62)
  | deadQuery (v : BitVec 62)
  | deadMarkDone
  | ksqry (v : W64)
  | stagingConfigWrite (die : Fin 4) (v : W64)
  | cpwrWrite (cluster : Fin 16) (v : W64)
  | eclrContext (rsv : BitVec 50) (idx : BitVec 12)
  | eclrCluster (rsv : BitVec 50) (idx : BitVec 12)
  | eclrSystem (rsv : BitVec 50) (idx : BitVec 12)
  | nodecfgWrite (v : W64)
  | abortHold (rsv : BitVec 51) (asid : Asid)
  | abortRelease (rsv : BitVec 51) (asid : Asid)
  | restoreSnapshot (v : W64)
  | rebuildManifest (v : W64)
  | sessionOpen (slot : Fin 64) (v : W64)
  | sessionClose (slot : Fin 64) (v : W64)
  | registerWrite (place : RegPlace) (v : W64) (size : Nat) (src : RegSource)
  -- Management and attestation
  | rdctr (src : Requester) (sel : BitVec 8) (idx : BitVec 16) (w : BitVec 8)
  | rdjrnl (src : Requester) (seq : W64) (count : Nat)
  | rdflog (src : Requester) (asid : BitVec 16) (k : W32)
  | rderr (src : Requester) (k : W32)
  | rdstat (src : Requester)
  | clrstart (src : Requester)
  | pldmBase (req : List Byte)
  | pldmMonitoring (req : List Byte)
  | pldmFruData (req : List Byte)
  | pldmFirmwareUpdate (image : List Byte) (version : Nat) (sigs : Signed) (interrupted : Bool)
  | getVersion
  | getCapabilities
  | negotiateAlgorithms (offered : List Nat)
  | getDigests
  | getCertificate (slot : Nat)
  | challenge (slot : Nat) (nonce : Nat)
  | getMeasurements (index : BitVec 8)
  | keyExchange (share : Nat)
  | spdmFinish (verifies : Bool)
  | endSession (session : Nat)
  | keySlotLoad (session : Nat) (slot : BitVec 10) (asid : Asid) (key : Nat)
  | keySlotErase (session : Nat) (slot : BitVec 10)
  -- Host cache, queues and links
  | hostSnoop (addr : Nat) (own : Bool)
  | writeCombiningDrain (core : CoreId) (n : Nat)
  | writeBackQueueDrain (stack : Fin 4)
  | hostLinkTrain (mode : Option LinkMode)
  | spacenPortTrain (port : Fin 18) (up : Bool)
  | restoreDone
  | streamComplete (core : CoreId)
  | roceReceive (port : Fin 4) (pkt : RocePacket)
  | ideKeySet (session : Nat) (proto : Fin 3) (key : Nat)
  deriving DecidableEq, Repr

end Sys2Proof
end

