-- ==== Sys2Proof/Machine/State.lean ====
section
/-! DEFINITION. The state of the package as plain data: groups, cores, dies, memory, hub; the outcomes of a step;
the state after reset. Every field names the rule of the spec that gives it. -/

namespace Sys2Proof.Machine
open Sys2Proof

/-! ## Outcomes -/

/-- Why the machine stops. -/
inductive Fault where
  /-- Raised by step once the package has drained its queues after PFAIL_N and stopped (R407): nothing runs until a
  start. Safe: the spec says that the device stops. -/
  | powerLost
  deriving DecidableEq, Repr

/-- Why an instruction has no meaning here. -/
inductive Refusal where
  /-- Raised by an arm of exec whose instruction has no meaning in this model. Safe. -/
  | notModelled (mnemonic : String)
  deriving DecidableEq, Repr

/-! ## Memory -/

/-- Bytes by address, addresses strictly rising, no listed byte equal to what an unlisted one reads as (zero; in a typed
buffer an open value, so that every written byte is listed there). -/
abbrev Mem := List Host.Cell

/-- The memories behind an address (R66, R80, R81): device DRAM, the persistent tier, host physical memory, memory
homed on another node (key job, node, VA), and one team's scratch (R62). -/
inductive MTgt where
  | dram | pst | host | fabric
  | shared (core : CoreId) (team : Slot)
  | wbuf (core : CoreId) (team : Slot)
  | xbuf (core : CoreId) (team : Slot)
  | ybuf (core : CoreId) (team : Slot)
  deriving DecidableEq, Repr

/-- One byte's place. -/
structure PLoc where
  tgt  : MTgt
  addr : Nat
  deriving DecidableEq, Repr

/-- A byte's place before translation. -/
inductive VPlace where
  | va (a : Nat)
  | scratch (t : MTgt) (o : Nat)
  deriving DecidableEq, Repr

/-- A key slot at one loading of it (R421, R422). -/
structure KeyRef where
  slot : BitVec 10 := 0
  gen  : Nat := 0
  deriving DecidableEq, Repr

/-- A completion object of an engine operation, whose observation joins the operation's persists (R101, R103). -/
inductive JoinKey where
  | bar (core : CoreId) (team : Slot) (n : BitVec 7)
  | cell (p : PLoc)
  deriving DecidableEq, Repr

/-- A copy of one 48-byte sector (R71) in the write-combining buffer, L1, L2 or the MSC: which bytes it holds, which
of them are dirty, last writer (R403), step tag of the dirty bytes (R109), key (R422), poison (R255), and for a
PERSIST store the persist sets it stands in (R103). -/
structure Sector where
  tgt    : MTgt
  base   : Nat
  data   : Vector Byte 48
  valid  : BitVec 48
  dirty  : BitVec 48 := 0
  owner  : Asid := 0
  tag    : Option W32 := none
  key    : KeyRef := {}
  poison : Bool := false
  sets   : List (Nat × Nat) := []
  via    : List JoinKey := []      -- completion objects of the engine operation that wrote it
  joint  : BitVec 48 := 0          -- bytes that a power loss does not part from the byte below them (R99)
  team   : Nat := 0                -- in a write-combining buffer: admission order of the writing team, plus one (R92)
  deriving DecidableEq, Repr

/-- The way of a line in a die's L2 (R75) and the teams whose staging placed it there (R76): grid and linear index. -/
structure L2Way where
  tgt  : MTgt
  line : Nat
  way  : Nat
  own  : List (Nat × Nat) := []
  deriving DecidableEq, Repr

/-- A write to the persistent tier on its way to the media (R103, R405): bytes of one sector and the persist sets
(group, PFENCE count) it stands in, by its own order or by a join. -/
structure PWrite where
  base  : Nat
  bytes : List Host.Cell
  sets  : List (Nat × Nat) := []
  joins : List (Nat × Nat) := []
  via   : List JoinKey := []
  joint : BitVec 48 := 0
  deriving DecidableEq, Repr

/-- A 64-byte host block in the hub host-block cache (R79). -/
structure HBlock where
  base  : Nat
  data  : Vector Byte 64
  dirty : Bool := false
  own   : Bool := true
  deriving DecidableEq, Repr

/-- A TLB entry (R390): context, virtual base, page size (1 64 KiB, 2 2 MiB, 3 1 GiB) and the leaf entry. -/
structure TlbEntry where
  asid : Asid
  va   : Nat
  size : Nat
  pte  : W64
  deriving DecidableEq, Repr

/-! ## Groups -/

/-- R39. -/
inductive LaneState where
  | ready | yielded | held | exited
  deriving DecidableEq, Repr

/-- Register classes of a group (R144). -/
inductive RegCls where
  | v | s | p | q | a
  deriving DecidableEq, Repr

/-- A result waiting for retirement (R153); bad marks poisoned data (R255). -/
inductive RegWrite where
  | v (r : BitVec 8) (l : Fin 32) (x : W32) (bad : Bool)
  | s (r : BitVec 6) (x : W32) (bad : Bool)
  | p (r : BitVec 3) (l : Fin 32) (b : Bool)
  | q (r : BitVec 2) (b : Bool)
  | a (r : BitVec 4) (l : Fin 32) (x : BitVec 256) (bad : Bool)
  deriving DecidableEq, Repr

/-- A run of registers of one class. -/
structure RegRun where
  cls : RegCls
  num : Nat
  len : Nat
  deriving DecidableEq, Repr

/-- The operation of an atomic (R266 to R268, R120, R271) on its cell. -/
inductive AtomFn where
  | int (op : BitVec 6) (w64 : Bool) (b : W64)
  | flt (fmt op : BitVec 2) (b : W32)
  | cas (w64 : Bool) (cmp new : W64)
  | fill (value : W32)
  | clear
  | addF32 (rm : BitVec 3) (b : W32)
  deriving DecidableEq, Repr

/-- A launch record of 32 words (R375). -/
abbrev LRec := Vector W64 32

/-- What an access does: a load (CP, sign extension, destination), a fragment-row load, a store with its step tag, an
atomic with its scope and destination, a cache operation, a deferred contribution (R271: value, rounding, scope,
release, issue position, step tag), the read of a child's launch record (R320: Q and S destinations). -/
inductive AccOp where
  | load (cp : BitVec 2) (sx : Bool) (dst : RegCls) (reg : Nat)
  | loadRow (cp : BitVec 2) (reg : BitVec 4)
  | store (bytes : List Byte) (tag : Option W32)
  | atom (f : AtomFn) (sco : BitVec 3) (tag : Option W32) (dst : Option (RegCls × Nat))
  | cctl (op : BitVec 3)
  | redd (value : W32) (rm sco : BitVec 3) (rel : Bool) (pos : Nat) (tag : Option W32)
  | child (q sd : BitVec 8)
  deriving DecidableEq, Repr

/-- One lane's access after the checks of R64: the layout slot and the captured entry, the byte offset u, the size; the
bytes that its line requests have moved so far, as offset, value and poison (R73), and the fault-ring entries that other
bytes wait for; lost: its home has refused it, and it never completes (R389). -/
structure Acc where
  lane  : Fin 32
  lh    : BitVec 6 := 0
  entry : BitVec 512
  u     : Nat
  size  : Nat
  op    : AccOp
  got   : List (Nat × Byte × Bool) := []
  wait  : List (Nat × W32) := []
  lost  : Bool := false
  deriving DecidableEq, Repr

/-- What an instruction does once the accesses before it are performed (R254): nothing more than its order; a barrier
arrival of k with x bytes; a drain of the contributions issued before a position; the close of a step (R110). -/
inductive Act where
  | fence
  | arrive (bar : BitVec 7) (k : BitVec 12) (x : BitVec 24)
  | flush (pos : Nat)
  | close (n : W32)
  deriving DecidableEq, Repr

/-- What an outstanding long-latency instruction waits for (R153). -/
inductive OutKind where
  | done
  | mem (accs : List Acc)
  | act (a : Act)
  | ring (put : Bool) (ring : BitVec 3) (n : Nat)
  | copy (seq : W32)
  | array (id : Nat)
  deriving DecidableEq, Repr

/-- An issued instruction that has not retired (R152, R153). -/
structure Out where
  sb     : BitVec 3
  kind   : OutKind
  writes : List RegWrite := []
  dests  : List RegRun := []
  flags  : BitVec 5 := 0
  float  : Bool := false
  rmw    : Bool := false           -- an atomic: R270 keys it in deterministic mode
  count  : Nat := 0                -- retired-instruction count at issue (R270)
  epoch  : Nat := 0                -- PFENCEs executed before it (R105)
  pc     : W32 := 0                -- its clause and index (R394)
  idx    : Nat := 0
  rel    : Option (BitVec 3) := none   -- the release part, before its accesses are performed (R254)
  acq    : Option (BitVec 3) := none   -- the acquire part, applied when every access is performed (R254)
  deriving DecidableEq, Repr

/-- Why a group issues nothing (R46, R52): parked until it is released; waiting at an instruction that looks again at
each of its turns; released to finish its wait; woken by a failed object; asleep. -/
inductive Block where
  | free
  | parked
  | polling
  | released (index : BitVec 2)
  | failed (x1 x2 x3 : W32)
  | sleeping (cycles : Nat)
  deriving DecidableEq, Repr

/-- The clause a group is inside (R157, R158). -/
structure Run where
  pc      : W32
  hdr     : W64
  words   : List W64
  idx     : Nat := 0
  lanes   : Mask                   -- lanes still in the clause
  arrive  : Mask := 0              -- lanes that executed JOIN at its meeting address (R225)
  joinReg : BitVec 8 := 0
  yield   : Bool := false          -- YIELD executed (R227)
  deriving DecidableEq, Repr

/-- A group of 32 lanes (R25, R144). -/
structure Group where
  resident : Bool := false
  uid      : Nat := 0
  formed   : Nat := 0              -- formation number of a task group (R52)
  team     : Slot := 0
  gid      : BitVec 6 := 0
  sched    : Fin 4 := 0
  active   : Bool := false
  bornAt   : Nat := 0
  readyAt  : Nat := 0
  young    : Bool := false
  v        : Vector (Lanes W32) 256 := .replicate 256 (.replicate 32 0)
  s        : Vector W32 64 := .replicate 64 0
  p        : Vector Mask 8 := .replicate 8 0
  q        : Vector Bool 4 := .replicate 4 false
  frag     : Vector (Lanes (BitVec 256)) 16 := .replicate 16 (.replicate 32 0)
  meet     : Lanes W32 := .replicate 32 0xFFFFFFFF
  pc       : Lanes W32 := .replicate 32 0
  lane     : Lanes LaneState := .replicate 32 .exited
  joinReg  : Lanes (BitVec 8) := .replicate 32 0
  handler  : Bool := false
  hlanes   : Mask := 0             -- lanes that run the handler (R395)
  frozen   : Mask := 0
  savedMeet : Lanes W32 := .replicate 32 0
  arg      : Lanes (Vector W32 8) := .replicate 32 (.replicate 8 0)
  tasks    : List Nat := []
  fpstat   : W32 := 0
  srcnt    : W32 := 0
  mxc      : W32 := 0
  xpc      : W32 := 0
  xcidx    : W32 := 0
  xissue   : W32 := 0
  xcause   : W32 := 0
  xinfo    : Vector W32 4 := .replicate 4 0
  pv       : Vector Mask 256 := .replicate 256 0
  ps       : BitVec 64 := 0
  pa       : Vector Mask 16 := .replicate 16 0
  mapped   : BitVec 256 := 0       -- vector registers written since dispatch: live (R149)
  spilled  : BitVec 256 := 0
  spills   : List (BitVec 8 × W32) := []   -- spills that wait for a fault-ring entry (R150)
  run      : Option Run := none
  resume   : Option (W32 × Nat × Mask) := none   -- RTE into the middle of a clause (R160)
  block    : Block := .free
  sleepReq : Nat := 0              -- SLEEP executed: takes effect at the end of the clause (R228)
  keptSleep : Nat := 0             -- SLEEP and YIELD of the clause that a trap interrupted (R159)
  keptYield : Bool := false
  cap      : Option (BitVec 512) := none   -- the entry captured by the instruction that waits (R70)
  waitTask : Nat := 0              -- TWAIT.TASKS: tasks below this number (R321)
  waitKids : Option (List (BitVec 12 × BitVec 20)) := none   -- TWAIT.CHILDREN: the children launched before it
  out      : List Out := []        -- in issue order
  retired  : Nat := 0              -- R327 selector 1
  hang     : Nat := 0
  hangAct  : BitVec 2 := 0         -- HACT action that waits for the end of the clause (R56)
  hangLog  : W32 := 0              -- the report behind it
  fetch    : Option W32 := none    -- fault-ring entry that issue waits for: a code fetch, a fill, a wait (R392)
  epoch    : Nat := 0              -- PFENCEs executed (R105)
  deriving DecidableEq, Repr

/-! ## Teams -/

/-- Who waits at a barrier (R118). -/
inductive Waiter where
  | grp (idx : Slot)
  | comp (r : Role)
  deriving DecidableEq, Repr

/-- What a parked waiter needs (R118). -/
inductive BarNeed where
  | phase (p : Bool)
  | thr (t : BitVec 12) (p : Bool)
  | count (k : BitVec 12)
  deriving DecidableEq, Repr

/-- A named barrier (R114) with its waiters in parking order and the waves still to release (R119, R428). -/
structure Bar where
  err   : Bool := false
  ecode : BitVec 7 := 0
  flog  : W32 := 0                 -- fault-log index behind the failure, for ASYNC_FAULT (R397)
  mode  : BitVec 2 := 0
  phase : Bool := false
  pend  : BitVec 24 := 0
  arr   : BitVec 12 := 0
  exp   : BitVec 12 := 0
  waiters : List (Waiter × BarNeed) := []
  waves : List Waiter := []
  waveN : Nat := 0                 -- groups in each wave, hint intensity and slot of the latest one
  waveI : Nat := 0
  waveAt : Nat := 0
  deriving DecidableEq, Repr

/-- A ring (R124) with what RGSET captured (R305) and the array's reservations (R126, R298). -/
structure Ring where
  pra  : Bool := false
  cna  : Bool := false
  lh   : BitVec 6 := 0
  cnt  : BitVec 6 := 0
  esz  : BitVec 12 := 0
  val  : Bool := false
  pp   : BitVec 16 := 0
  cp   : BitVec 16 := 0
  entry : BitVec 512 := 0
  resIn  : Nat := 0                -- input entries reserved and not returned
  back   : List Nat := []          -- entries read while an earlier one is still out
  resOut : Nat := 0                -- output entries reserved and not published
  held : Bool := false
  deriving DecidableEq, Repr

/-- A stage entry in flight or landed (R133 to R140). -/
structure Stage where
  entry  : BitVec 512
  handle : BitVec 512
  launch : Bool
  total  : Nat
  landed : Bool := false
  fault  : Option W32 := none      -- its fault-log index
  no     : Nat := 0                -- place of its team in the die's staging queue (R135)
  busy   : Bool := false           -- a stage engine serves it
  deriving DecidableEq, Repr

/-- A team on its core (R25, R29). -/
structure Team where
  live   : Bool := false
  grid   : Nat := 0
  asid   : Asid := 0
  order  : Nat := 0               -- admission order (R29)
  born   : Nat := 0               -- cycle of its admission (R74)
  node   : BitVec 14 := 0         -- NODE at its dispatch (R27)
  stageNo : Nat := 0              -- its place in the die's staging queue (R135)
  x      : BitVec 16 := 0
  y      : BitVec 10 := 0
  z      : BitVec 6 := 0
  lrec   : LRec := .replicate 32 0
  ls     : Vector (BitVec 512) 64 := .replicate 64 0
  bars   : Vector Bar 96 := .replicate 96 {}
  rings  : Vector Ring 8 := .replicate 8 {}
  step   : W32 := 0
  shared : Mem := []
  wbuf   : Mem := []
  xbuf   : Mem := []
  ybuf   : Mem := []
  stages : List Stage := []
  tnum   : Nat := 0               -- tasks spawned so far
  children : List (BitVec 12 × BitVec 20) := []
  companions : Bool := false
  free0  : Nat := 0               -- number of the open bytes behind its typed buffers' unwritten ones (R401)
  tbHere : Bool := true           -- its typed-buffer bytes are in the buffers (R401)
  tbw    : Nat := 0               -- where its WBUF, XBUF and YBUF partitions start in the buffers
  tbx    : Nat := 0
  tby    : Nat := 0
  deriving DecidableEq, Repr

/-! ## Companion cores -/

/-- A feeder or drain core (R332 to R335). -/
structure Companion where
  running : Bool := false
  team    : Slot := 0
  pc      : W32 := 0
  x       : Vector W32 32 := .replicate 32 0
  imem    : Mem := []
  dmem    : Mem := []
  minstret : W64 := 0
  ksrcnt  : W32 := 0
  cycHi   : Option W32 := none
  insHi   : Option W32 := none
  block   : Block := .free
  fault   : Option W32 := none    -- fault-ring entry a KLT waits for
  cap     : Option (BitVec 512) := none   -- the entry that an outstanding KLT captured (R70)
  deriving DecidableEq, Repr

/-! ## Engines of a core -/

/-- R309. -/
inductive CopyOp where
  | t | g | s | f | r | put | get
  deriving DecidableEq, Repr

/-- R318 STATE, and the state of a failed command before R130 reports it: cause, layout slot, node, XINFO1, XINFO2. -/
inductive CmdState where
  | queued | inFlight | discarded
  | failed (cause : BitVec 8) (lh : BitVec 6) (node : BitVec 14) (x1 x2 : W32)
  deriving DecidableEq, Repr

/-- A copy journal entry (R128): the command as captured at issue. -/
structure Cmd where
  seq    : W32
  asid   : Asid := 0
  team   : Slot
  op     : CopyOp
  role   : Option Role := none    -- a companion core issued it
  idx    : Slot := 0
  gid    : BitVec 6 := 0
  blk    : Vector W32 18          -- argument block (R309)
  spec   : BitVec 3
  rm     : BitVec 3
  fut    : Bool
  rge    : Bool
  ring   : BitVec 3
  bi     : BitVec 7
  ls     : BitVec 6
  ldh    : BitVec 6
  src    : BitVec 512
  dst    : BitVec 512
  h2     : BitVec 512
  cell   : BitVec 512
  draw   : W32
  step   : W32
  state  : CmdState := .queued
  taken  : Bool := false          -- an engine has started it: indices and old values are read
  idxs   : List Nat := []         -- a scatter's indices, up to one that cannot be used
  stop   : Option CmdState := none   -- how that one fails the command
  old    : List Nat := []         -- a copy-reduce's destination elements as it found them (R315)
  landed : List (Bool × VPlace) := []   -- destination sectors written; true: of scales
  total  : Nat                    -- rows in all
  counted : Nat                   -- counted bytes (R310)
  sent   : Nat := 0               -- counted bytes delivered
  held   : Bool := false          -- its fork waits for the issuer's earlier accesses (R100)
  handed : Bool := false          -- a reduction put: the switches have accepted every sector (R440)
  sets   : List (Nat × Nat) := []
  deriving DecidableEq, Repr

/-- An array operation (R296). -/
inductive ArrKind where
  | mxw (lt : Bool)
  | mxmm (z lt : Bool)
  | mxscan (h : BitVec 2)
  | mxepi (sat relu : Bool) (rm : BitVec 3) (fmt : BitVec 5)
  | mxt
  deriving DecidableEq, Repr

/-- A queued or fired array operation (R293, R297). -/
structure ArrOp where
  id     : Nat
  kind   : ArrKind
  mxc    : W32
  pub    : Bool
  ringIn : Option (BitVec 3)
  ringOut : Option (BitVec 3)
  team   : Slot
  idx    : Slot
  gid    : BitVec 6
  draw   : W32
  held   : Bool := false          -- its fork waits for the issuer's earlier accesses (R100)
  fired  : Bool := false
  firedAt : Nat := 0
  entIn  : Nat := 0
  entOut : Nat := 0
  covered : Bool := false
  hc0    : Option (Vector W32 512) := none   -- HC as the operation found it when it started (R293)
  deriving DecidableEq, Repr

/-- A weight latch (R293): the block's bytes as latched and the formats of its MXW. -/
structure Latch where
  block  : List Byte := []
  fmt    : Option (BitVec 11) := none    -- [10:0] of the MXC captured by the MXW that loaded it
  queued : Option (BitVec 11) := none    -- of the latest MXW queued into it
  deriving DecidableEq, Repr

/-- A power-hint window (R141). -/
structure Hint where
  opens : Nat
  ends  : Nat
  int   : Nat
  order : Nat
  deriving DecidableEq, Repr

/-- A pending task (R36). -/
structure Task where
  num   : Nat
  team  : Slot
  entry : W32
  arg   : Vector W32 8
  born  : Nat
  deriving DecidableEq, Repr

/-- A formed task group that waits to become resident (R38). -/
structure FBin where
  team  : Slot
  entry : W32
  tasks : List Task
  no    : Nat := 0
  deriving DecidableEq, Repr

/-- A deferred contribution (R271). -/
structure Contrib where
  value : W32
  lane  : Fin 32
  key   : KeyRef
  ps    : List PLoc               -- its four bytes
  rm    : BitVec 3
  sco   : BitVec 3
  rel   : Bool
  asid  : Asid
  grid  : Nat
  team  : Nat                     -- linear index
  tag   : Option W32
  task  : Nat                     -- 0 for a launch group, else the formation of its task group
  order : Nat                     -- admission order of the team
  gid   : BitVec 6
  pos   : Nat                     -- issue position
  deriving DecidableEq, Repr

/-- A wait-table entry or re-check registration of a parked FWAIT or WAITA (R122, R123): the location's bytes and key;
WAITA: its index and expected value; FWAIT: its lanes, and the full cell as it was found, with its poison. -/
structure WaitEnt where
  idx     : Slot
  lanes   : List (Fin 32) := []
  seen    : Option (W64 × Bool) := none
  ps      : List PLoc
  key     : KeyRef
  sco     : BitVec 3
  index   : BitVec 2 := 0
  expect  : Option W32 := none
  recheck : Bool
  fired   : Bool := false
  deriving DecidableEq, Repr

/-- A team bound to this core and not yet admitted (R135, R136). -/
structure QTeam where
  grid    : Nat
  t       : Nat
  asid    : Asid
  offered : Nat
  risen   : Bool := false
  late    : Bool := false         -- the admission deadline has passed
  no      : Nat := 0              -- its place in the die's staging queue (R135)
  away    : Bool := false         -- its context has been pre-empted: it waits to be offered again (R139)
  stages  : List Stage := []
  shared  : Mem := []
  wbuf    : Mem := []
  xbuf    : Mem := []
  deriving DecidableEq, Repr

/-- What one context holds on one core: the part that a switch saves and restores (R53, R162, R293, R402). -/
structure CtxCore where
  groups : Vector Group 64 := .replicate 64 {}
  teams  : Vector Team 64 := .replicate 64 {}
  feeder : Companion := {}
  drain  : Companion := {}
  order  : Vector (List Slot) 4 := .replicate 4 []   -- resident order per scheduler (R31, R52)
  rot    : Vector Nat 4 := .replicate 4 0            -- rotation positions (R52)
  arrq   : List ArrOp := []
  arrId  : Nat := 0
  latch0 : Latch := {}
  latch1 : Latch := {}
  hc     : Vector W32 512 := .replicate 512 0
  hints  : List Hint := []
  hintNo : Nat := 0
  pool   : List Task := []
  bins   : List FBin := []
  forms  : Nat := 0                -- task groups formed so far
  redd   : Vector (List Contrib) 4 := .replicate 4 []
  pos    : Nat := 0
  waits  : List WaitEnt := []
  admits : Nat := 0
  leftAt : Nat := 0                -- cycle in which it left the core (R50)
  priv   : Nat := 0                -- number of the device-private bytes of its records (R402)
  deriving DecidableEq, Repr

/-- How far a pre-emption of the running context has come (R400). -/
inductive Stopping where
  | no | groups | drained
  deriving DecidableEq, Repr

/-- A core (R13, R46, R55, R74, R400). -/
structure Core where
  ctx     : CtxCore := {}
  run     : Option Asid := none
  shadow  : Option Asid := none
  stream  : Option Asid := none
  saved   : List (Asid × CtxCore) := []
  stopping : Stopping := .no
  stopAt : Option Nat := none      -- when the last group of the context being stopped stopped (R132)
  queued  : List QTeam := []
  journal : List Cmd := []         -- the copy journal (R128)
  jseq    : W32 := 0
  schedcfg : W32 := 0x1EAD0000
  l1      : List Sector := []
  wcb     : List Sector := []
  tlb     : List TlbEntry := []
  carve   : Nat := 0
  switchAt : Option Nat := none    -- cycle in which the running context was switched in (R74)
  poisonc : W32 := 0
  hangs   : W32 := 0
  deriving DecidableEq, Repr

/-- A compute die (R75, R76, R384, R390, R453). -/
structure Die where
  l2     : List Sector := []
  ways   : List L2Way := []
  tlb    : List TlbEntry := []
  stgbud : BitVec 24 := 0x200
  sways  : BitVec 4 := 0
  stgmin : BitVec 11 := 128
  staging : BitVec 16 := 0         -- ways that are staging ways (R76)
  blocked : BitVec 16 := 0         -- ways requested and not yet converted
  stageNo : Nat := 0               -- teams whose staging has started (R135)
  l2err  : W64 := 0
  deriving DecidableEq, Repr

/-- The memories and what stands between them and the dies (R77 to R81, R255, R405, R409, R422). -/
structure MemSys where
  dram   : Mem := []
  pst    : Mem := []               -- persistent tier as visible at its coherence point
  media  : Mem := []               -- what the media hold
  host   : Mem := []
  fabric : Mem := []
  keys   : List (PLoc × KeyRef) := []
  poison : List PLoc := []         -- poisoned sectors, by their first byte
  dead   : List Nat := []          -- dead 64 KiB granules of DRAM
  frames : List PLoc := []         -- frames that the MSCs hold (R77)
  mscDirty  : List (Nat × Asid) := []
  mscRemote : List Sector := []
  hcache : List HBlock := []
  pwait  : List PWrite := []       -- performed, not yet in a queue
  queues : Vector (List PWrite) 4 := .replicate 4 []
  deriving DecidableEq, Repr

/-! ## The hub -/

/-- A launch queue (R372): registers and the tail last read. -/
structure Queue where
  qbase  : W64 := 0
  qtaila : W64 := 0
  en     : Bool := false
  loc    : Bool := false
  lsize  : BitVec 4 := 4
  pmax   : BitVec 3 := 0
  vecen  : Bool := false
  vec    : BitVec 6 := 0
  asid   : Asid := 0
  head   : W32 := 0
  dis    : Bool := false
  qerr   : BitVec 4 := 0
  tail   : W32 := 0
  taken  : Nat := 0                -- records journaled past HEAD (R373, R378)
  deriving DecidableEq, Repr

/-- A command (R374 to R381). -/
structure Command where
  seq    : W64
  queue  : Fin 256
  slot   : W32
  asid   : Asid
  state  : BitVec 4
  status : BitVec 8
  exit   : W32 := 0
  flog   : W32 := 0xFFFFFFFF
  teams  : W32 := 0
  utag   : W64 := 0
  lrec   : LRec
  deps   : List W64 := []
  grid   : Option Nat := none
  kept   : Bool := true            -- the journal record of its state has persisted (R378)
  deriving DecidableEq, Repr

/-- A fault that waits for its grid's exit status (R459): its cause, its fault-log index, and the barrier (linear index
of the team, number) through which a wait may still deliver it. -/
structure GridFault where
  cause : BitVec 8
  flog  : W32
  bar   : Option (Nat × BitVec 7) := none
  deriving DecidableEq, Repr

/-- A grid (R25, R27, R30, R33). -/
structure Grid where
  id     : Nat
  cmd    : Option W64
  parent : Option (CoreId × Slot × BitVec 12)
  pgrid  : Nat := 0                -- the parent's grid
  asid   : Asid
  lrec   : LRec
  prio   : BitVec 3
  cmask  : W64
  depth  : BitVec 5
  number : Option (BitVec 27) := none
  next   : Nat := 0                -- next linear team index to offer
  retired : Nat := 0
  faults : List GridFault := []    -- R459, the first first
  done   : Bool := false
  killed : Bool := false           -- stopped by a fault, an abort or a cancel (R380, R398, R445)
  snap   : Option W32 := none      -- highest step whose capture it has requested
  snapCfg : Option (Vector W64 24) := none   -- the configuration block, once read (R410)
  closed : List (W32 × Nat) := []  -- STEP.CLOSE n executed by so many teams
  deriving DecidableEq, Repr

/-- A child-queue slot (R34, R320, R321). -/
structure Child where
  held   : Bool := false
  gen    : BitVec 20 := 0
  grid   : Nat := 0
  core   : CoreId := 0
  team   : Slot := 0
  done   : Bool := false
  fault  : Bool := false
  cause  : BitVec 8 := 0
  flog   : W32 := 0
  told   : Bool := false          -- a TWAIT has delivered the fault (R459)
  deriving DecidableEq, Repr

/-- Per-context records of the hub (R385, R394, R403, R427, R434, R445). -/
structure CtxRec where
  desc    : BitVec 512 := 0
  energy  : W64 := 0
  esat    : Bool := false
  undecl  : W64 := 0
  flogs   : Nat := 0               -- fault-log records entered
  hold    : Bool := false
  debug   : Bool := false          -- stopped by BKPT (R399)
  deferL2  : List W32 := []        -- eviction-error records not yet delivered (R403)
  deferMsc : List W32 := []
  deriving DecidableEq, Repr

/-- A pending fault-ring entry (R392). -/
structure RingFault where
  id    : W32
  core  : CoreId
  idx   : Slot
  agent : BitVec 2
  asid  : Asid
  va    : Nat
  type  : BitVec 8
  kind  : BitVec 4
  logged : Bool
  misses : Nat := 1                -- misses that share it, at most 64 (R390)
  deriving DecidableEq, Repr

/-- A persistent stack (R404). -/
structure PStack where
  uce   : BitVec 16 := 0
  ce    : BitVec 16 := 0
  state : BitVec 2 := 0
  deriving DecidableEq, Repr

/-- A key slot (R421): the key value itself never leaves Isrok; gen tells one key from the next in this slot. -/
structure KeySlot where
  state : BitVec 2 := 0
  asid  : Asid := 0
  gen   : Nat := 0
  key   : Option Nat := none       -- the key last loaded and not erased
  deriving DecidableEq, Repr

/-- A cluster's power manager (R424 to R434). -/
structure Cluster where
  cycles  : Nat := 0
  slot    : Nat := 0                     -- slots charged so far
  esample : Nat := 0                     -- energy samples taken so far
  fcur    : BitVec 6 := 44
  cksel   : Bool := false
  freq    : BitVec 6 := 44               -- target; LOCKING and DETPIN follow from it, fcur and the teams (R431, R20)
  isl     : BitVec 8 := 128
  islNext : BitVec 8 := 128
  eclu    : W64 := 0
  esat    : Bool := false
  balcnt  : W32 := 0
  modelled : Nat := 0                    -- modelled current, in quarter-amperes as all charges here
  ballast : Nat := 0
  soft    : List (Nat × Nat) := []       -- soft starts: eighths, steps left
  starts  : List (Nat × Nat × Nat × Nat) := []   -- covered starts waiting: core, operation, eighths, cycle of issue
  ends    : Nat := 0                     -- falls to charge at the next slot
  waveA   : Nat := 0                     -- wave rises to charge
  forecast : Byte := 0
  deriving DecidableEq, Repr

/-- A reduction session slot (R439). -/
structure Session where
  en    : Bool := false
  state : BitVec 2 := 0
  op    : BitVec 2 := 0
  fmt   : BitVec 5 := 0
  ncon  : BitVec 14 := 0
  tmo   : BitVec 13 := 0
  rslist : BitVec 57 := 0
  rssig : BitVec 51 := 0
  nodes : List (BitVec 14) := []
  cons  : List Contribution := []  -- one for each node whose put has begun to arrive
  written : List Nat := []         -- addresses whose sums are written (R441)
  deriving DecidableEq, Repr

/-- A capture in progress or complete (R412). -/
structure Capture where
  step   : W32
  grid   : Nat
  asid   : Asid
  cfg    : Vector W64 24
  slot   : Nat
  frames : List PLoc := []         -- frames copied
  place  : List PLoc := []         -- the declared lines, by position in the image
  armed  : Bool := true
  complete : Bool := false
  parity : Bool := false
  deriving DecidableEq, Repr

/-- Start-up (R418, R423, R456). -/
structure Boot where
  startcnt : Nat := 0
  stage    : BitVec 3 := 0
  reason   : BitVec 8 := 0
  minimal  : Bool := false
  ready    : Bool := false
  formatted : Bool := false
  lj       : BitVec 5 := 0
  jbase    : BitVec 40 := 0
  verA     : Nat := 0              -- versions of the firmware slots, and updates that left one failing stage 2
  verB     : Nat := 0
  badA     : Bool := false
  badB     : Bool := false
  imgA     : List Byte := []       -- the images, and the one that runs since the latest start (R418, R419)
  imgB     : List Byte := []
  fw       : List Byte := []
  fwDram   : List (Nat × Nat) := []   -- firmware regions: device-physical address and length in DRAM (R408)
  fwTier   : List (Nat × Nat) := []   -- PWIN offset and length in the tier (R371)
  deriving DecidableEq, Repr

/-- SPDM and the management path (R420, R435, R451). -/
structure Mgmt where
  errs    : List (BitVec 128) := []       -- latest record first, at most 256 (R455)
  errNo   : Nat := 0
  latches : List (Requester × BitVec 8 × BitVec 16 × W32) := []
  resp    : List Byte := []               -- the response to the latest request
  sessions : List (Nat × Bool) := []      -- SPDM sessions, latest first, and whether FINISH has secured them
  sessNo  : Nat := 0
  ide     : Vector (Option Nat) 3 := .replicate 3 none
  transcript : List Nat := []             -- SPDM requests since GET_VERSION, latest first
  deriving DecidableEq, Repr

/-- The Ethernet ports (R444). -/
structure Eth where
  sent   : List (Nat × List Byte × Option W32) := []   -- peer, payload, immediate
  cnps   : Nat := 0
  paused : Vector (BitVec 8) 4 := .replicate 4 0
  deriving DecidableEq, Repr

/-- What other packages answer (R316, R389, R437, R440): 64 KiB pages of fabric addresses that their homes do not translate
for reads or for writes; barriers that they lack, by node, team and number; their sessions that the switches know as open
(true) or failed. An input of the environment. -/
structure Far where
  noRead   : List Nat := []
  noWrite  : List Nat := []
  noSignal : List (BitVec 14 × W32 × BitVec 7) := []
  sessions : List (BitVec 14 × Nat × Bool) := []
  deriving DecidableEq, Repr

/-- The hub: launch queues, journal, translation, persistence, snapshots, power totals, Spacen, management. -/
structure Hub where
  queues  : Vector Queue 256 := .replicate 256 {}
  jseq    : W64 := 1
  jlow    : W64 := 1
  cstat   : BitVec 2 := 0
  rrFrom  : Nat := 0
  cmds    : List Command := []
  grids   : List Grid := []
  gridId  : Nat := 0
  gridNo  : BitVec 27 := 0
  childs  : Vector Child 4096 := .replicate 4096 {}
  ctxbase : BitVec 40 := 0
  ctxs    : Vector CtxRec 4096 := .replicate 4096 {}
  tlbBusy : Option (BitVec 2 × BitVec 41 × Asid) := none
  frbase  : BitVec 57 := 0
  fren    : Bool := false
  frloc   : Bool := false
  frlsize : BitVec 4 := 6
  frvec   : BitVec 6 := 0
  frhead  : W32 := 0
  frtail  : W32 := 0
  frid    : W32 := 0
  faults  : List RingFault := []
  pstacks : Vector PStack 4 := .replicate 4 {}
  pdconf  : Bool := false
  holdup  : BitVec 16 := 0
  deadOp  : Option (Nat × Nat) := none     -- next granule and granules left to mark
  deadRes : Bool := false
  deadRef : Bool := false
  kslots  : Vector KeySlot 1024 := .replicate 1024 {}
  ksqry   : W32 := 0
  capture : Option Capture := none
  comp    : W32 := 0                       -- highest complete and protected step (R417)
  prot    : W32 := 0
  notices : List (BitVec 14 × W32) := []
  closeOut : List (Nat × W32) := []        -- close notices sent: grid and step (R412)
  boot    : Boot := {}
  clusters : Vector Cluster 16 := .replicate 16 {}
  esys    : W64 := 0
  esysSat : Bool := false
  esatq   : Asid := 0
  nodeEn  : Bool := false
  node    : BitVec 14 := 0x3FFF
  jobtab  : BitVec 57 := 0
  portup  : BitVec 18 := 0
  loss    : Bool := false
  lost    : BitVec 14 := 0
  lostAll : List (BitVec 14) := []
  declared : List (BitVec 14) := []        -- nodes the switches have declared lost (R438)
  flits   : Vector Nat 18 := .replicate 18 0
  sessions : Vector Session 64 := .replicate 64 {}
  early   : List (Fin 64 × Contribution) := []
  puts    : List PutSignal := []           -- signals received and not yet applied (R316, R441)
  restState : BitVec 2 := 0
  reb     : Bool := false
  restStep : W32 := 0
  restAsid : Asid := 0
  restJob : Option (Bool × W32 × Asid × Vector W64 24) := none   -- what GO started: REB, STEP, ASID, block
  restcfg : BitVec 57 := 0
  link    : Option LinkMode := none        -- mode of the host link, when it is up (R370)
  readout : W64 := 0                       -- what the latest read of BAR0 or BAR2 returned (R6)
  barLatch : List (Nat × W32) := []        -- high halves latched by 32-bit reads of low halves (R435)
  msi     : List (BitVec 6) := []
  mscerr  : Vector W64 8 := .replicate 8 0
  mgmt    : Mgmt := {}
  eth     : Eth := {}
  far     : Far := {}
  signals : List (BitVec 14 × W32 × BitVec 7) := []   -- arrivals sent to barriers of other packages, latest first (R316)
  remote  : List Byte := []                -- answer of the latest remote or CXL.mem read
  deriving DecidableEq, Repr

/-! ## The machine -/

/-- Who moves next. An instruction of a group or companion core is fetched by the step; an event carries its own
inputs; the rest are moves of the environment that have no row of their own. Log entry 1. -/
inductive Turn where
  | group (c : CoreId) (i : Slot)
  | later (c : CoreId) (i : Slot)          -- as group, but its accesses are left for perform turns
  | perform (c : CoreId) (i : Slot) (n k : Nat)   -- request k of the group's n-th outstanding entry
  | companion (c : CoreId) (r : Role)
  | event (i : Instr)
  | elapse (cluster : Fin 16) (cycles : Nat)
  | dropL1 (c : CoreId) (n : Nat)
  | dropL2 (die : Fin 4) (n : Nat)
  | dropRemote (n : Nat)
  | spill (c : CoreId) (i : Slot) (r : BitVec 8)
  | hostWrite (addr : Nat) (bytes : List Byte)
  | fabricWrite (addr : Nat) (bytes : List Byte)
  | barRead (place : RegPlace) (size : Nat)
  | degrade (stack : Fin 4)                -- a persistent stack degrades: writes are still accepted (R404)
  | cleanMsc (n : Nat)                     -- a dirty sector of an MSC is written back (R403)
  | tear (stack : Fin 4) (units : List Nat)   -- the power ends in the middle of an entry of a queue (R407)
  | far (f : Far)
  | combine (session : Fin 64) (sector : Nat)   -- the switches write one sector of a session's sums (R441)
  deriving DecidableEq, Repr

/-- The agent whose instruction exec runs. -/
inductive Agent where
  | group (i : Slot)
  | companion (r : Role)
  deriving DecidableEq, Repr

/-- The package. R12's text says fourteen dies where its table lists 4, 1, 8 and 4; the model holds the table's counts (log
entry 99). -/
structure State where
  agenda : List Turn
  core   : CoreId                  -- of the agent whose instruction runs
  agent  : Agent
  ilen   : Nat                     -- bytes of the companion instruction that runs
  later  : Bool                    -- the accesses of the instruction that runs are left for turns of their own
  fresh  : Nat                     -- undefined values taken so far (Config.freeByte); the model's own
  uid    : Nat                     -- groups that have become resident; the model's own
  off    : Bool                    -- drained and stopped after PFAIL_N (R407)
  pfail  : Bool
  cores  : Vector Core 64
  dies   : Vector Die 4
  mem    : MemSys
  hub    : Hub
  deriving DecidableEq, Repr

/-- The package right after reset: nothing resident, every register at its reset value, memories with nothing
listed, no agent with a turn. Log entries 1, 2 and 6. -/
def State.reset : State where
  agenda := []
  core   := 0
  agent  := .group 0
  ilen   := 0
  later  := false
  fresh  := 0
  uid    := 0
  off    := false
  pfail  := false
  cores  := .replicate 64 {}
  dies   := .replicate 4 {}
  mem    := {}
  hub    := {}

end Sys2Proof.Machine
end

