-- ==== Sys2Proof/Machine/Bits.lean ====
section
/-! DEFINITION. Bit fields, signs, byte order, vectors: the small helpers every meaning uses. -/

namespace Sys2Proof.Machine
open Sys2Proof

/-! ## Integers from patterns (R204) -/

/-- v(x): unsigned when sgn is false, two's complement when it is true. -/
def asInt (sgn : Bool) {w : Nat} (x : BitVec w) : Int := if sgn then x.toInt else x.toNat
/-- Trunc of w bits. -/
def trunc (w : Nat) (t : Int) : BitVec w := BitVec.ofInt w t
/-- SatS32. -/
def satS32 (t : Int) : W32 := trunc 32 (max (-2147483648) (min 2147483647 t))
/-- SatU32. -/
def satU32 (t : Int) : W32 := trunc 32 (max 0 (min 4294967295 t))
/-- Fit of R204. -/
def fit32 (sat sgn : Bool) (t : Int) : W32 := if sat then (if sgn then satS32 t else satU32 t) else trunc 32 t
/-- A number of a byte or field as a 32-bit word. -/
def w32 (n : Nat) : W32 := BitVec.ofNat 32 n
/-- Bits [lo + n - 1 : lo] as a number. -/
def fieldN {w : Nat} (x : BitVec w) (lo n : Nat) : Nat := (x.toNat >>> lo) % 2 ^ n
/-- Number of 1 bits. -/
def popCount {w : Nat} (x : BitVec w) : Nat := (List.range w).foldl (fun n i => if x.getLsbD i then n + 1 else n) 0
/-- The lowest set bit, if any. -/
def lowestBit {w : Nat} (x : BitVec w) : Option Nat := (List.range w).find? (fun i => x.getLsbD i)
/-- The highest set bit, if any. -/
def highestBit {w : Nat} (x : BitVec w) : Option Nat := (List.range w).reverse.find? (fun i => x.getLsbD i)
/-- Bit k set. -/
def bitOf (w k : Nat) : BitVec w := BitVec.ofNat w (2 ^ k)
/-- Bits of x replaced by y where m is 1. -/
def mergeMask {w : Nat} (m x y : BitVec w) : BitVec w := (x &&& ~~~m) ||| (y &&& m)
/-- Bit k of x set to b. -/
def setBit {w : Nat} (x : BitVec w) (k : Nat) (b : Bool) : BitVec w := if b then x ||| bitOf w k else x &&& ~~~(bitOf w k)
/-- Bits [lo + n - 1 : lo] of x replaced by the low n bits of y. -/
def putField {w : Nat} (x : BitVec w) (lo n y : Nat) : BitVec w :=
  (x &&& ~~~(BitVec.ofNat w ((2 ^ n - 1) * 2 ^ lo))) ||| BitVec.ofNat w ((y % 2 ^ n) * 2 ^ lo)
/-- Reversed bit order. -/
def revBits {w : Nat} (x : BitVec w) : BitVec w := x.reverse

/-! ## Bytes, little-endian -/

/-- The n low bytes of a number, lowest first. -/
def bytesLE (n v : Nat) : List Byte := (List.range n).map fun i => BitVec.ofNat 8 (v >>> (8 * i))
/-- The number whose bytes, lowest first, are given. -/
def natLE : List Byte → Nat
  | [] => 0
  | b :: r => b.toNat + 256 * natLE r
/-- A 32-bit word from bytes. -/
def wordLE (bs : List Byte) : W32 := BitVec.ofNat 32 (natLE bs)
/-- Byte i of a 32-bit word. -/
def byteAt (x : W32) (i : Nat) : Byte := x.extractLsb' (8 * i) 8
/-- A word from its four bytes. -/
def ofBytes (f : Nat → Byte) : W32 := f 3 ++ f 2 ++ f 1 ++ f 0

/-! ## Vectors -/

/-- v with entry i replaced. -/
def vset {α : Type} {n : Nat} (v : Vector α n) (i : Fin n) (x : α) : Vector α n := v.set i.val x i.isLt
/-- v with entry i changed by f. -/
def vmod {α : Type} {n : Nat} (v : Vector α n) (i : Fin n) (f : α → α) : Vector α n := vset v i (f v[i])
/-- Entry k, counted modulo the length. -/
def vat {α : Type} {n : Nat} [NeZero n] (v : Vector α n) (k : Nat) : α := v[Fin.ofNat n k]

/-- All lanes, lowest first. -/
def allLanes : List (Fin 32) := List.finRange 32
/-- The lanes of a mask, lowest first. -/
def lanesOf (m : Mask) : List (Fin 32) := allLanes.filter fun l => m.getLsbD l.val
/-- The mask of the lanes where f holds. -/
def maskOf (f : Fin 32 → Bool) : Mask := allLanes.foldl (fun m l => if f l then m ||| bitOf 32 l.val else m) 0
/-- The lowest lane of a mask. -/
def lowLane (m : Mask) : Option (Fin 32) := allLanes.find? fun l => m.getLsbD l.val
/-- The highest lane of a mask. -/
def highLane (m : Mask) : Option (Fin 32) := allLanes.reverse.find? fun l => m.getLsbD l.val

/-- The first list element that satisfies p changed by f. -/
def updFirst {α : Type} (p : α → Bool) (f : α → α) : List α → List α
  | [] => []
  | x :: r => if p x then f x :: r else x :: updFirst p f r
/-- The first list element that satisfies p removed. -/
def delFirst {α : Type} (p : α → Bool) : List α → List α
  | [] => []
  | x :: r => if p x then r else x :: delFirst p r
/-- Element n of a list removed. -/
def delAt {α : Type} : Nat → List α → List α
  | _, [] => []
  | 0, _ :: r => r
  | n + 1, x :: r => x :: delAt n r
/-- Element n of a list changed by f. -/
def modAt {α : Type} (f : α → α) : Nat → List α → List α
  | _, [] => []
  | 0, x :: r => f x :: r
  | n + 1, x :: r => x :: modAt f n r

/-- Lexicographic order of lists of numbers. -/
def lexLt : List Nat → List Nat → Bool
  | [], [] => false
  | [], _ => true
  | _, [] => false
  | a :: r, b :: t => a < b || (a == b && lexLt r t)

/-- An element inserted before the first that is greater than it by a key. -/
def insertBy {α : Type} (key : α → List Nat) (x : α) : List α → List α
  | [] => [x]
  | y :: r => if lexLt (key x) (key y) then x :: y :: r else y :: insertBy key x r
/-- A list in the order of its keys; equal keys keep their order. -/
def sortBy {α : Type} (key : α → List Nat) (l : List α) : List α := l.foldl (fun a x => insertBy key x a) []

/-! ## CRC-32C (R210) -/

/-- One bit of the reflected remainder. -/
def crcBit (c : W32) : W32 := if c.getLsbD 0 then (c >>> 1) ^^^ 0x82F63B78#32 else c >>> 1
/-- One byte of the reflected remainder. -/
def crcByte (c : W32) (y : Byte) : W32 :=
  let c := c ^^^ y.setWidth 32
  crcBit (crcBit (crcBit (crcBit (crcBit (crcBit (crcBit (crcBit c)))))))
/-- CRC-32C of bytes with initial and final inversion. -/
def crc32c (bs : List Byte) : W32 := (bs.foldl crcByte 0xFFFFFFFF#32) ^^^ 0xFFFFFFFF#32

/-! ## GF(2^8) (R171) -/

/-- x times 2 modulo the field polynomial 0x11D. -/
def gfDouble (x : Byte) : Byte := if x.getLsbD 7 then (x <<< 1) ^^^ 0x1D#8 else x <<< 1
/-- GfMul of R171. -/
def gfMul (x y : Byte) : Byte :=
  ((List.range 8).foldl (fun (acc : Byte × Byte) i => (if y.getLsbD i then acc.1 ^^^ acc.2 else acc.1, gfDouble acc.2))
    (0#8, x)).1

end Sys2Proof.Machine
end

