-- ==== Sys2Proof/Machine/Mem.lean ====
section
/-! DEFINITION. Byte memories in canonical form: sorted cells, an unlisted byte reads as zero. -/

namespace Sys2Proof.Machine
open Sys2Proof

/-- What a byte nothing has written reads as. Log entry 2. -/
def Memory.unlisted : Byte := 0

/-- The canonical form: addresses strictly rising, no entry equal to what an unlisted byte reads as. -/
def Memory.wf : Mem → Bool
  | [] => true
  | (a, x) :: r => x != Memory.unlisted && (match r with | [] => true | (b, _) :: _ => decide (a < b)) && Memory.wf r

/-- The canonical form of a typed buffer, whose unlisted bytes are open (R401): addresses strictly rising, every byte that
has been written listed. Log entry 2. -/
def Memory.rising : Mem → Bool
  | [] => true
  | (a, _) :: r => (match r with | [] => true | (b, _) :: _ => decide (a < b)) && Memory.rising r

/-- One byte. -/
def Memory.get : Mem → Nat → Byte
  | [], _ => Memory.unlisted
  | (b, x) :: r, a => if b = a then x else Memory.get r a

/-- The byte listed at an address. -/
def Memory.find : Mem → Nat → Option Byte
  | [], _ => none
  | (b, x) :: r, a => if b = a then some x else Memory.find r a

/-- A listed byte placed in the order of addresses. -/
def Memory.insert : Mem → Nat → Byte → Mem
  | [], a, x => [(a, x)]
  | (b, y) :: r, a, x =>
    if a < b then (a, x) :: (b, y) :: r
    else if a = b then (a, x) :: r
    else (b, y) :: Memory.insert r a x

/-- One byte written; the unlisted value is not listed. -/
def Memory.set (m : Mem) (a : Nat) (x : Byte) : Mem :=
  if x = Memory.unlisted then m.filter fun c => c.1 != a else Memory.insert m a x

/-- The n bytes from address a. -/
def Memory.read (m : Mem) (a n : Nat) : List Byte := (List.range n).map fun i => Memory.get m (a + i)

/-- Bytes written from address a up. -/
def Memory.write : Mem → Nat → List Byte → Mem
  | m, _, [] => m
  | m, a, x :: r => Memory.write (Memory.set m a x) (a + 1) r

/-- Cells written one by one. -/
def Memory.writeCells (m : Mem) (cs : List Host.Cell) : Mem := cs.foldl (fun m c => Memory.set m c.1 c.2) m

end Sys2Proof.Machine
end

