-- ==== Sys2Proof/Machine/Access.lean ====
section
/-! DEFINITION. Reading and changing one part of the state: core, group, team, die, hub. Every operation of the model
goes through these. -/

namespace Sys2Proof.Machine
open Sys2Proof

def State.core! (s : State) (c : CoreId) : Core := s.cores[c]
def State.grp (s : State) (c : CoreId) (i : Slot) : Group := s.cores[c].ctx.groups[i]
def State.team (s : State) (c : CoreId) (t : Slot) : Team := s.cores[c].ctx.teams[t]

def State.modCore (s : State) (c : CoreId) (f : Core → Core) : State := { s with cores := vmod s.cores c f }
def Core.modCtx (k : Core) (f : CtxCore → CtxCore) : Core := { k with ctx := f k.ctx }
def State.modCtx (s : State) (c : CoreId) (f : CtxCore → CtxCore) : State := s.modCore c fun k => k.modCtx f
def CtxCore.modGrp (x : CtxCore) (i : Slot) (f : Group → Group) : CtxCore := { x with groups := vmod x.groups i f }
def CtxCore.modTeam (x : CtxCore) (t : Slot) (f : Team → Team) : CtxCore := { x with teams := vmod x.teams t f }
def State.modGrp (s : State) (c : CoreId) (i : Slot) (f : Group → Group) : State := s.modCtx c fun x => x.modGrp i f
def State.modTeam (s : State) (c : CoreId) (t : Slot) (f : Team → Team) : State := s.modCtx c fun x => x.modTeam t f
def State.modDie (s : State) (d : Fin 4) (f : Die → Die) : State := { s with dies := vmod s.dies d f }
def State.modMem (s : State) (f : MemSys → MemSys) : State := { s with mem := f s.mem }
def State.modHub (s : State) (f : Hub → Hub) : State := { s with hub := f s.hub }
def State.modCtxRec (s : State) (a : Asid) (f : CtxRec → CtxRec) : State :=
  s.modHub fun h => { h with ctxs := vmod h.ctxs a.toFin f }
def State.ctxRec (s : State) (a : Asid) : CtxRec := s.hub.ctxs[a.toFin]
def State.modCluster (s : State) (k : Fin 16) (f : Cluster → Cluster) : State :=
  s.modHub fun h => { h with clusters := vmod h.clusters k f }
def State.modMgmt (s : State) (f : Mgmt → Mgmt) : State := s.modHub fun h => { h with mgmt := f h.mgmt }
def State.modBoot (s : State) (f : Boot → Boot) : State := s.modHub fun h => { h with boot := f h.boot }

/-- A companion core. -/
def CtxCore.comp (x : CtxCore) : Role → Companion
  | .feeder => x.feeder
  | .drain => x.drain
def CtxCore.modComp (x : CtxCore) (r : Role) (f : Companion → Companion) : CtxCore :=
  match r with
  | .feeder => { x with feeder := f x.feeder }
  | .drain => { x with drain := f x.drain }
def State.comp (s : State) (c : CoreId) (r : Role) : Companion := s.cores[c].ctx.comp r
def State.modComp (s : State) (c : CoreId) (r : Role) (f : Companion → Companion) : State :=
  s.modCtx c fun x => x.modComp r f

/-- The die of a core (R27). -/
def dieOf (c : CoreId) : Fin 4 := ⟨c.val / 16, by have := c.isLt; omega⟩
/-- The cluster of a core (R27). -/
def clusterOf (c : CoreId) : Fin 16 := ⟨c.val / 4, by have := c.isLt; omega⟩
/-- Arithmetic-clock cycles of a core's cluster since package reset (R327). -/
def State.cycles (s : State) (c : CoreId) : Nat := s.hub.clusters[clusterOf c].cycles

/-- The grid with a given number. -/
def State.grid? (s : State) (g : Nat) : Option Grid := s.hub.grids.find? fun x => x.id == g
/-- A grid changed by f. -/
def State.modGrid (s : State) (g : Nat) (f : Grid → Grid) : State :=
  s.modHub fun h => { h with grids := updFirst (fun x => x.id == g) f h.grids }
/-- A command changed by f. -/
def State.modCmd (s : State) (q : W64) (f : Command → Command) : State :=
  s.modHub fun h => { h with cmds := updFirst (fun x => x.seq == q) f h.cmds }
/-- A command by its sequence number. -/
def State.cmd? (s : State) (q : W64) : Option Command := s.hub.cmds.find? fun x => x.seq == q

/-- The next undefined byte (R8). -/
def State.takeByte (s : State) : Byte × State := (Config.freeByte s.fresh, { s with fresh := s.fresh + 1 })
/-- The next undefined 64-bit value. -/
def State.takeWord (s : State) : W64 × State := (Config.freeWord s.fresh, { s with fresh := s.fresh + 1 })

/-! ## Fields of a launch record (R375) -/

def LRec.word (r : LRec) (off : Nat) : W64 := vat r (off / 8)
def LRec.ver (r : LRec) : Nat := fieldN (LRec.word r 0) 56 8
def LRec.depv (r : LRec) : BitVec 4 := (LRec.word r 0).extractLsb' 28 4
def LRec.snap (r : LRec) : Bool := (LRec.word r 0).getLsbD 27
def LRec.det (r : LRec) : Bool := (LRec.word r 0).getLsbD 26
def LRec.prio (r : LRec) : BitVec 3 := (LRec.word r 0).extractLsb' 23 3
def LRec.hintCap (r : LRec) : Nat := fieldN (LRec.word r 0) 19 4
def LRec.pgv (r : LRec) : Bool := (LRec.word r 0).getLsbD 18
def LRec.producer (r : LRec) : Nat := fieldN (LRec.word r 0) 13 5
def LRec.codeSize (r : LRec) : Nat := fieldN (LRec.word r 0x08) 32 32
def LRec.entry (r : LRec) : W32 := (LRec.word r 0x08).extractLsb' 0 32
def LRec.codeBase (r : LRec) : Nat := fieldN (LRec.word r 0x10) 0 57
def LRec.deadline (r : LRec) : Nat := fieldN (LRec.word r 0x18) 32 32
def LRec.handler (r : LRec) : W32 := (LRec.word r 0x18).extractLsb' 0 32
def LRec.ngroups (r : LRec) : Nat := fieldN (LRec.word r 0x20) 35 5 + 1
def LRec.ez (r : LRec) : Nat := fieldN (LRec.word r 0x20) 28 7
def LRec.ey (r : LRec) : Nat := fieldN (LRec.word r 0x20) 17 11
def LRec.ex (r : LRec) : Nat := fieldN (LRec.word r 0x20) 0 17
def LRec.cmask (r : LRec) : W64 := LRec.word r 0x28
def LRec.pb (r : LRec) : Nat := fieldN (LRec.word r 0x30) 44 20
def LRec.sharedBytes (r : LRec) : Nat := fieldN (LRec.word r 0x30) 25 19
def LRec.nrings (r : LRec) : Nat := fieldN (LRec.word r 0x30) 21 4
def LRec.nbars (r : LRec) : Nat := fieldN (LRec.word r 0x30) 14 7
def LRec.na (r : LRec) : Nat := fieldN (LRec.word r 0x30) 9 5
def LRec.nv (r : LRec) : Nat := fieldN (LRec.word r 0x30) 0 9
def LRec.ybufK (r : LRec) : Nat := fieldN (LRec.word r 0x38) 26 14
def LRec.xbufK (r : LRec) : Nat := fieldN (LRec.word r 0x38) 13 13
def LRec.wbufK (r : LRec) : Nat := fieldN (LRec.word r 0x38) 0 13
def LRec.layEntries (r : LRec) : Nat := fieldN (LRec.word r 0x40) 57 6 + 1
def LRec.layTable (r : LRec) : Nat := fieldN (LRec.word r 0x40) 0 57
def LRec.nlast (r : LRec) : Nat := fieldN (LRec.word r 0x48) 57 4
def LRec.lastTable (r : LRec) : Nat := fieldN (LRec.word r 0x48) 0 57
def LRec.spillBase (r : LRec) : Nat := fieldN (LRec.word r 0x50) 0 57
def LRec.saveBase (r : LRec) : Nat := fieldN (LRec.word r 0x58) 0 57
def LRec.feederImg (r : LRec) : Nat := fieldN (LRec.word r 0x60) 0 57
def LRec.drainImg (r : LRec) : Nat := fieldN (LRec.word r 0x68) 0 57
def LRec.seed (r : LRec) : W64 := LRec.word r 0x70
def LRec.step0 (r : LRec) : W32 := (LRec.word r 0x78).extractLsb' 0 32
def LRec.snapCfg (r : LRec) : Nat := fieldN (LRec.word r 0x80) 0 57
def LRec.dep (r : LRec) (i : Nat) : W64 := LRec.word r (0x88 + 8 * i)
def LRec.utag (r : LRec) : W64 := LRec.word r 0xA8
/-- Teams of the grid (R25). -/
def LRec.teams (r : LRec) : Nat := LRec.ex r * LRec.ey r * LRec.ez r

/-- The linear index of a team (R28). -/
def Team.linear (t : Team) : Nat :=
  t.x.toNat + LRec.ex t.lrec * (t.y.toNat + LRec.ey t.lrec * t.z.toNat)

/-- A context runs in deterministic mode on a core that holds a team of a launch with the flag (R51). -/
def CtxCore.det (x : CtxCore) : Bool := x.teams.toList.any fun t => t.live && LRec.det t.lrec
/-- The mode of a core. -/
def State.det (s : State) (c : CoreId) : Bool := s.cores[c].ctx.det

end Sys2Proof.Machine
end

