-- ==== Sys2Proof/WellFormed.lean ====
section
/-! DEFINITION. Which instructions are well-formed: the checks of steps 3 to 5 of R192 that depend on the word alone,
the registers an instruction reads and writes, and its kind (long-latency, last of its clause). -/

namespace Sys2Proof

/-- Register classes an operand field can name (R189). -/
inductive Cls where
  | v | s | p | q | a
  deriving DecidableEq, Repr

/-- One use of a run of registers by a field: class, first register, length, read, written. -/
structure RegUse where
  cls : Cls
  num : BitVec 8
  len : Nat
  rd  : Bool
  wr  : Bool
  deriving DecidableEq, Repr

/-- The run lies in its class's architectural range (R144, R189). -/
def RegUse.fits (r : RegUse) : Bool :=
  match r.cls with
  | .v => r.num.toNat + r.len ≤ 256
  | .s => r.num.toNat + r.len ≤ 64
  | .p => r.num.toNat + r.len ≤ 8
  | .q => r.num.toNat + r.len ≤ 4
  | .a => r.num.toNat + r.len ≤ 16

/-- The U values an instruction permits (R192 step 3). -/
inductive UKind where
  | both | zero | one
  deriving DecidableEq, Repr

/-- What R192 and R152 need to know of a group instruction. -/
structure Form where
  hd   : Hd
  u    : UKind
  ok   : Bool                 -- steps 4 and, for fragment pairs, 5
  regs : List RegUse
  long : Bool := false        -- long-latency (R152)
  last : Bool := false        -- must stand at index N (R253)

/-- V or S, as U selects (R202). -/
def vs (u : Bool) : Cls := if u then .s else .v
/-- P or Q, as U selects (R202). -/
def pq (u : Bool) : Cls := if u then .q else .p
/-- A register run that is read. -/
def rdR (c : Cls) (f : BitVec 8) (n : Nat := 1) : RegUse := ⟨c, f, n, true, false⟩
/-- A register run that is written. -/
def wrR (c : Cls) (f : BitVec 8) (n : Nat := 1) : RegUse := ⟨c, f, n, false, true⟩
/-- A register run that is read and written. -/
def rwR (c : Cls) (f : BitVec 8) (n : Nat := 1) : RegUse := ⟨c, f, n, true, true⟩

/-- Every low modifier bit is zero. -/
def Low.zero (l : Low) : Bool := !l.b23 && !l.b22 && !l.b21 && l.m == 0
/-- [63:61] of a word whose high byte is h. -/
def hiSpec (h : BitVec 8) : BitVec 3 := h.extractLsb' 5 3
/-- FMT, DFMT or EFMT: [60:56]. -/
def hiFmt (h : BitVec 8) : BitVec 5 := h.extractLsb' 0 5
/-- ORD: [60:59]. -/
def hiOrd (h : BitVec 8) : BitVec 2 := h.extractLsb' 3 2
/-- SCO: [58:56]. -/
def hiSco (h : BitVec 8) : BitVec 3 := h.extractLsb' 0 3

/-! ## Formats (R60, R246) -/

/-- Width of a format code in bits; none for a reserved code (R60). -/
def fmtWidth (f : BitVec 5) : Option Nat :=
  match f.toNat with
  | 0x00 => some 32 | 0x01 => some 32 | 0x02 => some 16 | 0x03 => some 16 | 0x04 => some 8 | 0x05 => some 8
  | 0x06 => some 4 | 0x07 => some 8 | 0x08 => some 32 | 0x09 => some 32 | 0x0A => some 16 | 0x0B => some 16
  | 0x0C => some 8 | 0x0D => some 8 | 0x0E => some 4 | 0x0F => some 4 | 0x10 => some 1 | 0x11 => some 8
  | 0x12 => some 8 | 0x13 => some 16 | 0x14 => some 64 | _ => none
/-- FP32, BF16, FP16, E4M3, E5M2, E2M1, E8M0: side F of R246. -/
def fmtFloat (f : BitVec 5) : Bool := 1 ≤ f.toNat && f.toNat ≤ 7
/-- Signed and unsigned integers. -/
def fmtInt (f : BitVec 5) : Bool := 8 ≤ f.toNat && f.toNat ≤ 15
/-- Raw formats a lane conversion accepts: B32, GF8, B8, B16. -/
def fmtRaw (f : BitVec 5) : Bool := f.toNat == 0 || (0x11 ≤ f.toNat && f.toNat ≤ 0x13)
/-- Side I of R246. -/
def fmtSideI (f : BitVec 5) : Bool := fmtInt f || fmtRaw f

/-! ## Shapes shared by several instructions -/

/-- Integer class, R form (R203): which of SGN and SAT may be set, which bits of [20:18] may be set, the byte
[63:56] zero, and the registers. -/
def intForm (x : FmtR) (sgn sat : Bool) (mask : BitVec 3) (unused : Bool) (regs : List RegUse) : Form :=
  { hd := x.hd, u := .both, regs := regs
    ok := !x.lo.b23 && (sat || !x.lo.b22) && (sgn || !x.lo.b21) && (x.lo.m &&& ~~~mask == 0) && x.h == 0 && unused }

/-- Two sources and a destination of the integer class; C must be zero. -/
def int2 (x : FmtR) (sgn sat : Bool) (mask : BitVec 3 := 0) : Form :=
  let k := vs x.hd.u
  intForm x sgn sat mask (x.c == 0) [wrR k x.d, rdR k x.a, rdR k x.b]
/-- One source and a destination of the integer class; B and C must be zero. -/
def int1 (x : FmtR) (sat : Bool) : Form :=
  let k := vs x.hd.u
  intForm x false sat 0 (x.b == 0 && x.c == 0) [wrR k x.d, rdR k x.a]
/-- Three sources and a destination of the integer class. -/
def int3 (x : FmtR) (sgn sat : Bool) (mask : BitVec 3 := 0) : Form :=
  let k := vs x.hd.u
  intForm x sgn sat mask true [wrR k x.d, rdR k x.a, rdR k x.b, rdR k x.c]
/-- I24 form of the integer class (R203). -/
def intI (x : FmtI24) (sgn sat : Bool) (mask : BitVec 3 := 0) (immOk : Bool := true) : Form :=
  let k := vs x.hd.u
  { hd := x.hd, u := .both, regs := [wrR k x.d, rdR k x.a]
    ok := x.lo.b23 && (sat || !x.lo.b22) && (sgn || !x.lo.b21) && (x.lo.m &&& ~~~mask == 0) && immOk }

/-- Float class, R form (R232): largest RM, SAT and FTZ accepted, permitted bits of [63:56], registers. -/
def fltForm (x : FmtR) (rm : Nat) (sat ftz : Bool) (hmask : BitVec 8) (unused : Bool) (regs : List RegUse)
    (long : Bool := false) : Form :=
  { hd := x.hd, u := .both, regs := regs, long := long
    ok := !x.lo.b23 && (sat || !x.lo.b22) && (ftz || !x.lo.b21) && x.lo.m.toNat ≤ rm && (x.h &&& ~~~hmask == 0)
      && unused }
/-- Two float sources. -/
def flt2 (x : FmtR) (rm : Nat) (sat : Bool) (hmask : BitVec 8) : Form :=
  let k := vs x.hd.u
  fltForm x rm sat true hmask (x.c == 0) [wrR k x.d, rdR k x.a, rdR k x.b]
/-- Three float sources. -/
def flt3 (x : FmtR) (hmask : BitVec 8) : Form :=
  let k := vs x.hd.u
  fltForm x 4 true true hmask true [wrR k x.d, rdR k x.a, rdR k x.b, rdR k x.c]
/-- One float source. -/
def flt1 (x : FmtR) (rm : Nat) (sat ftz : Bool) (long : Bool := false) : Form :=
  let k := vs x.hd.u
  fltForm x rm sat ftz 0 (x.b == 0 && x.c == 0) [wrR k x.d, rdR k x.a] long
/-- I24 form of the float class. -/
def fltI (x : FmtI24) (rm : Nat) (sat : Bool) (d : Cls) : Form :=
  { hd := x.hd, u := .both, regs := [wrR d x.d, rdR (vs x.hd.u) x.a]
    ok := x.lo.b23 && (sat || !x.lo.b22) && x.lo.m.toNat ≤ rm }

/-- Conversions (R246, R247): FI and FTZ zero, SFMT in C[4:0]. -/
def cvtForm (x : FmtR) (srcOk dstOk rmOk satOk : Bool) : Form :=
  let k := vs x.hd.u
  let w := (fmtWidth (x.c.extractLsb' 0 5)).getD 32
  { hd := x.hd, u := .both, regs := [wrR k x.d, rdR k x.a]
    ok := !x.lo.b23 && !x.lo.b21 && x.b == 0 && x.c.extractLsb' 5 3 == 0 && srcOk && dstOk && rmOk && satOk
      && (hiSpec x.h).toNat < 32 / w }

/-- Coordinate registers of a memory operand (R187, R198). -/
def coordR (u : Bool) (cr : BitVec 8) (dm : BitVec 2) (c : Nat := 1) : RegUse := rdR (vs u) cr (c * (dm.toNat + 1))

/-- Length of a data run by SIZE (R256). -/
def sizeRun (m : BitVec 3) : Nat := if m.toNat ≤ 2 then 1 else if m.toNat = 3 then 2 else 4

/-- LD, LDU, ST, STU (R191, R256). -/
def ldst (x : FmtM) (u : UKind) (load : Bool) : Form :=
  let cp : Nat := x.lo.b23.toNat * 2 + x.lo.b22.toNat
  { hd := x.hd, u := u, long := true
    ok := x.lo.m.toNat ≤ 4 && (!x.lo.b21 || (load && x.lo.m.toNat ≤ 1)) && (if load then cp ≤ 2 else cp = 0)
    regs := [⟨vs x.hd.u, x.d, sizeRun x.lo.m, !load, load⟩, coordR x.hd.u x.cr x.dm] }

/-- PREF and CCTL (R261, R262). -/
def lineOp (x : FmtM) (long : Bool) : Form :=
  { hd := x.hd, u := .both, long := long
    ok := x.lo.m.toNat ≤ 2 && !x.lo.b23 && !x.lo.b22 && !x.lo.b21 && x.d == 0
    regs := [coordR x.hd.u x.cr x.dm] }

/-- Atomics (R265): the operation field, the orders accepted, W64, and the data registers. -/
def atomForm (x : FmtMA) (opOk : Bool) (ords : List (BitVec 2)) (w64 : Bool) (unused : Bool) (regs : List RegUse)
    (u : UKind := .both) (c : Nat := 1) (last : Bool := false) : Form :=
  { hd := x.hd, u := u, long := true, last := last
    ok := opOk && ords.contains x.ord && (w64 || !x.w64) && x.z == 0 && x.sco.toNat ≤ 5 && unused
    regs := regs ++ [coordR x.hd.u x.cr x.dm c] }

/-- Barrier operand of R278. -/
def barOperand (x : FmtR) : List RegUse := if x.lo.b23 then [rdR .s x.a] else []
/-- With BR = 0, A holds a barrier number from 0 to 95. -/
def barOk (x : FmtR) : Bool := x.lo.b23 || x.a.toNat ≤ 95
/-- Order and scope of a synchronisation word: SCO is 0 when ORD is 0, and at most 5. -/
def ordOk (h : BitVec 8) (ords : List (BitVec 2)) : Bool :=
  hiSpec h == 0 && ords.contains (hiOrd h) && (hiSco h).toNat ≤ 5 && (hiOrd h != 0 || hiSco h == 0)
/-- A synchronisation instruction. -/
def syncForm (x : FmtR) (u : UKind) (ok : Bool) (regs : List RegUse) (long last : Bool := false) : Form :=
  { hd := x.hd, u := u, ok := ok, regs := regs, long := long, last := last }

/-- R-format fields that must all be zero. -/
def FmtR.zero (x : FmtR) : Bool := x.lo.zero && x.d == 0 && x.a == 0 && x.b == 0 && x.c == 0 && x.h == 0

/-- A ring operand: bits [7:3] zero (R189). -/
def ringOk (f : BitVec 8) : Bool := f.extractLsb' 3 5 == 0

/-- Copy commands (R188, R309): modifier fields permitted, 15 or 18 argument registers. -/
def copyForm (x : FmtRE) (ok : Bool) (aux : Bool) : Form :=
  { hd := x.hd, u := .one, long := true
    ok := ok && x.lsz == 0 && x.ldz == 0 && (x.rge || x.ring == 0) && (x.bi.toNat ≤ 95 || x.bi == 127)
    regs := [wrR .s (x.ds.setWidth 8), rdR .s (x.sa.setWidth 8) (if aux then 18 else 15)] }

/-- Special-register numbers of R200. -/
def srnOk (n : BitVec 12) : Bool :=
  let k := n.toNat
  k ≤ 7 || k == 0x10 || k == 0x11 || (0x18 ≤ k && k ≤ 0x20) || (0x28 ≤ k && k ≤ 0x2A) || (0x40 ≤ k && k ≤ 0x47)

/-- SY: the fields R188 makes zero. -/
def syOk (x : FmtSY) : Bool := x.lo.zero && x.z4 == 0 && x.z16 == 0

/-- Elements a PACK or UNPACK moves (R248). -/
def packN (f : BitVec 5) : Nat := if fmtWidth f == some 16 then 2 else 4
/-- Narrow formats of PACK: BF16, FP16, E4M3, E5M2, E2M1 and the narrow integers (R248). -/
def packFmt (f : BitVec 5) : Bool := (2 ≤ f.toNat && f.toNat ≤ 6) || (0x0A ≤ f.toNat && f.toNat ≤ 0x0F)
/-- Element formats of QNT and DQNT (R250). -/
def mxFmt (f : BitVec 5) : Bool := f.toNat == 4 || f.toNat == 6 || f.toNat == 0x0C

/-- The form of every group instruction; none for companion instructions, events and ILL (R330). Accepted where the spec does
not say: any RM to 4 and SAT of CPPUT.XOR, which rounds nothing (R190; log entry 102), and any duration and onset of a
PHINT that cancels (R193, R324; log entry 103). -/
def Instr.form : Instr → Option Form
  | .nop x => some (intForm x false false 0 (x.d == 0 && x.a == 0 && x.b == 0 && x.c == 0) [])
  | .iadd x => some (int2 x true true)
  | .iaddI24 x => some (intI x true true)
  | .isub x => some (int2 x true true)
  | .isubI24 x => some (intI x true true)
  | .iaddc x => some (let k := vs x.hd.u
      intForm x false false 1 true [wrR k x.d, rdR k x.a, rdR k x.b, rwR (pq x.hd.u) x.c])
  | .imul x => some (int2 x true true)
  | .imulI24 x => some (intI x true true)
  | .imulh x => some (int2 x true false)
  | .imad x => some (int3 x true true)
  | .imadw x => some (let k := vs x.hd.u
      intForm x true false 0 true [wrR k x.d 2, rdR k x.a, rdR k x.b, rdR k x.c 2])
  | .imin x => some (int2 x true false)
  | .iminI24 x => some (intI x true false)
  | .imax x => some (int2 x true false)
  | .imaxI24 x => some (intI x true false)
  | .iabs x => some (int1 x true)
  | .ineg x => some (int1 x true)
  | .idot4 x => some (int3 x false true 7)
  | .lop x => some { int3 { x with h := 0 } false false with hd := x.hd }
  | .shl x => some (int2 x false false 1)
  | .shlI24 x => some (intI x false false 1)
  | .shr x => some (int2 x false false 1)
  | .shrI24 x => some (intI x false false 1)
  | .sar x => some (int2 x false false 1)
  | .sarI24 x => some (intI x false false 1)
  | .shf x => some (int3 x false false 7)
  | .bfx x => some (int2 x true false)
  | .bfxI24 x => some (intI x true false 0 (x.imm.extractLsb' 6 2 == 0 && x.imm.extractLsb' 14 10 == 0))
  | .bfi x => some (int3 x false false)
  | .popc x => some (int1 x false)
  | .clz x => some (int1 x false)
  | .brev x => some (int1 x false)
  | .icmp x => some (let k := vs x.hd.u
      intForm x true false 7 (x.c == 0 && x.lo.m.toNat ≤ 5) [wrR (pq x.hd.u) x.d, rdR k x.a, rdR k x.b])
  | .icmpI24 x => some { intI x true false 7 (x.lo.m.toNat ≤ 5) with
      regs := [wrR (pq x.hd.u) x.d, rdR (vs x.hd.u) x.a] }
  | .sel x => some (let k := vs x.hd.u
      intForm x false false 0 true [wrR k x.d, rdR k x.a, rdR k x.b, rdR (pq x.hd.u) x.c])
  | .mov x => some (int1 x false)
  | .movi x => some { hd := x.hd, u := .both, regs := [rwR (vs x.hd.u) x.d]
                      ok := !x.lo.b23 && !x.lo.b22 && !x.lo.b21 && x.lo.m.toNat ≤ 2 }
  | .prmt x => some (int3 x false false)
  | .gfmul x => some (int2 x false false 1)
  | .gfmac x => some (int3 x false false 1)
  | .crc32c x => some { int2 x false false 3 with
      ok := (int2 x false false 3).ok && x.lo.m.extractLsb' 0 2 != 3 }
  | .plop x => some (let k := pq x.hd.u
      intForm { x with h := 0 } false false 0 true [wrR k x.d, rdR k x.a, rdR k x.b, rdR k x.c])
  | .fadd x => some (flt2 x 4 true 3)
  | .faddI24 x => some (fltI x 4 true (vs x.hd.u))
  | .fmul x => some (flt2 x 4 true 3)
  | .fmulI24 x => some (fltI x 4 true (vs x.hd.u))
  | .ffma x => some (flt3 x 7)
  | .fmin x => some (flt2 x 0 false 0)
  | .fminI24 x => some (fltI x 0 false (vs x.hd.u))
  | .fmax x => some (flt2 x 0 false 0)
  | .fmaxI24 x => some (fltI x 0 false (vs x.hd.u))
  | .fcmp x => some (let k := vs x.hd.u
      fltForm x 0 false true 7 (x.c == 0) [wrR (if x.h == 0 then k else pq x.hd.u) x.d, rdR k x.a, rdR k x.b])
  | .fcmpI24 x => some (fltI x 0 false (vs x.hd.u))
  | .fclass x => some (let k := vs x.hd.u
      fltForm x 0 false false 3 (x.b == 0 && x.c == 0 && x.h != 3) [wrR k x.d, rdR k x.a])
  | .frnd x => some (let k := vs x.hd.u
      let csgn := x.h == 3
      fltForm x (if x.h == 0 then 3 else 0) false (x.h == 0) 3 (x.c == 0 && (csgn || x.b == 0))
        ([wrR k x.d, rdR k x.a] ++ if csgn then [rdR k x.b] else []))
  | .frcp x => some (flt1 x 3 true true true)
  | .frsq x => some (flt1 x 0 true true true)
  | .fsqrt x => some (flt1 x 3 true true true)
  | .fdiv x => some { flt2 x 3 true 0 with long := true }
  | .fexp2 x => some (flt1 x 0 true true true)
  | .flog2 x => some (flt1 x 0 true true true)
  | .fsin x => some (flt1 x 0 true true true)
  | .fcos x => some (flt1 x 0 true true true)
  | .ftanh x => some (flt1 x 0 true true true)
  | .fsigm x => some (flt1 x 0 true true true)
  | .fscale x => some (flt2 x 4 true 0)
  | .fexpo x => some (flt1 x 0 false true)
  | .hadd2 x => some (flt2 x 4 true 0xB)
  | .hmul2 x => some (flt2 x 4 true 0xB)
  | .hfma2 x => some (flt3 x 0xF)
  | .hmin2 x => some (flt2 x 0 false 8)
  | .hmax2 x => some (flt2 x 0 false 8)
  | .fdot2 x => some (flt3 x 0xF)
  | .cvtF2f x => some (let s := x.c.extractLsb' 0 5; let d := hiFmt x.h; let e8 := d == 7
      cvtForm x (fmtFloat s) (fmtFloat d) (if e8 then x.lo.m == 0 else x.lo.m.toNat ≤ 4) (!e8 || !x.lo.b22))
  | .cvtF2i x => some (let s := x.c.extractLsb' 0 5; let d := hiFmt x.h
      cvtForm x (fmtFloat s) (fmtInt d) (x.lo.m.toNat ≤ 4) (!x.lo.b22))
  | .cvtI2f x => some (let s := x.c.extractLsb' 0 5; let d := hiFmt x.h; let e8 := d == 7
      cvtForm x (fmtInt s) (fmtFloat d) (if e8 then x.lo.m == 0 else x.lo.m.toNat ≤ 4) (!e8 || !x.lo.b22))
  | .cvtI2i x => some (let s := x.c.extractLsb' 0 5; let d := hiFmt x.h
      cvtForm x (fmtSideI s) (fmtSideI d) (x.lo.m == 0) (!x.lo.b22 || (fmtInt s && fmtInt d)))
  | .pack x => some (let k := vs x.hd.u; let s := x.c.extractLsb' 0 5; let d := hiFmt x.h
      let w4 := fmtWidth d == some 4
      { hd := x.hd, u := .both, regs := [⟨k, x.d, 1, w4, true⟩, rdR k x.a (packN d)]
        ok := !x.lo.b23 && !x.lo.b21 && x.b == 0 && x.c.extractLsb' 5 3 == 0
          && (s.toNat == 1 || s.toNat == 8 || s.toNat == 9) && packFmt d && x.lo.m.toNat ≤ 4
          && (fmtFloat d || !x.lo.b22) && (hiSpec x.h).toNat ≤ (if w4 then 1 else 0) })
  | .unpack x => some (let k := vs x.hd.u; let s := x.c.extractLsb' 0 5; let d := hiFmt x.h
      let w4 := fmtWidth s == some 4
      { hd := x.hd, u := .both, regs := [wrR k x.d (packN s), rdR k x.a]
        ok := !x.lo.b23 && !x.lo.b22 && !x.lo.b21 && x.lo.m == 0 && x.b == 0 && x.c.extractLsb' 5 3 == 0
          && (packFmt s || s.toNat == 7) && (d.toNat == 1 || (d.toNat == 8 && fmtInt s))
          && (hiSpec x.h).toNat ≤ (if w4 then 1 else 0) })
  | .qnt x => some { hd := x.hd, u := .zero, regs := [wrR .v x.d, rdR .v x.a, wrR .s x.c]
                     ok := x.b == 0 && mxFmt (hiFmt x.h) && hiSpec x.h == 0 && !x.lo.b23 && !x.lo.b22 && !x.lo.b21
                       && (x.lo.m == 0 || x.lo.m == 4) }
  | .dqnt x => some { hd := x.hd, u := .both, regs := [wrR (vs x.hd.u) x.d, rdR (vs x.hd.u) x.a, rdR .s x.c]
                      ok := x.b == 0 && mxFmt (hiFmt x.h) && hiSpec x.h == 0 && !x.lo.b23 && !x.lo.b21
                        && x.lo.m.toNat ≤ 3 }
  | .shfl x => some (let bi := x.h.getLsbD 3
      { hd := x.hd, u := .zero
        regs := [wrR .v x.d, rdR .v x.a, wrR .p x.c] ++ if bi then [] else [rdR .v x.b]
        ok := !x.lo.b21 && x.lo.m == 0 && x.h.extractLsb' 4 4 == 0 && (hiSco x.h).toNat ≤ 5
          && (!bi || x.b.extractLsb' 6 2 == 0) })
  | .bcst x => some { hd := x.hd, u := .zero, regs := [wrR .v x.d, rdR .v x.a]
                      ok := !x.lo.b21 && x.lo.m == 0 && x.h == 0 && x.c == 0 && !(x.lo.b23 && x.lo.b22)
                        && (if x.lo.b23 || x.lo.b22 then x.b == 0 else x.b.extractLsb' 5 3 == 0) }
  | .vote x => some (let mode := hiSco x.h
      { hd := x.hd, u := .both
        regs := [wrR (if mode.toNat ≤ 3 then pq x.hd.u else vs x.hd.u) x.d, rdR .p x.a]
        ok := x.lo.zero && x.h.extractLsb' 3 5 == 0 && mode.toNat ≤ 5 && x.b == 0 && x.c == 0 })
  | .matchLanes x => some { hd := x.hd, u := .zero, regs := [wrR .v x.d, rdR .v x.a, wrR .p x.c]
                            ok := !x.lo.b21 && x.lo.m == 0 && x.h == 0 && x.b == 0 && !(x.lo.b23 && x.lo.b22) }
  | .redux x => some (let op := hiSco x.h
      { hd := x.hd, u := .both, regs := [wrR (vs x.hd.u) x.d, rdR .v x.a]
        ok := x.lo.zero && x.h.extractLsb' 4 4 == 0 && (!x.h.getLsbD 3 || op == 1 || op == 2) && x.b == 0
          && x.c == 0 })
  | .fredux x => some (let op := x.h.extractLsb' 0 2
      { hd := x.hd, u := .both, regs := [wrR (vs x.hd.u) x.d, rdR .v x.a]
        ok := !x.lo.b23 && !x.lo.b22 && x.h.extractLsb' 2 6 == 0 && op != 3 && x.b == 0 && x.c == 0
          && x.lo.m.toNat ≤ (if op == 0 then 3 else 0) })
  | .scan x => some (let op := hiSco x.h
      { hd := x.hd, u := .zero, regs := [wrR .v x.d, rdR .v x.a]
        ok := !x.lo.b22 && x.h.extractLsb' 3 5 == 0 && x.b == 0 && x.c == 0
          && x.lo.m.toNat ≤ (if op == 5 then 3 else 0) && (!x.lo.b21 || op.toNat ≥ 5) })
  | .s2v x => some { hd := x.hd, u := .zero, regs := [wrR .v x.d, rdR .s x.a]
                     ok := x.lo.zero && x.h == 0 && x.b == 0 && x.c == 0 }
  | .v2s x => some { hd := x.hd, u := .one, regs := [wrR .s x.d, rdR .v x.a]
                     ok := !x.lo.b23 && !x.lo.b21 && x.lo.m == 0 && x.h == 0 && x.c == 0
                       && (if x.lo.b22 then x.b == 0 else x.b.extractLsb' 5 3 == 0) }
  | .ld x => some (ldst x .zero true)
  | .st x => some (ldst x .zero false)
  | .ldu x => some (ldst x .one true)
  | .stu x => some (ldst x .one false)
  | .ldf x => some { hd := x.hd, u := .zero, long := true, regs := [wrR .a x.d, coordR x.hd.u x.cr x.dm]
                     ok := x.lo.m == 2 && !x.lo.b21 && !(x.lo.b23 && x.lo.b22) }
  | .stf x => some { hd := x.hd, u := .zero, long := true, regs := [rdR .a x.d, coordR x.hd.u x.cr x.dm]
                     ok := x.lo.m == 2 && !x.lo.b21 && !x.lo.b23 && !x.lo.b22 }
  | .pref x => some (lineOp x false)
  | .cctl x => some (lineOp x true)
  | .ltsub x => some { hd := x.hd, u := .one, regs := [rdR .s x.b 8, rdR .s x.c]
                       ok := !x.lo.b23 && !x.lo.b21 && x.lo.m == 0 && x.d.extractLsb' 6 2 == 0
                         && x.a.extractLsb' 6 2 == 0 && hiSpec x.h == 0
                         && (if x.lo.b22 then (fmtWidth (hiFmt x.h)).isSome else x.h == 0) }
  | .ltsubInv x => some { hd := x.hd, u := .one, regs := []
                          ok := x.lo.b23 && !x.lo.b22 && !x.lo.b21 && x.lo.m == 0 && x.d.extractLsb' 6 2 == 0
                            && x.a == 0 && x.b == 0 && x.c == 0 && x.h == 0 }
  | .ltqry x => some { hd := x.hd, u := .one, regs := [wrR .s x.d]
                       ok := !x.lo.b23 && !x.lo.b22 && x.a.extractLsb' 6 2 == 0 && x.b == 0 && x.c == 0
                         && x.h == 0 }
  | .atom x => some (let k := vs x.hd.u; let n := if x.w64 then 2 else 1
      atomForm x (x.op.toNat ≤ 10) [0, 1, 2, 3] (x.op.toNat ≤ 8) true [wrR k x.d n, rdR k x.b n])
  | .atomf x => some (let k := vs x.hd.u
      atomForm x (x.op.extractLsb' 4 2 == 0 && x.op.extractLsb' 2 2 != 3 && x.op.extractLsb' 0 2 != 3) [0, 1, 2, 3]
        false true [wrR k x.d, rdR k x.b])
  | .cas x => some (let k := vs x.hd.u; let n := if x.w64 then 2 else 1
      atomForm x (x.op == 0) [0, 1, 2, 3] true true [wrR k x.d n, rdR k x.b (2 * n)])
  | .red x => some (let k := vs x.hd.u; let n := if x.w64 then 2 else 1
      atomForm x (x.op.toNat ≤ 10 && x.op != 8) [0, 1] (x.op.toNat ≤ 8) (x.d == 0) [rdR k x.b n])
  | .redf x => some (let k := vs x.hd.u
      atomForm x (x.op.extractLsb' 4 2 == 0 && x.op.extractLsb' 2 2 != 3 && x.op.extractLsb' 0 2 != 3) [0, 1]
        false (x.d == 0) [rdR k x.b])
  | .redd x => some (atomForm x (x.op.toNat ≤ 3) [0, 1] false (x.d == 0) [rdR (vs x.hd.u) x.b])
  | .redflush x => some (syncForm x .both (x.lo.zero && x.d == 0 && x.a == 0 && x.b == 0 && x.c == 0
      && hiSpec x.h == 0 && (hiOrd x.h).toNat ≤ 1 && (hiSco x.h).toNat ≤ 5) [] true)
  | .ffill x => some (atomForm x (x.op == 0) [0, 1] false true [wrR (pq x.hd.u) x.d, rdR (vs x.hd.u) x.b])
  | .fwait x => some (atomForm x (x.op == 0) [0, 2] false (x.b == 0) [wrR (vs x.hd.u) x.d] (last := true))
  | .freset x => some (atomForm x (x.op == 0) [0] false (x.d == 0 && x.b == 0) [])
  | .waita x => some (let c := (x.op.extractLsb' 0 2).toNat + 1
      atomForm x (x.op.toNat ≤ 3) [0] false true [wrR .s x.d, rdR .s x.b c] .one c true)
  | .bari x => some (syncForm x .both (barOk x && !x.lo.b22 && !x.lo.b21 && x.lo.m.extractLsb' 0 2 != 3 && x.d == 0
      && ordOk x.h [0]) (barOperand x ++ [rdR .s x.b, rdR .s x.c]))
  | .bara x => some (syncForm x .both (barOk x && x.lo.m == 0 && x.d == 0 && (x.lo.b22 || x.b == 0)
      && (x.lo.b21 || x.c == 0) && ordOk x.h [0, 1])
      (barOperand x ++ (if x.lo.b22 then [rdR .s x.b] else []) ++ if x.lo.b21 then [rdR .s x.c] else []) true)
  | .barw x => some (let form : Nat := x.lo.b22.toNat * 2 + x.lo.b21.toNat
      let pr := x.lo.m.getLsbD 2; let par := x.lo.m.getLsbD 0
      syncForm x .both (barOk x && form ≤ 2 && !x.lo.m.getLsbD 1 && (!pr || !par) && (form != 2 || (!pr && !par))
        && x.d == 0 && (form != 0 || x.b == 0) && (pr || x.c == 0) && ordOk x.h [0, 2])
        (barOperand x ++ (if form != 0 then [rdR .s x.b] else []) ++ if pr then [rdR .s x.c] else []) true true)
  | .bars x => some (syncForm x .both (barOk x && !x.lo.b21 && x.lo.m == 0 && x.d == 0 && (x.lo.b22 || x.b == 0)
      && x.c == 0 && ordOk x.h [0, 1, 2, 3])
      (barOperand x ++ if x.lo.b22 then [rdR .s x.b] else []) true true)
  | .barq x => some (syncForm x .one (barOk x && !x.lo.b22 && !x.lo.b21 && x.lo.m == 0 && x.b == 0 && x.c == 0
      && x.h == 0 && !x.d.getLsbD 0) (barOperand x ++ [wrR .s x.d 2]))
  | .fence x => some (syncForm x .both (x.lo.zero && x.d == 0 && x.a == 0 && x.b == 0 && x.c == 0
      && ordOk x.h [1, 2, 3]) [] true)
  | .pfence x => some (syncForm x .both x.zero [])
  | .psync x => some (syncForm x .both x.zero [] true true)
  | .stepClose x => some (syncForm x .one (x.lo.zero && x.d == 0 && x.b == 0 && x.c == 0 && x.h == 0)
      [rdR .s x.a] true)
  | .snap x => some (syncForm x .one (x.lo.zero && x.b == 0 && x.c == 0 && x.h == 0) [wrR .q x.d, rdR .s x.a])
  | .bra x => some { hd := x.hd, u := .both, regs := [], ok := x.lo.zero && x.d == 0 }
  | .brx x => some (syncForm x .both (x.lo.zero && x.d == 0 && x.b == 0 && x.c == 0 && x.h == 0)
      [rdR (vs x.hd.u) x.a])
  | .call x => some { hd := x.hd, u := .both, regs := [wrR (vs x.hd.u) x.d], ok := x.lo.zero }
  | .callx x => some (syncForm x .both (x.lo.zero && x.b == 0 && x.c == 0 && x.h == 0)
      [wrR (vs x.hd.u) x.d, rdR (vs x.hd.u) x.a])
  | .ret x => some (syncForm x .both (x.lo.zero && x.d == 0 && x.b == 0 && x.c == 0 && x.h == 0)
      [rdR (vs x.hd.u) x.a])
  | .meet x => some { hd := x.hd, u := .zero, regs := [wrR .v x.d], ok := x.lo.zero }
  | .join x => some (syncForm x .zero (x.lo.zero && x.d == 0 && x.b == 0 && x.c == 0 && x.h == 0)
      [rdR .v x.a] (last := true))
  | .exitLanes x => some (syncForm x .both x.zero [])
  | .yieldTurn x => some (syncForm x .both x.zero [])
  | .sleep x => some { hd := x.hd, u := .both, regs := [], ok := x.lo.zero && x.d == 0 && x.a == 0 }
  | .phint x => some { hd := x.hd, u := .both, regs := []
                       ok := x.lo.zero && x.d == 0 && x.a == 0 && x.imm.extractLsb' 12 12 == 0
                         && (x.imm.extractLsb' 4 4).toNat ≤ 8 }
  | .trap x => some { hd := x.hd, u := .both, regs := [], ok := x.lo.zero && x.d == 0 && x.a == 0 }
  | .bkpt x => some { hd := x.hd, u := .both, regs := [], ok := x.lo.zero && x.d == 0 && x.a == 0 }
  | .qmma x => some (let n := if x.lo.b23 then 2 else 1; let f := (hiFmt x.h).toNat
      { hd := x.hd, u := .zero, long := true
        regs := [wrR .a x.d n, rdR .v x.a 4, rdR .v x.b (4 * n), rdR .a x.c n]
        ok := !x.lo.b22 && !x.lo.b21 && x.lo.m == 0 && hiSpec x.h == 0
          && (1 ≤ f && f ≤ 6 || 0x0C ≤ f && f ≤ 0x0F)
          && (!x.lo.b23 || (!x.d.getLsbD 0 && !x.c.getLsbD 0)) })
  | .qmmb x => some (let n := if x.lo.b23 then 2 else 1
      { hd := x.hd, u := .zero, long := true
        regs := [wrR .a x.d n, rdR .v x.a 4, rdR .v x.b (4 * n), rdR .a x.c n]
        ok := !x.lo.b21 && x.lo.m == 0 && hiSpec x.h == 0 && hiFmt x.h == 0x10
          && (!x.lo.b23 || (!x.d.getLsbD 0 && !x.c.getLsbD 0)) })
  | .qzero x => some { hd := x.hd, u := .zero, regs := [wrR .a x.d (if x.lo.b23 then 2 else 1)]
                       ok := !x.lo.b22 && !x.lo.b21 && x.lo.m == 0 && x.a == 0 && x.b == 0 && x.c == 0 && x.h == 0
                         && (!x.lo.b23 || !x.d.getLsbD 0) }
  | .qmov x => some { hd := x.hd, u := .zero
                      regs := if x.lo.b23 then [wrR .a x.d, rdR .a x.a]
                        else if x.lo.b22 then [wrR .a x.d, rdR .v x.a 8] else [wrR .v x.d 8, rdR .a x.a]
                      ok := !(x.lo.b23 && x.lo.b22) && !x.lo.b21 && x.lo.m == 0 && x.b == 0 && x.c == 0
                        && x.h == 0 }
  | .mxcfg x => some (syncForm x .one (x.lo.zero && x.d == 0 && x.b == 0 && x.c == 0 && x.h == 0) [rdR .s x.a])
  | .mxw x => some (syncForm x .one (!x.lo.b23 && !x.lo.b21 && x.lo.m == 0 && ringOk x.a && x.b == 0 && x.c == 0
      && x.d == 0 && x.h == 0) [] true)
  | .mxmm x => some (syncForm x .one (x.lo.m == 0 && ringOk x.a && ringOk x.b && x.c == 0 && x.d == 0 && x.h == 0)
      [] true)
  | .mxscan x => some (syncForm x .one (!(x.lo.b23 && x.lo.b22) && x.lo.m == 0 && ringOk x.a && ringOk x.b
      && x.c == 0 && x.d == 0 && x.h == 0) [] true)
  | .mxepi x => some (let f := (hiFmt x.h).toNat
      syncForm x .one (x.lo.m.toNat ≤ 4 && x.a == 0 && ringOk x.b && x.c == 0 && x.d == 0 && hiSpec x.h == 0
        && (1 ≤ f && f ≤ 5 || f == 8 || f == 0x0C)) [] true)
  | .mxt x => some (syncForm x .one (!x.lo.b23 && !x.lo.b22 && x.lo.m == 0 && ringOk x.a && ringOk x.b && x.c == 0
      && x.d == 0 && x.h == 0) [] true)
  | .rgset x => some (syncForm x .one (x.lo.zero && ringOk x.a && x.c == 0 && x.d == 0 && x.h == 0) [rdR .s x.b])
  | .rgsetClr x => some (syncForm x .one (x.lo.b23 && !x.lo.b22 && !x.lo.b21 && x.lo.m == 0 && ringOk x.a
      && x.b == 0 && x.c == 0 && x.d == 0 && x.h == 0) [])
  | .rgput x => some (syncForm x .one (!x.lo.b21 && x.lo.m == 0 && ringOk x.a && x.c == 0 && x.d == 0 && x.h == 0
      && (x.lo.b22 || x.b.toNat ≤ 64) && (!x.lo.b23 || x.hd.sb != 7)) (if x.lo.b22 then [rdR .s x.b] else []) true)
  | .rgget x => some (syncForm x .one (!x.lo.b21 && x.lo.m == 0 && ringOk x.a && x.c == 0 && x.d == 0 && x.h == 0
      && (x.lo.b22 || x.b.toNat ≤ 64) && (!x.lo.b23 || x.hd.sb != 7)) (if x.lo.b22 then [rdR .s x.b] else [])
      x.lo.b23)
  | .rgqry x => some (syncForm x .one (x.lo.zero && ringOk x.a && x.b == 0 && x.c == 0 && x.h == 0
      && !x.d.getLsbD 0) [wrR .s x.d 2])
  | .cpt x => some (let mxd := x.spec.getLsbD 2; let mxq := x.spec.getLsbD 1
      copyForm x (x.rm.toNat ≤ 4 && !(mxd && mxq) && (!mxq || x.rm == 0 || x.rm == 4)) (x.fut || mxd || mxq))
  | .cpg x => some (copyForm x (x.rm.toNat ≤ 4 && x.spec.toNat ≤ 1) true)
  | .cps x => some (copyForm x (x.rm.toNat ≤ 4 && x.spec.toNat ≤ 1) true)
  | .cpf x => some (copyForm x (x.rm == 0 && x.spec == 0 && x.ls == 0) x.fut)
  | .cpr x => some (copyForm x (x.rm.toNat ≤ 3 && x.spec.extractLsb' 1 2 != 3) x.fut)
  | .cpput x => some (let op := x.spec.extractLsb' 1 2
      copyForm x (x.rm.toNat ≤ 4 && op != 3 && !(x.fut && x.bi != 127) && (op == 0 || (!x.fut && x.bi == 127))) true)
  | .cpget x => some (copyForm x (x.rm.toNat ≤ 4 && x.spec.toNat ≤ 1) true)
  | .cpc x => some (syncForm x .one (x.lo.zero && x.b == 0 && x.c == 0 && x.h == 0) [wrR .q x.d, rdR .s x.a])
  | .cpq x => some (syncForm x .one (x.lo.zero && x.b == 0 && x.c == 0 && x.h == 0 && !x.d.getLsbD 0)
      [wrR .s x.d 2, rdR .s x.a])
  | .tspawn x => some { hd := x.hd, u := .both
                        regs := [rdR (vs x.hd.u) x.d 8, wrR (pq x.hd.u) (x.lo.m.setWidth 8)]
                        ok := !x.lo.b23 && !x.lo.b22 && !x.lo.b21 }
  | .tchild x => some (syncForm x .one (x.lo.zero && x.c == 0 && x.h == 0)
      [wrR .q x.d, rdR .s x.a 2, wrR .s x.b] true)
  | .twait x => some (syncForm x .one (!(x.lo.b23 && x.lo.b22) && !x.lo.b21 && x.lo.m == 0 && x.d == 0 && x.b == 0
      && x.c == 0 && x.h == 0 && ((!x.lo.b23 && !x.lo.b22) || x.a == 0))
      (if x.lo.b23 || x.lo.b22 then [] else [rdR .s x.a]) true true)
  | .targ x => some (syncForm x .zero (x.lo.zero && x.a == 0 && x.b == 0 && x.c == 0 && x.h == 0) [wrR .v x.d 8])
  | .stage x => some { hd := x.hd, u := .one, long := true, last := true
                       regs := [wrR .q x.d, coordR x.hd.u x.cr x.dm], ok := x.lo.zero && x.off == 0 }
  | .rdsr x => some { hd := x.hd, u := .both, regs := [wrR (vs x.hd.u) x.d]
                      ok := syOk x && srnOk x.srn
                        && !(x.hd.u && (x.srn == 0 || (0x18 ≤ x.srn.toNat && x.srn.toNat ≤ 0x1F))) }
  | .wrsr x => some { hd := x.hd, u := .one, regs := [rdR .s x.d], ok := syOk x && srnOk x.srn }
  | .rdcnt x => some { hd := x.hd, u := .both, regs := [wrR (vs x.hd.u) x.d 2]
                       ok := syOk x && x.srn.toNat ≤ 4 && !x.d.getLsbD 0 }
  | .rte x => some (syncForm x .one x.zero [])
  | .flt x => some { hd := x.hd, u := .both, regs := [], ok := x.lo.zero && x.d == 0 && x.a == 0 }
  | _ => none

/-- The guard field as R192 step 3 checks it: SB is not 6, and G[2] is zero when U is 1. -/
def Hd.ok (h : Hd) (u : UKind) : Bool :=
  h.sb != 6 && (!h.u || !h.g.getLsbD 2) && (match u with | .both => true | .zero => !h.u | .one => h.u)

/-- Steps 3 to 5 of R192 for the word alone. -/
def Form.wf (f : Form) : Bool := f.hd.ok f.u && f.ok && f.regs.all RegUse.fits

/-- Companion instructions: the values of R336 and R339 that are instructions, the rest faulting ILLEGAL_OPCODE. -/
def Instr.companionOk : Instr → Bool
  | .kbarw x => x.form != 3 && (x.form != 0 || x.rs2 == 0) && (x.form != 2 || !x.par)
  | _ => true

/-- An instruction is well-formed when its word passes every check of R192 that needs no machine state; an event and
ILL carry no checked field. -/
def Instr.wf (i : Instr) : Bool :=
  match i.form with
  | some f => f.wf
  | none => i.companionOk

end Sys2Proof
end

