-- ==== Sys2Proof/Machine/Operands.lean ====
section
/-! DEFINITION. Operand forms: guards and active lanes (R147), register reads and writes (R144 to R148, R189),
poison marks (R255), and the runs of registers. -/

namespace Sys2Proof.Machine
open Sys2Proof

/-! ## Reading registers -/

/-- V(r) of lane l. -/
def Group.rdV (g : Group) (r : Nat) (l : Fin 32) : W32 := (vat g.v r)[l]
/-- S(r). -/
def Group.rdS (g : Group) (r : Nat) : W32 := vat g.s r
/-- P(r) of lane l: P7 reads true (R145). -/
def Group.rdP (g : Group) (r : Nat) (l : Fin 32) : Bool := r == 7 || (vat g.p r).getLsbD l.val
/-- The lane mask of P(r). -/
def Group.maskP (g : Group) (r : Nat) : Mask := if r == 7 then BitVec.allOnes 32 else vat g.p r
/-- Q(r): Q3 reads true (R145). -/
def Group.rdQ (g : Group) (r : Nat) : Bool := r == 3 || vat g.q r
/-- The row of fragment r in lane l (R146). -/
def Group.rdA (g : Group) (r : Nat) (l : Fin 32) : BitVec 256 := (vat g.frag r)[l]
/-- A source operand: S when U = 1, V of the lane when U = 0 (R202). -/
def Group.src (g : Group) (u : Bool) (r : Nat) (l : Fin 32) : W32 := if u then g.rdS r else g.rdV r l
/-- A predicate operand: Q when U = 1, P of the lane when U = 0 (R202). -/
def Group.psrc (g : Group) (u : Bool) (r : Nat) (l : Fin 32) : Bool := if u then g.rdQ r else g.rdP r l

/-! ## Writing registers -/

/-- V(r) written in the lanes of m (R148); marks of those lanes are cleared (R255). -/
def Group.wrV (g : Group) (r : Nat) (m : Mask) (f : Fin 32 → W32) : Group :=
  let k := Fin.ofNat 256 r
  { g with v := vmod g.v k fun old => Vector.ofFn fun l => if m.getLsbD l.val then f l else old[l]
           pv := vmod g.pv k fun old => old &&& ~~~m }
/-- S(r) written. -/
def Group.wrS (g : Group) (r : Nat) (x : W32) : Group :=
  { g with s := vset g.s (Fin.ofNat 64 r) x, ps := setBit g.ps (r % 64) false }
/-- P(r) written in the lanes of m; a write to P7 is discarded (R145). -/
def Group.wrP (g : Group) (r : Nat) (m : Mask) (f : Fin 32 → Bool) : Group :=
  if r % 8 == 7 then g else { g with p := vmod g.p (Fin.ofNat 8 r) fun old => mergeMask m old (maskOf f) }
/-- Q(r) written; a write to Q3 is discarded (R145). -/
def Group.wrQ (g : Group) (r : Nat) (b : Bool) : Group :=
  if r % 4 == 3 then g else { g with q := vset g.q (Fin.ofNat 4 r) b }
/-- Row of fragment r written in the lanes of m. -/
def Group.wrA (g : Group) (r : Nat) (m : Mask) (f : Fin 32 → BitVec 256) : Group :=
  let k := Fin.ofNat 16 r
  { g with frag := vmod g.frag k fun old => Vector.ofFn fun l => if m.getLsbD l.val then f l else old[l]
           pa := vmod g.pa k fun old => old &&& ~~~m }
/-- A destination: S once when U = 1 and m is not empty, V in the lanes of m when U = 0. -/
def Group.dst (g : Group) (u : Bool) (r : Nat) (m : Mask) (f : Fin 32 → W32) : Group :=
  if u then (if m = 0 then g else g.wrS r (f 0)) else g.wrV r m f
/-- A predicate destination, likewise. -/
def Group.pdst (g : Group) (u : Bool) (r : Nat) (m : Mask) (f : Fin 32 → Bool) : Group :=
  if u then (if m = 0 then g else g.wrQ r (f 0)) else g.wrP r m f

/-- One held result written (R153); an exited lane shows nothing (R226). -/
def Group.apply (g : Group) : RegWrite → Group
  | .v r l x bad =>
    let g := g.wrV r.toNat (bitOf 32 l.val) fun _ => x
    if bad then { g with pv := vmod g.pv r.toFin fun old => old ||| bitOf 32 l.val } else g
  | .s r x bad =>
    let g := g.wrS r.toNat x
    if bad then { g with ps := setBit g.ps r.toNat true } else g
  | .p r l b => g.wrP r.toNat (bitOf 32 l.val) fun _ => b
  | .q r b => g.wrQ r.toNat b
  | .a r l x bad =>
    let g := g.wrA r.toNat (bitOf 32 l.val) fun _ => x
    if bad then { g with pa := vmod g.pa r.toFin fun old => old ||| bitOf 32 l.val } else g

/-! ## Guards and active lanes (R147) -/

/-- The guard of a uniform instruction. -/
def guardQ (h : Hd) (g : Group) : Bool := g.rdQ (h.g.toNat % 4) != h.gn
/-- The guard of a lane. -/
def guardP (h : Hd) (g : Group) : Mask := if h.gn then ~~~(g.maskP h.g.toNat) else g.maskP h.g.toNat
/-- The lanes for which an instruction acts. U = 0: the active lanes. U = 1: lane 0 stands for the single execution,
and the mask is empty when the guard fails or no lane is left in the clause. -/
def acting (h : Hd) (g : Group) (r : Run) : Mask :=
  if h.u then (if guardQ h g && r.lanes != 0 then 1 else 0) else r.lanes &&& guardP h g
/-- The contributing or transferring lanes (R212, R220): with U = 1, the lanes still in the clause. -/
def takingLanes (h : Hd) (g : Group) (r : Run) : Mask :=
  if h.u then (if guardQ h g then r.lanes else 0) else r.lanes &&& guardP h g

/-! ## Register uses -/

/-- Runs of one class that share a register. -/
def RegRun.meets (a b : RegRun) : Bool := a.cls == b.cls && a.num < b.num + b.len && b.num < a.num + a.len

/-- The class of a use in the state. -/
def regCls : Cls → RegCls
  | .v => .v | .s => .s | .p => .p | .q => .q | .a => .a
/-- The run of a use. -/
def useRun (r : RegUse) : RegRun := ⟨regCls r.cls, r.num.toNat, r.len⟩

/-- The guard as a register use: the interlock of R155 covers it. -/
def guardRun (h : Hd) : RegRun := if h.u then ⟨.q, h.g.toNat % 4, 1⟩ else ⟨.p, h.g.toNat, 1⟩

/-- Every register lies within the team's allocation (R144): V below NV, fragments below NA. -/
def allocated (r : RegUse) (nv na : Nat) : Bool :=
  match r.cls with
  | .v => r.num.toNat + r.len ≤ nv
  | .a => r.num.toNat + r.len ≤ na
  | _ => true

/-- The destinations an issued long-latency instruction protects (R155). -/
def formDests (f : Form) : List RegRun := (f.regs.filter fun r => r.wr).map useRun

/-- Coordinates of a memory operand in dimension order: c[d] is register CR + n − 1 − d (R198). -/
def Group.coords (g : Group) (u : Bool) (cr : Nat) (n : Nat) (l : Fin 32) : List W32 :=
  (List.range n).map fun d => g.src u (cr + n - 1 - d) l

/-- A run of n source registers, first register first. -/
def Group.srcRun (g : Group) (u : Bool) (r n : Nat) (l : Fin 32) : List W32 :=
  (List.range n).map fun i => g.src u (r + i) l

end Sys2Proof.Machine
end

