-- ==== Sys2Proof/Machine/Layout.lean ====
section
/-! DEFINITION. Layout entries (R59 to R63), the checks of R64 and the mapping of R66 to R68, narrowing (R69). -/

namespace Sys2Proof.Machine
open Sys2Proof

/-- A layout entry. -/
abbrev Ent := BitVec 512

def entBase (e : Ent) : Nat := fieldN e 0 57
def entSpace (e : Ent) : Nat := fieldN e 57 3
def entFmt (e : Ent) : BitVec 5 := e.extractLsb' 60 5
def entNdim (e : Ent) : Nat := fieldN e 65 2
def entPst (e : Ent) : Bool := e.getLsbD 67
def entStg (e : Ent) : Bool := e.getLsbD 68
def entRights (e : Ent) : BitVec 5 := e.extractLsb' 69 5
def entKey (e : Ent) : BitVec 10 := e.extractLsb' 74 10
def entPerm (e : Ent) : Nat := fieldN e 84 4
def entHpol (e : Ent) : Nat := fieldN e 88 2
def entHnode (e : Ent) : Nat := fieldN e 90 14
def entHcnt (e : Ent) : Nat := fieldN e 104 4
def entHgran (e : Ent) : Nat := fieldN e 108 4
def entValid (e : Ent) : Bool := e.getLsbD 127
def entExt (e : Ent) (d : Nat) : Nat := fieldN e (128 + 32 * d) 32
def entStride (e : Ent) (d : Nat) : Nat := fieldN e (256 + 40 * d) 40
def entPoff (e : Ent) : Nat := fieldN e 416 32
/-- Element width in bits; a reserved format reads as 32 and is never usable. -/
def entW (e : Ent) : Nat := (fmtWidth (entFmt e)).getD 32

/-- Spaces by number (R59). -/
def spGlobal : Nat := 0
def spPersist : Nat := 1
def spShared : Nat := 2
def spWbuf : Nat := 3
def spXbuf : Nat := 4
def spYbuf : Nat := 5
def spPrivate : Nat := 6
def spHost : Nat := 7
/-- SHARED and the typed buffers. -/
def isScratch (sp : Nat) : Bool := 2 ≤ sp && sp ≤ 5
/-- The spaces held in caches. -/
def isPitched (sp : Nat) : Bool := sp == 0 || sp == 1 || sp == 6

/-- R61. -/
def usable (e : Ent) : Bool :=
  let sp := entSpace e
  entValid e && fieldN e 448 64 == 0 && fieldN e 112 15 == 0
  && (fmtWidth (entFmt e)).isSome
  && (List.range 4).all (fun d => if d ≤ entNdim e then entExt e d != 0 else entExt e d == 0 && entStride e d == 0)
  && entPerm e ≤ 7 && (isScratch sp || entPerm e == 0)
  && entPst e == (sp == spPersist)
  && (!entStg e || sp == spGlobal || sp == spPersist)
  && ((sp != spShared && sp != spWbuf && sp != spXbuf && sp != spYbuf && sp != spHost) || entKey e == 0)
  && (sp == spGlobal || entHpol e == 0) && entHpol e != 3
  && (entHpol e != 2 || (entHcnt e ≤ 14 && entHnode e + 2 ^ entHcnt e ≤ 16384))
  && (!isPitched sp || entBase e % 256 < 192)
  && (sp == spPrivate || entPoff e == 0)

/-- Kinds of access of R62 and R63. -/
inductive AccKind where
  | load | store | atomic | copySrc | copyDst | stageSrc | kltLoad | kltStore
  deriving DecidableEq, Repr

/-- R62. -/
def spaceAllows (k : AccKind) (sp : Nat) : Bool :=
  match k with
  | .load | .store => true
  | .kltLoad | .kltStore => sp != spPrivate
  | .atomic => sp == spGlobal || sp == spShared || sp == spHost
  | .copySrc | .copyDst => sp != spPrivate
  | .stageSrc => sp == spGlobal || sp == spPersist

/-- R63: [4] CDST, [3] CSRC, [2] AT, [1] WR, [0] RD. -/
def rightBit (k : AccKind) : Nat :=
  match k with
  | .load | .kltLoad => 0
  | .store | .kltStore => 1
  | .atomic => 2
  | .copySrc | .stageSrc => 3
  | .copyDst => 4

/-! ## Traps -/

/-- A trap: cause (R397), the lowest lane concerned, XINFO1 to XINFO3. -/
structure Trap where
  cause : BitVec 8
  lane  : Option (Fin 32) := none
  x1    : W32 := 0
  x2    : W32 := 0
  x3    : W32 := 0
  deriving DecidableEq, Repr

/-- A layout trap of a handle. -/
def layTrap (cause : BitVec 8) (lh : Nat) (lane : Option (Fin 32) := none) : Trap :=
  { cause := cause, lane := lane, x1 := w32 lh }
/-- LAYOUT_BOUNDS in a dimension at a coordinate. -/
def boundsTrap (lh d : Nat) (c : Int) (lane : Option (Fin 32) := none) : Trap :=
  { cause := 0x0B, lane := lane, x1 := w32 (lh + 256 * d), x2 := trunc 32 c }

/-! ## Placement (R66 to R68) -/

/-- The address of data byte u from base in a pitched space. -/
def pitch (base u : Nat) : Nat :=
  let t := base % 256 + u
  256 * (base / 256 + t / 192) + t % 192
/-- The data offset of a pitched address. -/
def unpitch (va : Nat) : Nat := 192 * (va / 256) + va % 256
/-- R67. -/
def permute (p o : Nat) : Nat := if p = 0 then o else o ^^^ (((o >>> (6 + p)) &&& 7) <<< 4)
/-- R68: the data offset of private byte p of a lane. -/
def privOffset (core idx lane pb p : Nat) : Nat :=
  (core * 64 + idx) * 32 * pb + (p / 4) * 128 + lane * 4 + p % 4

/-- Who accesses: core, team slot, and for PRIVATE the residence index and lane. -/
structure Who where
  core : CoreId
  team : Slot
  idx  : Slot := 0
  lane : Fin 32 := 0
  deriving DecidableEq, Repr

/-- The team's allocation in a scratch space, in bytes. -/
def allocation (t : Team) (sp : Nat) : Nat :=
  if sp = spShared then LRec.sharedBytes t.lrec
  else if sp = spWbuf then 1024 * LRec.wbufK t.lrec
  else if sp = spXbuf then 1024 * LRec.xbufK t.lrec
  else 1024 * LRec.ybufK t.lrec
/-- The memory of a scratch space. -/
def scratchTgt (core : CoreId) (team : Slot) (sp : Nat) : MTgt :=
  if sp = spShared then .shared core team else if sp = spWbuf then .wbuf core team
  else if sp = spXbuf then .xbuf core team else .ybuf core team

/-- The place of data byte u of an entry (R66 to R68). -/
def placeOf (w : Who) (pb : Nat) (e : Ent) (u : Nat) : VPlace :=
  let sp := entSpace e
  if isScratch sp then .scratch (scratchTgt w.core w.team sp) (permute (entPerm e) (entBase e + u))
  else if sp = spHost then .va (entBase e + u)
  else if sp = spPrivate then .va (pitch (entBase e) (privOffset w.core.val w.idx.val w.lane.val pb (entPoff e + u)))
  else .va (pitch (entBase e) u)

/-- The home node of an address through an entry, when it is another node than `own` (R81). -/
def remoteNode (own : Nat) (e : Ent) (va : Nat) : Option Nat :=
  if entSpace e != spGlobal then none
  else
    let n := if entHpol e = 1 then entHnode e
      else if entHpol e = 2 then entHnode e + (va / 2 ^ (16 + entHgran e)) % 2 ^ entHcnt e else own
    if n = own then none else some n

/-- The mapped bytes u to u + size − 1 lie within the space (R66, R68, R389). R66 states the bound of 2^57 for pitched spaces;
a byte of HOSTMEM at or above it fails here as well (log entry 100). -/
def mapFits (t : Team) (own : Nat) (w : Who) (e : Ent) (u size : Nat) : Bool :=
  let sp := entSpace e
  if isScratch sp then entBase e + u + size ≤ allocation t sp
  else if sp = spPrivate && LRec.pb t.lrec < entPoff e + u + size then false
  else (List.range size).all fun i =>
    match placeOf w (LRec.pb t.lrec) e (u + i) with
    | .va a => a < 2 ^ 57 && ((remoteNode own e a).isNone || a < 2 ^ 48)
    | .scratch .. => true

/-! ## The checks of R64 -/

/-- A loaded key slot of the context, or slot 0 (R422). -/
def keyOk (s : State) (asid : Asid) (e : Ent) : Bool :=
  let k := entKey e
  let slot := s.hub.kslots[k.toFin]
  k == 0 || (slot.state == 1 && slot.asid == asid)
/-- The key of an entry at its present loading. -/
def keyRef (s : State) (e : Ent) : KeyRef := ⟨entKey e, (s.hub.kslots[(entKey e).toFin]).gen⟩

/-- The first dimension whose coordinate lies outside its extent. -/
def firstOut (e : Ent) (c : Nat → Int) (m : Nat) : Option Nat :=
  (List.range (entNdim e + 1)).find? fun d =>
    let hi := c d + (if d = 0 then (m : Int) - 1 else 0)
    c d < 0 || (entExt e d : Int) ≤ hi

/-- R64 for one lane (or one uniform access) up to the byte offset: handle number for the report, kind, coordinates,
offset, bytes moved, lane named in a trap. -/
def locate (s : State) (t : Team) (w : Who) (k : AccKind) (lh : Nat) (e : Ent) (cs : List W32) (off : Int)
    (size : Nat) (lane : Option (Fin 32)) : Except Trap Nat :=
  if !usable e || !keyOk s t.asid e then .error (layTrap 0x08 lh lane)
  else if !spaceAllows k (entSpace e) || !(entRights e).getLsbD (rightBit k) then .error (layTrap 0x09 lh lane)
  else
    let m := max 1 (size * 8 / entW e)
    if entNdim e + 1 < cs.length || (1 < m && entStride e 0 != 1) then .error (layTrap 0x0A lh lane)
    else
      let c : Nat → Int := fun d => ((cs.getD d 0).toNat : Int) + if d = 0 then off else 0
      match firstOut e c m with
      | some d => .error (boundsTrap lh d (c d) lane)
      | none =>
        let q := ((List.range 4).foldl (fun a d => a + (c d).toNat * entStride e d) 0) * entW e
        if q % 8 ≠ 0 then .error (layTrap 0x0C lh lane)
        else
          let u := q / 8
          if k == .atomic && u % size != 0 then .error (layTrap 0x0C lh lane)
          else if !mapFits t s.hub.node.toNat w e u size then .error (boundsTrap lh 0 (c 0) lane)
          else .ok u

/-- The first error of a list of checks, or all results. -/
def allOk {α ε β : Type} (f : α → Except ε β) : List α → Except ε (List β)
  | [] => .ok []
  | x :: r => match f x with
    | .error e => .error e
    | .ok y => match allOk f r with
      | .error e => .error e
      | .ok ys => .ok (y :: ys)

/-! ## Narrowing (R69, R263) -/

/-- The place of the origin at data byte u in the new entry: BASE, and POFF of a PRIVATE one (R69). -/
def originBase (e : Ent) (u : Nat) : Nat :=
  let sp := entSpace e
  if sp = spPrivate then entBase e else if isScratch sp || sp = spHost then entBase e + u else pitch (entBase e) u
def originPoff (e : Ent) (u : Nat) : Nat := if entSpace e = spPrivate then entPoff e + u else entPoff e

/-- LTSUB with INV = 0: the new entry, or the first trap of R263. An origin whose place BASE or POFF cannot hold lies
outside the space (R66; log entry 88). -/
def narrow (parent old : Ent) (same : Bool) (lp ld : Nat) (o n : Nat → Nat) (rights : BitVec 5)
    (nfmt : Option (BitVec 5)) : Except Trap Ent :=
  if !usable parent then .error (layTrap 0x08 lp)
  else if (match nfmt with | some f => fmtWidth f != fmtWidth (entFmt parent) | none => false) then
    .error (layTrap 0x0A lp)
  else
    match (List.range (entNdim parent + 1)).find? fun d =>
        !(o d < entExt parent d && 1 ≤ n d && o d + n d ≤ entExt parent d) with
    | some d => .error (boundsTrap lp d (o d))
    | none =>
      let q := ((List.range (entNdim parent + 1)).foldl (fun a d => a + o d * entStride parent d) 0) * entW parent
      let u := q / 8
      if 2 ^ 57 ≤ originBase parent u || 2 ^ 32 ≤ originPoff parent u then .error (boundsTrap lp 0 (o 0))
      else if q % 8 ≠ 0 then .error (layTrap 0x0C lp)
      else if entValid old && !same then .error (layTrap 0x0D ld)
      else
        let e := (List.range (entNdim parent + 1)).foldl (fun e d => putField e (128 + 32 * d) 32 (n d)) parent
        let e := putField (putField e 0 57 (originBase parent u)) 416 32 (originPoff parent u)
        let e := putField e 69 5 (entRights parent &&& rights).toNat
        .ok (match nfmt with | some f => putField e 60 5 f.toNat | none => e)

/-- The word LTQRY reads (R264): an invalid slot reads as zero, BASE is hidden outside scratch. -/
def queryWord (e : Ent) (k : Nat) : W32 :=
  if !entValid e then 0
  else
    let e := if isScratch (entSpace e) then e else putField e 0 57 0
    BitVec.ofNat 32 (fieldN e (32 * k) 32)

end Sys2Proof.Machine
end

