-- ==== Sys2Proof/Machine/Formats.lean ====
section
/-! DEFINITION. Number formats (R163 to R172), rounding (R173, R174), the stochastic generator (R175), conversion
(R178), exact sums (R180) and MX blocks (R169, R170). Values are exact: a sign, a natural number and a power of two. -/

namespace Sys2Proof.Machine
open Sys2Proof

/-! ## Flags (R179, R234) -/

def flagIV : BitVec 5 := 0x01
def flagDZ : BitVec 5 := 0x02
def flagOF : BitVec 5 := 0x04
def flagUF : BitVec 5 := 0x08
def flagIX : BitVec 5 := 0x10

/-- Bits stored and the flags raised. -/
structure Res where
  bits  : Nat
  flags : BitVec 5 := 0
  deriving DecidableEq, Repr

/-! ## Values -/

/-- What a pattern is worth: a NaN, an infinity, or ± m × 2^e (a zero keeps its sign). -/
inductive Num where
  | nan
  | inf (neg : Bool)
  | fin (neg : Bool) (m : Nat) (e : Int)
  deriving DecidableEq, Repr

/-- −x; a NaN stays a NaN (R232). -/
def Num.neg : Num → Num
  | .nan => .nan
  | .inf s => .inf !s
  | .fin s m e => .fin (!s) m e
def Num.isNaN : Num → Bool
  | .nan => true
  | _ => false
def Num.isZero : Num → Bool
  | .fin _ 0 _ => true
  | _ => false
/-- An integer as a value; zero is +0. -/
def Num.ofInt (t : Int) : Num := .fin (decide (t < 0)) t.natAbs 0
/-- x × 2^k. -/
def Num.scale (x : Num) (k : Int) : Num :=
  match x with
  | .fin s m e => .fin s m (e + k)
  | y => y

/-- Product, and whether it is the invalid 0 × Inf. -/
def Num.mul : Num → Num → Num × Bool
  | .nan, _ => (.nan, false)
  | _, .nan => (.nan, false)
  | .inf s, .inf t => (.inf (s != t), false)
  | .inf s, .fin t m _ => if m = 0 then (.nan, true) else (.inf (s != t), false)
  | .fin s m _, .inf t => if m = 0 then (.nan, true) else (.inf (s != t), false)
  | .fin s m e, .fin t n f => (.fin (s != t) (m * n) (e + f), false)

/-- ± m × 2^e as a multiple of 2^f, f ≤ e. -/
def atExp (s : Bool) (m : Nat) (e f : Int) : Int :=
  let v : Int := (m <<< (e - f).toNat : Nat)
  if s then -v else v

/-- The exact sum of two finite values; rd: rounding is toward −Inf (the sign of a zero sum of opposite signs). -/
def addFin (rd : Bool) (s : Bool) (m : Nat) (e : Int) (t : Bool) (n : Nat) (f : Int) : Num :=
  let g := min e f
  let v := atExp s m e g + atExp t n f g
  if v = 0 then .fin (if s = t then s else rd) 0 0 else .fin (decide (v < 0)) v.natAbs g

/-- Exact sum, and whether it is the invalid sum of opposite infinities (R173, R237). -/
def Num.add (rd : Bool) : Num → Num → Num × Bool
  | .nan, _ => (.nan, false)
  | _, .nan => (.nan, false)
  | .inf s, .inf t => if s = t then (.inf s, false) else (.nan, true)
  | .inf s, .fin .. => (.inf s, false)
  | .fin .., .inf t => (.inf t, false)
  | .fin s m e, .fin t n f => (addFin rd s m e t n f, false)

/-- The sign of a finite or infinite value. -/
def Num.sign : Num → Bool
  | .nan => false
  | .inf s => s
  | .fin s _ _ => s

/-- The exact sum of several terms, and whether infinities of opposite sign meet. A zero sum keeps the common sign of
the terms; otherwise it is +0, or −0 when rd. -/
def Num.sum (rd : Bool) (xs : List Num) : Num × Bool :=
  if xs.any Num.isNaN then (.nan, false)
  else if xs.contains (.inf false) && xs.contains (.inf true) then (.nan, true)
  else match xs.find? fun x => match x with | .inf _ => true | _ => false with
    | some x => (x, false)
    | none =>
      let g := xs.foldl (fun g x => match x with | .fin _ _ e => min g e | _ => g) 0
      let v : Int := xs.foldl (fun v x => match x with | .fin s m e => v + atExp s m e g | _ => v) 0
      if v = 0 then
        (.fin (if xs.all Num.sign && !xs.isEmpty then true else if xs.any Num.sign then rd else false) 0 0, false)
      else (.fin (decide (v < 0)) v.natAbs g, false)

/-- a < b, for values that are not NaN. -/
def Num.lt : Num → Num → Bool
  | .nan, _ => false
  | _, .nan => false
  | .inf s, .inf t => s && !t
  | .inf s, .fin .. => s
  | .fin .., .inf t => !t
  | .fin s m e, .fin t n f => let g := min e f; decide (atExp s m e g < atExp t n f g)

/-- floor(log2 |x|) of a finite non-zero value. -/
def log2Num (m : Nat) (e : Int) : Int := (Nat.log2 m : Int) + e

/-! ## Floating-point formats (R163) -/

/-- A float format: width, mantissa bits, bias, the code of the largest finite magnitude, of infinity, of the
canonical NaN (R164). -/
structure FFmt where
  width  : Nat
  mb     : Nat
  bias   : Nat
  maxEnc : Nat
  infEnc : Option Nat
  nanEnc : Option Nat
  deriving DecidableEq, Repr

def fp32 : FFmt := ⟨32, 23, 127, 0x7F7FFFFF, some 0x7F800000, some 0x7FC00000⟩
def bf16 : FFmt := ⟨16, 7, 127, 0x7F7F, some 0x7F80, some 0x7FC0⟩
def fp16 : FFmt := ⟨16, 10, 15, 0x7BFF, some 0x7C00, some 0x7E00⟩
def e5m2 : FFmt := ⟨8, 2, 15, 0x7B, some 0x7C, some 0x7E⟩
def e4m3 : FFmt := ⟨8, 3, 7, 0x7E, none, some 0x7F⟩
def e2m1 : FFmt := ⟨4, 1, 1, 0x7, none, none⟩

/-- The format of a format code (R60). -/
def ffmt (c : Nat) : Option FFmt :=
  match c with
  | 1 => some fp32 | 2 => some bf16 | 3 => some fp16 | 4 => some e4m3 | 5 => some e5m2 | 6 => some e2m1 | _ => none

/-- The sign bit of a pattern. -/
def FFmt.neg (f : FFmt) (x : Nat) : Bool := x.testBit (f.width - 1)
/-- The pattern without its sign. -/
def FFmt.mag (f : FFmt) (x : Nat) : Nat := x % 2 ^ (f.width - 1)
/-- A sign put on a magnitude. -/
def FFmt.put (f : FFmt) (neg : Bool) (mag : Nat) : Nat := if neg then mag + 2 ^ (f.width - 1) else mag
/-- The value of a pattern. -/
def FFmt.num (f : FFmt) (x : Nat) : Num :=
  let s := f.neg x
  let g := f.mag x
  if f.maxEnc < g then (if f.infEnc = some g then .inf s else .nan)
  else
    let ef := g >>> f.mb
    let mf := g % 2 ^ f.mb
    if ef = 0 then .fin s mf (1 - (f.bias : Int) - f.mb) else .fin s (mf + 2 ^ f.mb) ((ef : Int) - f.bias - f.mb)
/-- The pattern is a non-zero subnormal. -/
def FFmt.subnormal (f : FFmt) (x : Nat) : Bool := let g := f.mag x; g != 0 && g < 2 ^ f.mb
/-- .FTZ on a pattern (R165). -/
def FFmt.flush (f : FFmt) (ftz : Bool) (x : Nat) : Nat := if ftz && f.subnormal x then f.put (f.neg x) 0 else x
/-- The canonical NaN; E2M1 has none and takes +0 (R178). -/
def FFmt.nan (f : FFmt) : Nat := f.nanEnc.getD 0

/-! ## Rounding (R173, R174) -/

/-- Rounding mode, .SAT and the stochastic draw. -/
structure Rnd where
  rm   : Nat
  sat  : Bool := false
  draw : W32 := 0
  deriving DecidableEq, Repr

/-- RoundRNE. -/
def rne : Rnd := { rm := 0 }

/-- Whether the magnitude q + rem / 2^sh (and a non-zero tail below it when tail) goes up to q + 1. -/
def roundsUp (r : Rnd) (neg : Bool) (q rem sh : Nat) (tail : Bool) : Bool :=
  if rem = 0 && !tail then false
  else match r.rm with
    | 0 => decide (2 ^ sh < 2 * rem) || (2 * rem == 2 ^ sh && (tail || q % 2 == 1))
    | 1 => false
    | 2 => neg
    | 3 => !neg
    | _ => decide (r.draw.toNat < (rem <<< 32) >>> sh)

/-- The integer nearest m × 2^e under the mode, and whether it differs. -/
def roundMag (r : Rnd) (neg : Bool) (m : Nat) (e : Int) (tail : Bool) : Nat × Bool :=
  let sh := (-e).toNat
  let q := if 0 ≤ e then m <<< e.toNat else m >>> sh
  let rem := if 0 ≤ e then 0 else m % 2 ^ sh
  (if roundsUp r neg q rem sh tail then q + 1 else q, rem != 0 || tail)

/-- The magnitude code that stands for a result above the largest finite magnitude (the table of R173). -/
def overflowEnc (f : FFmt) (r : Rnd) (neg : Bool) : Nat :=
  let away := f.infEnc.getD (f.nanEnc.getD f.maxEnc)
  if r.sat then f.maxEnc
  else match r.rm with
    | 1 => f.maxEnc
    | 2 => if neg then away else f.maxEnc
    | 3 => if neg then f.maxEnc else away
    | _ => away

/-- The E4M3 overflow NaN is the canonical one, without a sign (R164). -/
def FFmt.putRes (f : FFmt) (neg : Bool) (g : Nat) : Nat :=
  if f.nanEnc = some g then g else f.put neg g

/-- ± m × 2^e (with a non-zero tail below when tail) rounded to the format. -/
def FFmt.round (f : FFmt) (r : Rnd) (neg : Bool) (m : Nat) (e : Int) (tail : Bool := false) : Res :=
  if m = 0 && !tail then ⟨f.put neg 0, 0⟩
  else
    let emin : Int := 1 - f.bias
    let top : Int := max (log2Num m e) emin - f.mb
    let (q, ix) := roundMag r neg m (e - top) tail
    let enc := q + ((top - (emin - f.mb)).toNat <<< f.mb)
    if f.maxEnc < enc then ⟨f.putRes neg (overflowEnc f r neg), flagOF ||| flagIX⟩
    else ⟨f.put neg enc,
      (if ix then flagIX else 0) ||| (if ix && enc != 0 && enc < 2 ^ f.mb then flagUF else 0)⟩

/-- The result of an arithmetic instruction: an infinity stays one (R237). -/
def FFmt.arith (f : FFmt) (r : Rnd) : Num → Res
  | .nan => ⟨f.nan, 0⟩
  | .inf s => ⟨f.put s (f.infEnc.getD f.maxEnc), 0⟩
  | .fin s m e => f.round r s m e

/-- .FTZ on a result (R165, R237). -/
def FFmt.flushRes (f : FFmt) (ftz : Bool) (x : Res) : Res :=
  if ftz && f.subnormal x.bits then ⟨f.put (f.neg x.bits) 0, flagUF ||| flagIX⟩ else x

/-- A conversion to a float format (R178): infinities follow the overflow table. -/
def FFmt.ofNum (f : FFmt) (r : Rnd) : Num → Res
  | .nan => ⟨f.nan, if f.nanEnc.isNone then flagIV else 0⟩
  | .inf s =>
    match f.infEnc with
    | some i => if r.sat then ⟨f.put s i, 0⟩
                else let g := overflowEnc f r s; ⟨f.put s g, if g = i then 0 else flagOF ||| flagIX⟩
    | none => ⟨f.putRes s (overflowEnc f r s), flagOF ||| flagIX⟩
  | .fin s m e => f.round r s m e

/-- The selection of FMIN (max = false) and FMAX (R239) on patterns after any flush: equal values give x. -/
def FFmt.select (f : FFmt) (max : Bool) (x y : Nat) : Nat :=
  let a := f.num x
  let b := f.num y
  if a.isNaN && b.isNaN then x
  else if a.isNaN then y
  else if b.isNaN then x
  else
    let less := b.lt a || (a.isZero && b.isZero && b.sign && !a.sign)      -- y below x
    let more := a.lt b || (a.isZero && b.isZero && a.sign && !b.sign)
    if (if max then more else less) then y else x

/-! ## The stochastic generator (R175) -/

/-- Trunc64 of a product. -/
def srMix (h : W64) : W64 :=
  let h := h ^^^ (h >>> 32)
  let h := h * 0xBF58476D1CE4E5B9#64
  h ^^^ (h >>> 29)

/-- SrDraw: seed, linear team index, source, element index, count. -/
def srDraw (seed : W64) (t s l : Nat) (n : W32) : W32 :=
  let h := seed ^^^ (BitVec.ofNat 32 t ++ BitVec.ofNat 7 s ++ BitVec.ofNat 25 l)
  let h := h ^^^ (n.setWidth 64 * 0xD1B54A32D192ED03#64)
  (srMix (srMix (srMix h))).extractLsb' 32 32

/-! ## Conversion (R178) -/

/-- An integer format: signed, width. -/
def intFmt (c : Nat) : Option (Bool × Nat) :=
  match c with
  | 0x08 => some (true, 32) | 0x09 => some (false, 32) | 0x0A => some (true, 16) | 0x0B => some (false, 16)
  | 0x0C => some (true, 8) | 0x0D => some (false, 8) | 0x0E => some (true, 4) | 0x0F => some (false, 4) | _ => none

/-- A raw format: its width. -/
def rawFmt (c : Nat) : Option Nat :=
  match c with
  | 0x00 => some 32 | 0x11 => some 8 | 0x12 => some 8 | 0x13 => some 16 | 0x14 => some 64 | _ => none

/-- The numeric formats: floats, E8M0, integers, binary. -/
def numFmt (c : Nat) : Bool := (ffmt c).isSome || c == 7 || (intFmt c).isSome || c == 0x10

/-- Whether R178 converts between two format codes. Two pairs have no row there: binary to binary copies the bit, and any
other format into a raw one is refused (log entry 101). -/
def convertible (src dst : Nat) : Bool :=
  (numFmt src && numFmt dst) || (rawFmt src).isSome && (rawFmt src == rawFmt dst)

/-- An integer pattern read in its format. -/
def readInt (sgn : Bool) (w x : Nat) : Int :=
  let x := x % 2 ^ w
  if sgn && x.testBit (w - 1) then (x : Int) - (2 ^ w : Nat) else x

/-- The value of a pattern in a numeric format. -/
def numOf (c x : Nat) : Num :=
  match ffmt c with
  | some f => f.num (x % 2 ^ f.width)
  | none =>
    if c = 7 then (let e := x % 256; if e = 255 then .nan else .fin false 1 ((e : Int) - 127))
    else match intFmt c with
      | some (sgn, w) => Num.ofInt (readInt sgn w x)
      | none => .fin false (x % 2) 0

/-- The range of an integer format. -/
def intRange (sgn : Bool) (w : Nat) : Int × Int :=
  if sgn then (-(2 ^ (w - 1) : Nat), ((2 ^ (w - 1) : Nat) : Int) - 1) else (0, ((2 ^ w : Nat) : Int) - 1)

/-- The pattern of an integer in w bits. -/
def putInt (w : Nat) (t : Int) : Nat := (t % ((2 ^ w : Nat) : Int)).toNat

/-- A conversion to an integer format (R178, R247). -/
def toInt (sgn : Bool) (w : Nat) (r : Rnd) : Num → Res
  | .nan => ⟨0, flagIV⟩
  | .inf s => let (lo, hi) := intRange sgn w; ⟨putInt w (if s then lo else hi), flagIV ||| flagIX⟩
  | .fin s m e =>
    let (q, ix) := roundMag r s m e false
    let t : Int := if s then -(q : Int) else q
    let (lo, hi) := intRange sgn w
    if t < lo then ⟨putInt w lo, flagIV ||| flagIX⟩
    else if hi < t then ⟨putInt w hi, flagIV ||| flagIX⟩
    else ⟨putInt w t, if ix then flagIX else 0⟩

/-- A conversion to E8M0 (R178, R247). -/
def toE8 : Num → Res
  | .fin false m e =>
    if m = 0 then ⟨0xFF, flagIV⟩
    else
      let k := max (-127) (min 127 (log2Num m e))
      let g := min e k
      ⟨(k + 127).toNat, if atExp false m e g = atExp false 1 k g then 0 else flagIX⟩
  | _ => ⟨0xFF, flagIV⟩

/-- A conversion to binary: 1 when the value is greater than zero. -/
def toBin : Num → Nat
  | .inf false => 1
  | .fin false m _ => if m = 0 then 0 else 1
  | _ => 0

/-- One element converted between two convertible formats (R178). wrap: an integer pair keeps the low bits. -/
def convert (src dst : Nat) (r : Rnd) (wrap : Bool) (x : Nat) : Res :=
  match rawFmt src with
  | some w => ⟨x % 2 ^ w, 0⟩
  | none =>
    let v := numOf src x
    match ffmt dst with
    | some f => f.ofNum r v
    | none =>
      if dst = 7 then (if src = 7 then ⟨x % 256, 0⟩ else toE8 v)
      else match intFmt dst with
        | some (sgn, w) =>
          match wrap, v with
          | true, .fin s m _ => ⟨putInt w (if s then -(m : Int) else m), 0⟩
          | _, _ => toInt sgn w r v
        | none => ⟨toBin v, 0⟩

/-! ## MX blocks (R169, R170) -/

/-- Unbiased exponent of the largest element magnitude. -/
def mxEmax (c : Nat) : Int := if c = 4 then 8 else if c = 6 then 2 else 0
/-- v_i of R169: an INT8 element is worth its integer × 2^−6. -/
def mxValue (c x : Nat) : Num := if c = 0x0C then (numOf c x).scale (-6) else numOf c x
/-- The value of an element under a scale code. -/
def mxScaled (c scale x : Nat) : Num :=
  if scale = 255 then .nan else (mxValue c x).scale ((scale : Int) - 127)

/-- An INT8 element: v × 2^6 in two's complement, saturated to ±127. -/
def mxInt8 (r : Rnd) (neg : Bool) (m : Nat) (e : Int) : Res :=
  let (q, ix) := roundMag r neg m (e + 6) false
  if 127 < q then ⟨putInt 8 (if neg then -127 else 127), flagOF ||| flagIX⟩
  else ⟨putInt 8 (if neg then -(q : Int) else q), if ix then flagIX else 0⟩

/-- The block procedure of R170 on FP32 patterns with one draw per element: the scale, and each element with its
flags. A NaN or infinite input marks the block NaN and raises IV. -/
def mxQuantise (c rm : Nat) (xs : List (Nat × W32)) : Nat × List Res :=
  let vs := xs.map fun x => (fp32.num x.1, x.2)
  if vs.any fun v => match v.1 with | .fin .. => false | _ => true then (255, xs.map fun _ => ⟨0, flagIV⟩)
  else
    let top : Option Int := vs.foldl (fun a v => match v.1 with
      | .fin _ m e => if m = 0 then a else some (match a with | none => log2Num m e | some t => max t (log2Num m e))
      | _ => a) none
    let scale : Nat := match top with
      | none => 0
      | some t => (max (-127) (min 127 (t - mxEmax c)) + 127).toNat
    (scale, vs.map fun v => match v.1 with
      | .fin s m e =>
        let e := e - ((scale : Int) - 127)
        let r : Rnd := { rm := rm, sat := true, draw := v.2 }
        if c = 0x0C then mxInt8 r s m e
        else match ffmt c with | some f => f.round r s m e | none => ⟨0, 0⟩
      | _ => ⟨0, 0⟩)

end Sys2Proof.Machine
end

