-- ==== Sys2Proof/Machine/Transcendental.lean ====
section
/-! DEFINITION. Division, roots and transcendental functions of FP32 values, correctly rounded (R244, R245). Roots and
quotients are exact with a tail; the others are fixed-point series with fxBits fraction bits, rounded once. Log entry
8. -/

namespace Sys2Proof.Machine
open Sys2Proof

/-- Fraction bits of the series. -/
def fxBits : Nat := 640
/-- 1.0. -/
def fxOne : Nat := 2 ^ fxBits
def fxMul (a b : Nat) : Nat := (a * b) >>> fxBits
def fxDiv (a b : Nat) : Nat := (a <<< fxBits) / b

/-- floor(√n), one bit at a time from 2^k down. -/
def isqrtFrom (n : Nat) : Nat → Nat → Nat
  | 0, r => r
  | k + 1, r => let t := r + 2 ^ k; isqrtFrom n k (if t * t ≤ n then t else r)
def isqrt (n : Nat) : Nat := isqrtFrom n (Nat.log2 n / 2 + 1) 0

/-- Σ ± x^(2k+1) / (2k+1) for x = 1 / d: atan when alt, atanh otherwise. -/
def recipSeries (alt : Bool) (d : Nat) : Nat → Nat → Nat → Int
  | 0, _, _ => 0
  | fuel + 1, k, t =>
    if t = 0 then 0
    else (if alt && k % 2 = 1 then -((t / (2 * k + 1) : Nat) : Int) else ((t / (2 * k + 1) : Nat) : Int))
      + recipSeries alt d fuel (k + 1) (t / (d * d))
/-- ln 2 = 2 atanh(1/3). -/
def fxLn2 : Nat := 2 * (recipSeries false 3 700 0 (fxOne / 3)).toNat
/-- π = 16 atan(1/5) − 4 atan(1/239). -/
def fxPi : Nat := (16 * recipSeries true 5 700 0 (fxOne / 5) - 4 * recipSeries true 239 700 0 (fxOne / 239)).toNat

/-- e^x for 0 ≤ x < 1. -/
def fxExpFrom (x : Nat) : Nat → Nat → Nat → Nat
  | 0, _, _ => 0
  | fuel + 1, k, t => if t = 0 then 0 else t + fxExpFrom x fuel (k + 1) (fxMul t x / (k + 1))
def fxExp (x : Nat) : Nat := fxExpFrom x 700 0 fxOne
/-- e^−x for x ≥ 0. -/
def fxExpNeg (x : Nat) : Nat :=
  let l := fxLn2
  let k := x / l
  fxDiv fxOne (fxExp (x - k * l)) >>> k
/-- sin x for 0 ≤ x ≤ π / 2: Σ ± x^(2k+1) / (2k+1)!. -/
def fxSinFrom (sq : Nat) : Nat → Nat → Nat → Int
  | 0, _, _ => 0
  | fuel + 1, k, t =>
    if t = 0 then 0
    else (if k % 2 = 1 then -(t : Int) else (t : Int))
      + fxSinFrom sq fuel (k + 1) (fxMul t sq / ((2 * k + 2) * (2 * k + 3)))
def fxSin (x : Nat) : Nat := (fxSinFrom (fxMul x x) 700 0 x).toNat
/-- ln x for 1 ≤ x < 2: 2 atanh((x − 1) / (x + 1)). -/
def fxLnFrom (sq : Nat) : Nat → Nat → Nat → Nat
  | 0, _, _ => 0
  | fuel + 1, k, t => if t = 0 then 0 else t / (2 * k + 1) + fxLnFrom sq fuel (k + 1) (fxMul t sq)
def fxLn (x : Nat) : Nat :=
  let z := fxDiv (x - fxOne) (x + fxOne)
  2 * fxLnFrom (fxMul z z) 900 0 z

/-- A fixed-point result that is irrational: never exact. -/
def fxRes (r : Rnd) (neg : Bool) (v : Nat) : Res := fp32.round r neg v (-(fxBits : Int)) true
/-- A result that rounds from 1 − tiny. -/
def fxNearOne (r : Rnd) (neg : Bool) : Res := fp32.round r neg (2 ^ 64 - 1) (-64) true
/-- |x| × 2^fxBits for a finite value, rounded down. -/
def fxOf (m : Nat) (e : Int) : Nat :=
  let k := e + fxBits
  if 0 ≤ k then m <<< k.toNat else m >>> (-k).toNat

/-- An FP32 result made of a value and the flag of R245. -/
def special (x : Num) (fl : BitVec 5) : Res := { fp32.arith rne x with flags := fl }
/-- NaN with IV. -/
def invalid : Res := ⟨fp32.nan, flagIV⟩

/-- a / b. -/
def divNum (r : Rnd) : Num → Num → Res
  | .nan, _ => ⟨fp32.nan, 0⟩
  | _, .nan => ⟨fp32.nan, 0⟩
  | .inf _, .inf _ => invalid
  | .inf s, .fin t _ _ => special (.inf (s != t)) 0
  | .fin s _ _, .inf t => special (.fin (s != t) 0 0) 0
  | .fin s m e, .fin t n f =>
    if n = 0 then (if m = 0 then invalid else special (.inf (s != t)) flagDZ)
    else if m = 0 then special (.fin (s != t) 0 0) 0
    else fp32.round r (s != t) ((m <<< 256) / n) (e - f - 256) ((m <<< 256) % n != 0)

/-- √a. -/
def sqrtNum (r : Rnd) : Num → Res
  | .nan => ⟨fp32.nan, 0⟩
  | .inf s => if s then invalid else special (.inf false) 0
  | .fin s m e =>
    if m = 0 then special (.fin s 0 0) 0
    else if s then invalid
    else
      let m := if e % 2 = 0 then m else 2 * m
      let h := (if e % 2 = 0 then e else e - 1) / 2
      let n := m <<< 256
      let q := isqrt n
      fp32.round r false q (h - 128) (q * q != n)

/-- 1 / √a. -/
def rsqrtNum (r : Rnd) : Num → Res
  | .nan => ⟨fp32.nan, 0⟩
  | .inf s => if s then invalid else special (.fin false 0 0) 0
  | .fin s m e =>
    if m = 0 then special (.inf s) flagDZ
    else if s then invalid
    else
      let m := if e % 2 = 0 then m else 2 * m
      let h := (if e % 2 = 0 then e else e - 1) / 2
      let q := isqrt (2 ^ 400 / m)
      fp32.round r false q (-h - 200) (q * q * m != 2 ^ 400)

/-- 2^a. -/
def exp2Num (r : Rnd) : Num → Res
  | .nan => ⟨fp32.nan, 0⟩
  | .inf s => if s then special (.fin false 0 0) 0 else special (.inf false) 0
  | .fin s m e =>
    if m = 0 then special (.fin false 1 0) 0
    else if 9 ≤ log2Num m e then fp32.round r false 1 (if s then -600 else 600) false
    else
      let x := fxOf m e
      let k := x >>> fxBits
      let f := x % fxOne
      if f = 0 then fp32.round r false 1 (if s then -(k : Int) else k)
      else
        let g := if s then fxOne - f else f
        let n : Int := if s then -(k : Int) - 1 else k
        fp32.round r false (fxExp (fxMul g fxLn2)) (n - fxBits) true

/-- log2 a. -/
def log2Res (r : Rnd) : Num → Res
  | .nan => ⟨fp32.nan, 0⟩
  | .inf s => if s then invalid else special (.inf false) 0
  | .fin s m e =>
    if m = 0 then special (.inf true) flagDZ
    else if s then invalid
    else
      let k := Nat.log2 m
      let n : Int := (k : Int) + e
      if m = 2 ^ k then fp32.arith r (Num.ofInt n)
      else
        let v : Int := n * (fxOne : Int) + (fxDiv (fxLn (m <<< (fxBits - k))) fxLn2 : Nat)
        fxRes r (decide (v < 0)) v.natAbs

/-- sin 2πt for t in turns, 0 ≤ t < 1, and the sign neg in front; a zero takes the sign zneg. -/
def sinTurns (r : Rnd) (neg zneg : Bool) (t : Nat) : Res :=
  let half := fxOne / 2
  let neg := if half ≤ t then !neg else neg
  let u := t % half
  let u := if fxOne / 4 < u then half - u else u
  if u = 0 then special (.fin zneg 0 0) 0
  else if u = fxOne / 4 then special (.fin neg 1 0) 0
  else fxRes r neg (fxSin (fxMul (2 * fxPi) u))

/-- sin 2πa. -/
def sinNum (r : Rnd) : Num → Res
  | .nan => ⟨fp32.nan, 0⟩
  | .inf _ => invalid
  | .fin s m e => if 0 ≤ e then special (.fin s 0 0) 0 else sinTurns r s s (fxOf m e % fxOne)
/-- cos 2πa. -/
def cosNum (r : Rnd) : Num → Res
  | .nan => ⟨fp32.nan, 0⟩
  | .inf _ => invalid
  | .fin _ m e => if 0 ≤ e then special (.fin false 1 0) 0 else sinTurns r false false ((fxOf m e + fxOne / 4) % fxOne)

/-- tanh a. -/
def tanhNum (r : Rnd) : Num → Res
  | .nan => ⟨fp32.nan, 0⟩
  | .inf s => special (.fin s 1 0) 0
  | .fin s m e =>
    if m = 0 then special (.fin s 0 0) 0
    else if 6 ≤ log2Num m e then fxNearOne r s
    else
      let y := fxExpNeg (2 * fxOf m e)
      fxRes r s (fxDiv (fxOne - y) (fxOne + y))

/-- 1 / (1 + e^−a). -/
def sigmNum (r : Rnd) : Num → Res
  | .nan => ⟨fp32.nan, 0⟩
  | .inf s => if s then special (.fin false 0 0) 0 else special (.fin false 1 0) 0
  | .fin s m e =>
    if m = 0 then special (.fin false 1 (-1)) 0
    else if 8 ≤ log2Num m e then (if s then fp32.round r false 1 (-400) true else fxNearOne r false)
    else
      let y := fxExpNeg (fxOf m e)
      fxRes r false (fxDiv (if s then y else fxOne) (fxOne + y))

end Sys2Proof.Machine
end

