-- ==== Sys2Proof/Machine/Flags.lean ====
section
/-! DEFINITION. FPSTAT: sticky flags, enables, FP_EXCEPT (R234 to R236), and the stochastic draws of a group (R175). -/

namespace Sys2Proof.Machine
open Sys2Proof

/-- FPSTAT[12:8] as a flag mask. -/
def fpEnables (g : Group) : BitVec 5 := g.fpstat.extractLsb' 8 5
/-- Flags ORed into FPSTAT[4:0]. -/
def Group.orFlags (g : Group) (fl : BitVec 5) : Group := { g with fpstat := g.fpstat ||| fl.setWidth 32 }
/-- The OR of the flags of every lane. -/
def orAll (fs : List (Fin 32 × BitVec 5)) : BitVec 5 := fs.foldl (fun a x => a ||| x.2) 0
/-- R236: the trap, when a lane raises an enabled flag; named: a lane is named in XINFO0. -/
def fpTrap (g : Group) (named : Bool) (fs : List (Fin 32 × BitVec 5)) : Option Trap :=
  match fs.find? fun x => x.2 &&& fpEnables g != 0 with
  | none => none
  | some (l, _) => some { cause := 0x20, lane := if named then some l else none, x1 := (orAll fs).setWidth 32 }

/-- The draw of a lane for element j of its destination (R175). -/
def laneDraw (t : Team) (g : Group) (l : Fin 32) (j : Nat) : W32 :=
  srDraw (LRec.seed t.lrec) (Team.linear t) g.gid.toNat (4 * l.val + j) g.srcnt
/-- An SR instruction that acts adds 1 to SRCNT (R231). -/
def Group.countSr (g : Group) (rm : BitVec 3) : Group := if rm = 4 then { g with srcnt := g.srcnt + 1 } else g

end Sys2Proof.Machine
end

