-- ==== Sys2Proof/Machine/Cache.lean ====
section
/-! DEFINITION. The memory path below the layout checks: translation (R387 to R390), the write-combining buffer, L1,
the die L2, the coherence points (R74 to R81, R84, R95), keys (R422), poison (R255), dead granules (R409), snapshot
copy-before-write (R413), the persistent tier (R103 to R105, R405) and the host-block cache (R79). -/

namespace Sys2Proof.Machine
open Sys2Proof

/-! ## Places -/

/-- The byte memory behind a target. -/
def memOf (s : State) : MTgt → Mem
  | .dram => s.mem.dram
  | .pst => s.mem.pst
  | .host => s.mem.host
  | .fabric => s.mem.fabric
  | .shared c t => (s.team c t).shared
  | .wbuf c t => (s.team c t).wbuf
  | .xbuf c t => (s.team c t).xbuf
  | .ybuf c t => (s.team c t).ybuf
/-- A target's memory changed by f. -/
def modMemOf (s : State) (f : Mem → Mem) : MTgt → State
  | .dram => s.modMem fun m => { m with dram := f m.dram }
  | .pst => s.modMem fun m => { m with pst := f m.pst }
  | .host => s.modMem fun m => { m with host := f m.host }
  | .fabric => s.modMem fun m => { m with fabric := f m.fabric }
  | .shared c t => s.modTeam c t fun x => { x with shared := f x.shared }
  | .wbuf c t => s.modTeam c t fun x => { x with wbuf := f x.wbuf }
  | .xbuf c t => s.modTeam c t fun x => { x with xbuf := f x.xbuf }
  | .ybuf c t => s.modTeam c t fun x => { x with ybuf := f x.ybuf }

/-! ## Scratch (R62, R401) -/

/-- A typed buffer: a byte that nothing has written there is undefined (R401), so every written byte is listed, zeros too. -/
def MTgt.typed : MTgt → Bool
  | .wbuf .. | .xbuf .. | .ybuf .. => true
  | _ => false
/-- What an unlisted byte of a memory reads as. -/
def State.openByte (s : State) (t : MTgt) (a : Nat) : Byte :=
  match t with
  | .wbuf c k => Config.freeByte ((s.team c k).free0 + a)
  | .xbuf c k => Config.freeByte ((s.team c k).free0 + 2 ^ 24 + a)
  | .ybuf c k => Config.freeByte ((s.team c k).free0 + 2 ^ 25 + a)
  | _ => Memory.unlisted
/-- A byte of a place. -/
def placeByte (s : State) (p : PLoc) : Byte :=
  if p.tgt.typed then (Memory.find (memOf s p.tgt) p.addr).getD (s.openByte p.tgt p.addr) else Memory.get (memOf s p.tgt) p.addr
/-- A byte put into the memory behind a target. -/
def putByte (t : MTgt) (m : Mem) (a : Nat) (b : Byte) : Mem := if t.typed then Memory.insert m a b else Memory.set m a b
/-- Bytes put from an address up. -/
def putBytes (t : MTgt) (m : Mem) (a : Nat) (bs : List Byte) : Mem := bs.zipIdx.foldl (fun m x => putByte t m (a + x.2) x.1) m

/-- The memory of another node: job, node, address (R389). -/
def fabricAddr (job node va : Nat) : Nat := (job * 16384 + node) * 2 ^ 48 + va
/-- The node of a fabric address. -/
def fabricNode (a : Nat) : Nat := (a / 2 ^ 48) % 16384
/-- A request to the node can be carried: Spacen is enabled and the node is not lost (R436, R438). -/
def reachable (s : State) (node : Nat) : Bool := s.hub.nodeEn && !s.hub.lostAll.contains (BitVec.ofNat 14 node)

/-- A remote home translates an address for a read or a write (R389, R437). -/
def farServes (s : State) (write : Bool) (a : Nat) : Bool :=
  !(if write then s.hub.far.noWrite else s.hub.far.noRead).contains (a / 65536)

/-- A device-physical address names memory: 512 GiB of DRAM data, 1 TiB of persistent data, at the pitch of R66. -/
def paExists (tgt : Nat) (pa : Nat) : Bool :=
  match tgt with
  | 0 => pa % 256 < 192 && unpitch pa < 2 ^ 39
  | 1 => pa % 256 < 192 && unpitch pa < 2 ^ 40
  | _ => true

/-- Sector base of an address (R71). -/
def sectorBase (a : Nat) : Nat := 256 * (a / 256) + 48 * ((a % 256) / 48)
/-- Persistent stack of an address (R80). -/
def stackOf (pa : Nat) : Fin 4 := Fin.ofNat 4 (pa / 4096)

/-! ## Keys (R422) -/

/-- A key slot at one loading as a number. -/
def keyId (k : KeyRef) : Nat := k.slot.toNat + 1024 * k.gen
/-- The key a sector is stored under; none where nothing has been written. -/
def keyAt (s : State) (p : PLoc) : Option KeyRef := (s.mem.keys.find? fun x => x.1 == p).map Prod.snd
/-- A byte of a sector stored under one key and read under another. -/
def decipher (stored : Option KeyRef) (named : KeyRef) (sector i : Nat) (b : Byte) : Byte :=
  match stored with
  | none => b
  | some k => if k = named then b else Config.foreignByte (keyId k) (keyId named) sector i b
/-- Keys that a sector is stored under, set. -/
def setKey (s : State) (p : PLoc) (k : KeyRef) : State :=
  s.modMem fun m => { m with keys := (p, k) :: m.keys.filter fun x => x.1 != p }

/-! ## The coherence points (R84) -/

/-- Poison of a sector at the coherence point of PKG scope and wider (R255, R404). -/
def homePoison (s : State) (t : MTgt) (base : Nat) : Bool :=
  s.mem.poison.contains ⟨t, base⟩ || (t == .pst && (s.hub.pstacks[stackOf base]).state == 3)
/-- Byte i of a sector as that point holds it, deciphered under a key. -/
def homeByte (s : State) (t : MTgt) (base i : Nat) (key : KeyRef) : Byte :=
  decipher (keyAt s ⟨t, base⟩) key base i (Memory.get (memOf s t) (base + i))
/-- The whole sector, and its poison. -/
def homeSector (s : State) (t : MTgt) (base : Nat) (key : KeyRef) : Vector Byte 48 × Bool :=
  (Vector.ofFn fun i => homeByte s t base i.val key, homePoison s t base)
/-- A byte of DRAM there, under the system key. -/
def dramByte (s : State) (a : Nat) : Byte := homeByte s .dram (sectorBase a) (a - sectorBase a) {}

/-! ## Wait entries (R120, R122, R123) -/

/-- FULL and ERR of a future cell. -/
def cellFull (v : W64) : Bool := v.getLsbD 32
def cellErr (v : W64) : Bool := v.getLsbD 33

/-- What the home of a waited location holds (R96), and its poison; nothing moves. -/
def peekPlace (s : State) (d : Fin 4) (key : KeyRef) (sco : BitVec 3) (ps : List PLoc) : W64 × Bool :=
  let byte : PLoc → Byte := fun p =>
    let base := sectorBase p.addr
    match p.tgt with
    | .dram | .pst | .fabric =>
      match (if sco.toNat ≤ 2 then s.dies[d].l2.find? fun x => x.tgt == p.tgt && x.base == base && x.key == key else none) with
      | some x => if x.valid.getLsbD (p.addr - base) then vat x.data (p.addr - base) else homeByte s p.tgt base (p.addr - base) key
      | none => homeByte s p.tgt base (p.addr - base) key
    | .host => match s.mem.hcache.find? (·.base == p.addr / 64 * 64) with
      | some x => vat x.data (p.addr % 64)
      | none => Memory.get s.mem.host p.addr
    | t => Memory.get (memOf s t) p.addr
  let bad := ps.any fun p => match p.tgt with
    | .dram | .pst | .fabric =>
      homePoison s p.tgt (sectorBase p.addr)
        || (sco.toNat ≤ 2 && s.dies[d].l2.any fun x => x.tgt == p.tgt && x.base == sectorBase p.addr && x.poison)
    | _ => false
  (BitVec.ofNat 64 (natLE (ps.map byte)), bad)

/-- A write of some bytes meets a wait entry; narrow: it is performed at an L2, where only DIE scope and narrower wait. -/
def WaitEnt.hit (e : WaitEnt) (t : MTgt) (addrs : List Nat) (narrow : Bool) : Bool :=
  !e.recheck && (!narrow || e.sco.toNat ≤ 2) && e.ps.any fun p => p.tgt == t && addrs.contains p.addr
/-- A future's entry looks at its cell: a full or poisoned cell is found as it stands, and stays found (R122, R274). -/
def WaitEnt.look (s : State) (d : Fin 4) (e : WaitEnt) : WaitEnt :=
  let (v, bad) := peekPlace s d e.key e.sco e.ps
  if e.seen.isNone && (bad || cellFull v) then { e with seen := some (v, bad) } else e
/-- Entries of one core that a write fires: a WAITA's, when no earlier write has fired one of its group (R123); a future's,
when the cell is full. -/
def fireIn (s : State) (d : Fin 4) (t : MTgt) (addrs : List Nat) (narrow : Bool) (x : CtxCore) : CtxCore :=
  if x.waits.isEmpty then x
  else
    let fire : WaitEnt → WaitEnt := fun e =>
      if !e.hit t addrs narrow then e
      else if e.expect.isNone then e.look s d
      else if x.waits.any (fun f => f.idx == e.idx && f.fired) then e
      else { e with fired := true }
    { x with waits := x.waits.map fire }
/-- Wait entries whose location meets bytes that have been written; l2: only those that wait at that die's L2. -/
def fireWaits (s : State) (t : MTgt) (addrs : List Nat) (l2 : Option (Fin 4)) : State :=
  if s.cores.toList.all fun k => k.ctx.waits.isEmpty then s
  else { s with cores := s.cores.mapFinIdx fun i k h =>
      let die := dieOf ⟨i, h⟩
      match l2 with
      | some d => if die = d then k.modCtx (fireIn s die t addrs true) else k
      | none => k.modCtx (fireIn s die t addrs false) }

/-- Bytes of a sector that a mask selects, with their addresses. -/
def sectorCells (base : Nat) (mask : BitVec 48) (data : Vector Byte 48) : List Host.Cell :=
  ((List.finRange 48).filter fun i => mask.getLsbD i.val).map fun i => (base + i.val, data[i])

/-- The address of data offset u of snapshot slot k of a capture (R411). -/
def captureVa (c : Capture) (u : Nat) : Nat :=
  let slen := (vat c.cfg 6).toNat
  let sarea := fieldN (vat c.cfg 5) 0 57
  pitch sarea ((if c.slot = 0 then 0 else slen / 2 / 192 * 192) + u)

/-- An entry of a page table at data offset 8i of a table (R387), read at the PKG coherence point under slot 0. -/
def tableEntry (s : State) (table i : Nat) : W64 :=
  BitVec.ofNat 64 (natLE ((List.range 8).map fun j => dramByte s (pitch table (8 * i) + j)))

/-- Well-formedness of an entry at a level (R388). -/
def entryOk (level : Nat) (e : W64) : Bool :=
  fieldN e 57 7 == 0 && fieldN e 4 2 == 0
  && (if e.getLsbD 1 then
        level != 4 && fieldN e 8 8 == 0 && fieldN e 6 2 != 3
        && (level != 2 || fieldN e 16 5 == 0) && (level != 3 || fieldN e 16 14 == 0)
      else level != 1 && fieldN e 6 2 == 0 && !e.getLsbD 3 && !e.getLsbD 2)
/-- Index of an address at a level. -/
def tableIndex (level va : Nat) : Nat :=
  match level with
  | 4 => va / 2 ^ 39
  | 3 => (va / 2 ^ 30) % 512
  | 2 => (va / 2 ^ 21) % 512
  | _ => (va / 2 ^ 16) % 32

/-- The walk of R387 from a level down: the leaf and its level, or the fault type of R388. -/
def walkFrom (s : State) (va : Nat) : Nat → Nat → Except (BitVec 8) (W64 × Nat)
  | 0, _ => .error 4
  | level + 1, table =>
    let a := pitch table (8 * tableIndex (level + 1) va)
    if !paExists 0 a then .error 4
    else
      let e := tableEntry s table (tableIndex (level + 1) va)
      if !e.getLsbD 0 then .error 1
      else if !entryOk (level + 1) e then .error 4
      else if e.getLsbD 1 then .ok (e, level + 1)
      else walkFrom s va level (256 * fieldN e 8 49)

/-- Size of a leaf page at a level. -/
def pageSize (level : Nat) : Nat := if level = 3 then 2 ^ 30 else if level = 2 then 2 ^ 21 else 2 ^ 16

/-- What an access needs of its page. -/
inductive Need where
  | read | write | exec
  deriving DecidableEq, Repr

/-- The checks of R388 on a leaf, and the physical address. -/
def leafCheck (e : W64) (level va : Nat) (need : Need) (tgt : Nat) : Except (BitVec 8) Nat :=
  let pa := 65536 * fieldN e 16 41 + va % pageSize level
  if !paExists (fieldN e 6 2) pa then .error 4
  else if need == .write && !e.getLsbD 2 then .error 2
  else if need == .exec && !e.getLsbD 3 then .error 3
  else if fieldN e 6 2 ≠ tgt then .error 5
  else .ok pa

/-- A translation by table walk alone, with no TLB (staging, engines and firmware use it). -/
def walkTranslate (s : State) (asid : Asid) (va : Nat) (need : Need) (tgt : Nat) : Except (BitVec 8) Nat :=
  match walkFrom s va 4 (fieldN (s.ctxRec asid).desc 0 57) with
  | .error t => .error t
  | .ok (e, level) => leafCheck e level va need tgt

/-- A TLB entry of a context that covers an address (R390). -/
def tlbFind (l : List TlbEntry) (asid : Asid) (va : Nat) : Option TlbEntry :=
  l.find? fun e => e.asid == asid && va / pageSize e.size == e.va / pageSize e.size

/-- An entry put into a TLB of n entries: it takes the place of one for its page, or, where the TLB is full, of one that the
spec does not name (log entry 90). -/
def tlbPut (l : List TlbEntry) (e : TlbEntry) (n : Nat) (w : W64) : List TlbEntry :=
  let rest := l.filter fun x => !(x.asid == e.asid && x.size == e.size && x.va == e.va)
  e :: if rest.length < n then rest else delAt (w.toNat % n) rest
def fillCoreTlb (s : State) (c : CoreId) (e : TlbEntry) : State :=
  let (w, s) := if (s.cores[c].tlb).length < 512 then (0, s) else s.takeWord
  s.modCore c fun k => { k with tlb := tlbPut k.tlb e 512 w }
def fillDieTlb (s : State) (d : Fin 4) (e : TlbEntry) : State :=
  let (w, s) := if (s.dies[d].tlb).length < 16384 then (0, s) else s.takeWord
  s.modDie d fun k => { k with tlb := tlbPut k.tlb e 16384 w }
/-- Translation through the core TLB, the die TLB and the walk; a completed walk fills both. -/
def translate (s : State) (core : CoreId) (asid : Asid) (va : Nat) (need : Need) (tgt : Nat) :
    Except (BitVec 8) Nat × State :=
  let die := dieOf core
  -- an entry that refuses this access is looked up again in the tables, so that a retry walks (R393)
  let good : TlbEntry → Bool := fun e => match leafCheck e.pte e.size va need tgt with | .ok _ => true | .error _ => false
  match (tlbFind s.cores[core].tlb asid va).filter good with
  | some e => (leafCheck e.pte e.size va need tgt, s)
  | none =>
    match (tlbFind s.dies[die].tlb asid va).filter good with
    | some e => (leafCheck e.pte e.size va need tgt, fillCoreTlb s core e)
    | none =>
      match walkFrom s va 4 (fieldN (s.ctxRec asid).desc 0 57) with
      | .error t => (.error t, s)
      | .ok (p, level) =>
        match leafCheck p level va need tgt with
        | .error t => (.error t, s)                -- a walk that ends in a fault fills nothing (R388, R393)
        | .ok pa =>
          let e : TlbEntry := ⟨asid, va / pageSize level * pageSize level, level, p⟩
          (.ok pa, fillDieTlb (fillCoreTlb s core e) die e)

/-! ## The persistent tier (R103 to R107, R405) -/

/-- A write of group u before its PFENCE number e that has not persisted: on its way to its queue, in a write-combining
buffer, outstanding, in an engine command, or in a queue that is not in the persistence domain. -/
def persistOpen (s : State) (waiting : List PWrite) (u e : Nat) : Bool :=
  let old : List (Nat × Nat) → Bool := fun l => l.any fun x => x.1 == u && x.2 < e
  waiting.any (fun w => old w.sets || old w.joins)
  || (!s.hub.pdconf && s.mem.queues.toList.any fun q => q.any fun w => old w.sets || old w.joins)
  || s.cores.toList.any fun k =>
      k.wcb.any (fun x => x.tgt == .pst && old x.sets) || k.journal.any (fun c => old c.sets)
      || k.ctx.groups.toList.any fun g => g.resident && g.uid == u && g.out.any fun o => o.epoch < e &&
          match o.kind with
          | .mem accs => accs.any fun a => a.entry.getLsbD 67 && (match a.op with | .store .. => true | _ => false)
          | _ => false

/-- A write may enter its queue: not past a PFENCE of its group, not past an earlier write of its sector, not into a
failed stack (R404) or a full queue. -/
def mayPersist (s : State) (n : Nat) (w : PWrite) : Bool :=
  let k := stackOf w.base
  !((s.mem.pwait.take n).any fun x => x.base == w.base) && (s.hub.pstacks[k]).state != 3 && !s.pfail
    && (s.mem.queues[k]).length < 174762 && !w.sets.any fun x => persistOpen s s.mem.pwait x.1 x.2
/-- The first write that may enter its queue enters it, up to n times (R105). -/
def admitUpTo : Nat → State → State
  | 0, s => s
  | n + 1, s =>
    match s.mem.pwait.zipIdx.find? fun x => mayPersist s x.2 x.1 with
    | none => s
    | some (w, i) => admitUpTo n (s.modMem fun m => { m with
        pwait := delAt i m.pwait, queues := vmod m.queues (stackOf w.base) fun q => q ++ [w] })
/-- Writes sent toward their queues enter them as their order allows, whatever order the buffers let them go in. -/
def admitPersists (s : State) : State := admitUpTo s.mem.pwait.length s

/-- Bytes put into the persistent tier at its coherence point and sent toward their queue (R405). -/
def persistWrite (s : State) (base : Nat) (cells : List Host.Cell) (sets : List (Nat × Nat)) (via : List JoinKey := [])
    (joint : BitVec 48 := 0) : State :=
  admitPersists (s.modMem fun m => { m with
    pst := Memory.writeCells m.pst cells
    pwait := m.pwait ++ [{ base := base, bytes := cells, sets := sets, via := via, joint := joint }] })

/-- The persists of operations that completed through these objects join a group's persist set (R103). -/
def joinPersists (s : State) (keys : List JoinKey) (set : Nat × Nat) : State :=
  let join : PWrite → PWrite := fun w =>
    if w.via.any keys.contains && !w.joins.contains set then { w with joins := w.joins ++ [set] } else w
  s.modMem fun m => { m with pwait := m.pwait.map join, queues := m.queues.map fun q => q.map join }

/-- The persist set of snapshot images: group 0 stands for the snapshot engine. -/
def imageSet : Nat × Nat := (0, 0)

/-- The frame of a place (R77). -/
def frameOf (p : PLoc) : PLoc := ⟨p.tgt, 4096 * (p.addr / 4096)⟩
/-- Bytes of one declared line written at their places in the image (R413), sector by sector; ciphertext moves
unchanged (R422). -/
def imageWrite (s : State) (c : Capture) (t : MTgt) (cells : List Host.Cell) : State :=
  let line := (cells.head?.map Prod.fst).getD 0 / 256 * 256
  let key := keyAt s ⟨t, sectorBase ((cells.head?.map Prod.fst).getD 0)⟩
  (c.place.zipIdx.filter fun p => p.1 == ⟨t, line⟩).foldl (fun s p =>
    let cs := cells.filterMap fun x =>
      match walkTranslate s c.asid (captureVa c (192 + 192 * p.2 + (x.1 - line))) .read 1 with
      | .error _ => none
      | .ok pa => some (pa, x.2)
    (cs.splitBy fun x y => sectorBase x.1 == sectorBase y.1).foldl (fun s g =>
      match g with
      | [] => s
      | x :: _ =>
        let s := persistWrite s (sectorBase x.1) g [imageSet]
        match key with | some k => setKey s ⟨.pst, sectorBase x.1⟩ k | none => s) s) s

/-- One declared frame copied into the image, sector by sector, and its copied bit set (R412, R413). -/
def copyFrame (s : State) (c : Capture) (frame : PLoc) : State :=
  let lines := (c.place.filter fun p => frameOf p == frame).eraseDups
  let s := lines.foldl (fun s p => (List.range 4).foldl (fun s i =>
    let b := p.addr + 48 * i
    imageWrite s c p.tgt ((List.range 48).map fun j => (b + j, Memory.get (memOf s p.tgt) (b + j)))) s) s
  s.modHub fun h => { h with capture := h.capture.map fun x => { x with frames := frame :: x.frames } }

/-- R413 before a write: the frame may be copied first; whether the write goes to the image as well. -/
def beforeWrite (s : State) (t : MTgt) (base : Nat) (tag : Option W32) : State × Bool :=
  match s.hub.capture, tag with
  | some c, some n =>
    let frame := frameOf ⟨t, base⟩
    if !c.armed || !(c.place.any fun p => frameOf p == frame) then (s, false)
    else if c.frames.contains frame then (s, n.toNat ≤ c.step.toNat)
    else if c.step.toNat < n.toNat then (copyFrame s c frame, false)
    else (s, false)
  | _, _ => (s, false)

/-! ## The memory-side caches (R77) -/

/-- The set of a frame: its stack and the set there. -/
def frameSet (p : PLoc) : Nat × Nat := (p.addr / 4096 % 8, p.addr / 4096 / 8 % 32768)
/-- A frame leaves its MSC: what it held dirty has gone to the DRAM, what it held of another node is dropped. -/
def evictFrame (s : State) (p : PLoc) : State :=
  let inside : MTgt → Nat → Bool := fun t a => frameOf ⟨t, a⟩ == p
  s.modMem fun m => { m with
    frames := m.frames.filter (· != p)
    mscDirty := m.mscDirty.filter fun x => !inside .dram x.1
    mscRemote := m.mscRemote.filter fun x => !inside x.tgt x.base }
/-- The frame of an address is in its MSC; in a full set of 16 ways another one makes room. Which one the spec leaves
open (log entry 90). -/
def touchFrame (s : State) (t : MTgt) (addr : Nat) : State :=
  let p := frameOf ⟨t, addr⟩
  if s.mem.frames.contains p then s
  else
    let full := s.mem.frames.filter fun q => frameSet q == frameSet p
    let s := if full.length < 16 then s
      else
        let (w, s) := s.takeWord
        evictFrame s (full.getD (w.toNat % full.length) p)
    s.modMem fun m => { m with frames := p :: m.frames }

/-- The bytes of a sector that stay when another key takes it over: they read deciphered (R422). -/
def rekeyOthers (s : State) (t : MTgt) (base : Nat) (key : KeyRef) : State :=
  match keyAt s ⟨t, base⟩ with
  | none => s
  | some k =>
    if k = key then s
    else modMemOf s (fun m => (List.range 48).foldl
      (fun m i => Memory.set m (base + i) (decipher (some k) key base i (Memory.get m (base + i)))) m) t

/-- Bytes of y where a mask is set laid over x. -/
def overlay (x : Vector Byte 48) (mask : BitVec 48) (y : Vector Byte 48) : Vector Byte 48 :=
  Vector.ofFn fun i => if mask.getLsbD i.val then y[i] else x[i]
/-- A present copy of the sector a write goes to takes the bytes (R77). -/
def updateCopy (w c : Sector) : Sector :=
  if c.base = w.base then { c with data := overlay c.data w.dirty w.data } else c

/-- A write of a sector's dirty bytes performed at the coherence point of PKG scope (R84). -/
def homeWrite (s : State) (w : Sector) : State :=
  if w.dirty = 0 then s
  else
    let cells := sectorCells w.base w.dirty w.data
    let s := touchFrame s w.tgt w.base
    let s := if w.tgt = .dram then s.modMem fun m => { m with dead := m.dead.filter fun g => g != w.base / 65536 } else s
    let (s, img) := beforeWrite s w.tgt w.base w.tag
    let s := rekeyOthers s w.tgt w.base w.key
    let s := setKey s ⟨w.tgt, w.base⟩ w.key
    let s := match w.tgt with
      | .pst => persistWrite s w.base cells w.sets w.via w.joint
      | .fabric => s.modMem fun m => { m with
          fabric := Memory.writeCells m.fabric cells
          mscRemote := m.mscRemote.map (updateCopy w) }
      | t => modMemOf s (fun m => Memory.writeCells m cells) t
    let here : PLoc := ⟨w.tgt, w.base⟩
    let s := s.modMem fun m =>
      let clean := m.poison.filter fun x => x != here
      { m with
        poison := if w.poison then here :: clean else if w.dirty = BitVec.allOnes 48 then clean else m.poison
        mscDirty := if w.tgt = .dram then (w.base, w.owner) :: m.mscDirty.filter (fun x => x.1 != w.base)
          else m.mscDirty }
    let s := match img, s.hub.capture with
      | true, some c => imageWrite s c w.tgt cells
      | _, _ => s
    fireWaits s w.tgt (cells.map (·.1)) none

/-! ## The die L2 (R75) -/

/-- A sector list entry of a place. -/
def secFind (l : List Sector) (t : MTgt) (base : Nat) : Option Sector := l.find? fun x => x.tgt == t && x.base == base
def secDrop (l : List Sector) (t : MTgt) (base : Nat) : List Sector := l.filter fun x => !(x.tgt == t && x.base == base)
def secPut (l : List Sector) (x : Sector) : List Sector := x :: secDrop l x.tgt x.base
def modL2 (s : State) (d : Fin 4) (f : List Sector → List Sector) : State := s.modDie d fun x => { x with l2 := f x.l2 }
def modL1 (s : State) (c : CoreId) (f : List Sector → List Sector) : State := s.modCore c fun x => { x with l1 := f x.l1 }

/-- A sector's dirty bytes written back; the copy stays clean (R95). -/
def writeBack (s : State) (d : Fin 4) (x : Sector) : State :=
  modL2 (homeWrite s x) d fun l => l.map fun y =>
    if y.tgt = x.tgt && y.base = x.base then { y with dirty := 0, tag := none } else y

/-- The line of a sector. -/
def lineOf (base : Nat) : Nat := 256 * (base / 256)
/-- A line of an L2 as a place in its 16 slices of 1,024 sets. -/
def lineSet (line : Nat) : Nat := line / 256 % 16384
/-- A line leaves its die's L2: written back where dirty, then dropped with its way. -/
def evictLine (s : State) (d : Fin 4) (t : MTgt) (line : Nat) : State :=
  let inside : Sector → Bool := fun x => x.tgt == t && lineOf x.base == line
  let s := ((s.dies[d].l2).filter fun x => inside x && x.dirty != 0).foldl (fun s x => writeBack s d x) s
  s.modDie d fun k => { k with l2 := k.l2.filter fun x => !inside x, ways := k.ways.filter fun w => !(w.tgt == t && w.line == line) }
/-- The way is taken: a sector of its line is present, or the line is staged. -/
def Die.taken (k : Die) (w : L2Way) : Bool := !w.own.isEmpty || k.l2.any fun x => x.tgt == w.tgt && lineOf x.base == w.line
/-- Ways that demand allocation may use (R76). -/
def Die.demand (k : Die) (n : Nat) : Bool := !k.staging.getLsbD n && !k.blocked.getLsbD n
/-- The line has a way: it is taken, or demand allocation may use it. -/
def Die.hasWay (k : Die) (t : MTgt) (line : Nat) : Bool :=
  k.ways.any fun w => w.tgt == t && w.line == line && (k.taken w || k.demand w.way)
/-- A line takes one of the ways that a mask allows: a free one, or the way of a line that may be replaced; none when
there is none. Which line is replaced the spec leaves open (log entry 90). -/
def l2Place (s : State) (d : Fin 4) (t : MTgt) (line : Nat) (allow : Nat → Bool) (keep : L2Way → Bool) (own : List (Nat × Nat)) :
    Option State :=
  let k := s.dies[d]
  let here := k.ways.filter fun w => lineSet w.line == lineSet line && k.taken w
  let put : State → Nat → State := fun s n => s.modDie d fun k => { k with
    ways := { tgt := t, line := line, way := n, own := own }
      :: k.ways.filter fun w => !(lineSet w.line == lineSet line && (w.way == n || (w.tgt == t && w.line == line))) }
  match (List.range 16).find? fun n => allow n && !here.any (·.way == n) with
  | some n => some (put s n)
  | none =>
    match here.filter fun w => allow w.way && !keep w with
    | [] => none
    | v :: r =>
      let (x, s) := s.takeWord
      let w := (v :: r).getD (x.toNat % (r.length + 1)) v
      some (put (evictLine s d w.tgt w.line) w.way)
/-- A sector put into an L2; its line finds a way first. -/
def l2Put (s : State) (d : Fin 4) (x : Sector) : State :=
  let s := if (s.dies[d]).hasWay x.tgt (lineOf x.base) then s
    else (l2Place s d x.tgt (lineOf x.base) (s.dies[d]).demand (fun _ => false) []).getD s
  modL2 s d fun l => secPut l x
/-- A way that staging may use: a staging way within the count, from way 15 down (R76, R384). -/
def Die.stages (k : Die) (n : Nat) : Bool := k.staging.getLsbD n && 16 - k.sways.toNat ≤ n
/-- Ways above the count: a conversion not yet made is given up, and a staging way without staged lines returns to demand
use (R76, R384). -/
def Die.relax (k : Die) : Die :=
  let above : BitVec 16 := maskOf16 fun n => n < 16 - k.sways.toNat
  let idle : BitVec 16 := maskOf16 fun n => !k.ways.any fun w => w.way == n && !w.own.isEmpty
  { k with blocked := k.blocked &&& ~~~above, staging := k.staging &&& ~~~(above &&& idle) }
where
  maskOf16 (f : Nat → Bool) : BitVec 16 := (List.range 16).foldl (fun m n => if f n then m ||| bitOf 16 n else m) 0
/-- The staging of some teams has ended: their lines stay as ordinary cache content (R76, R139). -/
def unstage (s : State) (p : Nat × Nat → Bool) : State :=
  { s with dies := s.dies.map fun (k : Die) =>
      Die.relax { k with ways := k.ways.map fun w => { w with own := w.own.filter fun o => !p o } } }
/-- A line placed in a staging way for a team; a copy elsewhere moves there. With every staging way of its set taken by
staged lines it stays where it is (log entry 94). -/
def stageLine (s : State) (d : Fin 4) (t : MTgt) (line : Nat) (own : Nat × Nat) : State :=
  let k := s.dies[d]
  let mine : L2Way → Bool := fun w => w.tgt == t && w.line == line
  let add : List (Nat × Nat) → List (Nat × Nat) := fun l => if l.contains own then l else own :: l
  if k.ways.any fun w => mine w && k.staging.getLsbD w.way then
    s.modDie d fun k => { k with ways := k.ways.map fun w => if mine w then { w with own := add w.own } else w }
  else (l2Place s d t line k.stages (fun w => !w.own.isEmpty) [own]).getD s
/-- The line of a place lies in a staging way. -/
def Die.inStaging (k : Die) (t : MTgt) (base : Nat) : Bool :=
  k.ways.any fun w => w.tgt == t && w.line == lineOf base && k.staging.getLsbD w.way

/-- A store that reaches the die L2: a PERSIST store updates a copy and passes on (R75); another merges as dirty
bytes, after a write-back where the tag, key or last writer of the bytes held differs. -/
def l2Store (s : State) (d : Fin 4) (w : Sector) : State :=
  let held := secFind s.dies[d].l2 w.tgt w.base
  if w.tgt = .pst then
    let s := match held with
      | some x => modL2 s d fun l => secPut l { x with data := overlay x.data w.dirty w.data, valid := x.valid ||| w.dirty }
      | none => s
    homeWrite s w
  else
    let s := match held with
      | some x =>
        let s := if x.dirty != 0 && (x.tag != w.tag || x.key != w.key || x.owner != w.owner) then writeBack s d x else s
        if x.key != w.key then modL2 s d fun l => secDrop l w.tgt w.base else s
      | none => s
    let s := match secFind s.dies[d].l2 w.tgt w.base with
      | some x => modL2 s d fun l => secPut l { x with
          data := overlay x.data w.dirty w.data, valid := x.valid ||| w.dirty, dirty := x.dirty ||| w.dirty
          owner := w.owner, tag := w.tag, poison := x.poison && w.dirty != BitVec.allOnes 48 }
      | none => l2Put s d { w with valid := w.dirty, team := 0 }
    fireWaits s w.tgt ((sectorCells w.base w.dirty w.data).map (·.1)) (some d)

/-- A sector at the home as a load finds it; a copy of a remote sector is kept in the local MSC (R77). -/
def homeFetch (s : State) (t : MTgt) (base : Nat) (key : KeyRef) : (Vector Byte 48 × Bool) × State :=
  let s := touchFrame s t base
  if t = .fabric then
    match secFind s.mem.mscRemote t base with
    | some x => if x.key = key then ((x.data, x.poison), s) else fresh s
    | none => fresh s
  else (homeSector s t base key, s)
where
  /-- From the remote home. -/
  fresh (s : State) : (Vector Byte 48 × Bool) × State :=
    let (d, p) := homeSector s t base key
    ((d, p), s.modMem fun m => { m with
      mscRemote := secPut m.mscRemote { tgt := t, base := base, data := d, valid := BitVec.allOnes 48, key := key, poison := p } })

/-- A whole sector at the die L2, filled on a miss (R258 CP 1). -/
def l2Fetch (s : State) (d : Fin 4) (t : MTgt) (base : Nat) (key : KeyRef) (asid : Asid) : Sector × State :=
  match secFind s.dies[d].l2 t base with
  | some x =>
    if x.key = key && x.valid = BitVec.allOnes 48 then (x, s)
    else if x.key = key then
      let ((b, p), s) := homeFetch s t base key
      let y := { x with data := overlay b x.valid x.data, valid := BitVec.allOnes 48, poison := x.poison || p }
      (y, modL2 s d fun l => secPut l y)
    else fill (if x.dirty = 0 then s else writeBack s d x)
  | none => fill s
where
  /-- From the home. -/
  fill (s : State) : Sector × State :=
    let ((b, p), s) := homeFetch s t base key
    let y : Sector := { tgt := t, base := base, data := b, valid := BitVec.allOnes 48, owner := asid, key := key, poison := p }
    (y, l2Put s d y)

/-! ## The core: write-combining buffer and L1 (R74, R84) -/

/-- One buffered sector drained into the L2. -/
def drainSector (s : State) (c : CoreId) (x : Sector) : State :=
  l2Store (s.modCore c fun k => { k with wcb := delFirst (· == x) k.wcb }) (dieOf c) x
/-- The buffer drained (R95), oldest first. -/
def drainWcb (s : State) (c : CoreId) : State := s.cores[c].wcb.foldl (fun s x => drainSector s c x) s
/-- Buffered sectors of one place drained. -/
def drainPlace (s : State) (c : CoreId) (t : MTgt) (base : Nat) : State :=
  (s.cores[c].wcb.filter fun x => x.tgt == t && x.base == base).foldl (fun s x => drainSector s c x) s

/-- Lines that an L1 of a core holds: the rest of 576 KiB beside the carve (R14, R74). -/
def l1Lines (k : Core) : Nat := (589824 - k.carve) / 192
/-- A sector put into a core's L1; a full L1 drops a line for it. Which one the spec leaves open (log entry 90). -/
def l1Put (s : State) (c : CoreId) (x : Sector) : State :=
  let lines := ((s.cores[c].l1).map fun y => (y.tgt, lineOf y.base)).eraseDups
  let s := if lines.contains (x.tgt, lineOf x.base) || lines.length < l1Lines s.cores[c] then s
    else
      let (w, s) := s.takeWord
      let v := lines.getD (w.toNat % lines.length) (x.tgt, lineOf x.base)
      modL1 s c fun l => l.filter fun y => (y.tgt, lineOf y.base) != v
  modL1 s c fun l => secPut l x

/-- A store accepted by the core: L1 copies are updated, the buffer takes the bytes. -/
def coreStore (s : State) (c : CoreId) (w : Sector) : State :=
  let s := modL1 s c fun l => l.map fun x =>
    if x.tgt = w.tgt && x.base = w.base then
      { x with data := overlay x.data w.dirty w.data, poison := x.poison && w.dirty != BitVec.allOnes 48 } else x
  let held := secFind s.cores[c].wcb w.tgt w.base
  let joins := match held with
    | some x => x.tag == w.tag && x.key == w.key && x.owner == w.owner && x.sets == w.sets && x.team == w.team
    | none => false
  if joins then
    s.modCore c fun k => { k with wcb := k.wcb.map fun x =>
      if x.tgt = w.tgt && x.base = w.base then
        { x with
          data := overlay x.data w.dirty w.data, dirty := x.dirty ||| w.dirty, valid := x.valid ||| w.dirty
          joint := (x.joint &&& ~~~(w.dirty ||| w.dirty <<< 1)) ||| w.joint } else x }
  else
    let s := match held with | some x => drainSector s c x | none => s
    let s := s.modCore c fun k => { k with wcb := k.wcb ++ [w] }
    if 32 < (s.cores[c].wcb).length then
      match (s.cores[c].wcb) with
      | x :: _ => drainSector s c x
      | [] => s
    else s

/-- The bytes the write-combining buffer holds laid over a sector. -/
def forward (s : State) (c : CoreId) (t : MTgt) (base : Nat) (d : Vector Byte 48) : Vector Byte 48 :=
  match secFind s.cores[c].wcb t base with
  | some x => overlay d x.dirty x.data
  | none => d

/-- The buffer covers a whole sector. -/
def covers (s : State) (c : CoreId) (t : MTgt) (base : Nat) : Bool :=
  match secFind s.cores[c].wcb t base with
  | some x => x.dirty == BitVec.allOnes 48
  | none => false
/-- The sector of a place has been stored to by another team and is still in the buffer. -/
def foreignStore (s : State) (c : CoreId) (t : MTgt) (base tm : Nat) : Bool :=
  match secFind s.cores[c].wcb t base with
  | some x => x.team != tm
  | none => false

/-- A sector as a load of the core reads it at the point CP selects (R87, R258); poison. tm: the loading team. A store of
another team is performed at the L2, the point of the smallest scope that holds both teams, before it is returned (R92;
log entry 91). -/
def loadSector (s : State) (c : CoreId) (cp : BitVec 2) (t : MTgt) (base : Nat) (key : KeyRef) (asid : Asid) (tm : Nat) :
    (Vector Byte 48 × Bool) × State :=
  let d := dieOf c
  let s := if foreignStore s c t base tm then drainPlace s c t base else s
  let ((b, p), s) :=
    if cp = 2 then
      let (b, p) := homeSector s t base key
      match secFind s.dies[d].l2 t base with
      | some x => ((overlay b x.dirty x.data, p), s)
      | none => ((b, p), s)
    else if cp = 1 then
      let (x, s) := l2Fetch s d t base key asid
      ((x.data, x.poison), s)
    else
      match (secFind s.cores[c].l1 t base).filter (·.key == key) with
      | some x => ((x.data, x.poison), s)
      | none =>
        let (x, s) := l2Fetch s d t base key asid
        let y : Sector := { x with
          data := forward s c t base x.data, dirty := 0, tag := none, poison := x.poison && !covers s c t base }
        ((y.data, y.poison), l1Put s c y)
  ((forward s c t base b, p && !covers s c t base), s)

/-! ## Release and acquire work (R95) -/

/-- Release at a scope by a context: DIE drains the buffer, PKG and wider write its dirty sectors back. -/
def releaseWork (s : State) (c : CoreId) (asid : Asid) (sco : BitVec 3) : State :=
  if sco.toNat < 2 then s
  else
    let s := drainWcb s c
    if sco.toNat = 2 then s
    else (s.dies[dieOf c].l2.filter fun x => x.dirty != 0 && x.owner == asid).foldl (fun s x => writeBack s (dieOf c) x) s

/-- Acquire at a scope: DIE drops the core's L1, PKG and wider the clean bytes of the die's L2 and the local copies of
remote frames. Dirty sectors keep their dirty bytes. Log entry 9. -/
def acquireWork (s : State) (c : CoreId) (sco : BitVec 3) : State :=
  if sco.toNat < 2 then s
  else
    let s := modL1 s c fun _ => []
    if sco.toNat = 2 then s
    else
      let s := modL2 s (dieOf c) fun l => (l.filter fun x => x.dirty != 0).map fun x => { x with valid := x.dirty }
      s.modMem fun m => { m with mscRemote := [] }

/-! ## The host-block cache (R79) -/

/-- A snoop of the host: a dirty block returns to host memory; own: the device gives the block up (R79). -/
def snoopBlock (s : State) (base : Nat) (own : Bool) : State :=
  match s.mem.hcache.find? (·.base == base) with
  | none => s
  | some x => s.modMem fun m => { m with
      host := if x.dirty then Memory.writeCells m.host ((List.finRange 64).map fun i => (base + i.val, x.data[i])) else m.host
      hcache := if own then m.hcache.filter (·.base != base)
        else m.hcache.map fun y => if y.base = base then { y with dirty := false, own := false } else y }
/-- A full host-block cache of 8 MiB returns a block to the host for another one. Which one the spec leaves open (log
entry 90). -/
def hostRoom (s : State) : State :=
  if s.mem.hcache.length < 131072 then s
  else
    let (w, s) := s.takeWord
    match s.mem.hcache[w.toNat % 131072]? with
    | some x => snoopBlock s x.base true
    | none => s
/-- A host block present, filled from host memory. -/
def hostFetch (s : State) (base : Nat) : HBlock × State :=
  match s.mem.hcache.find? (·.base == base) with
  | some x => (x, s)
  | none =>
    let s := hostRoom s
    let x : HBlock := { base := base, data := Vector.ofFn fun i => Memory.get s.mem.host (base + i.val) }
    (x, s.modMem fun m => { m with hcache := x :: m.hcache })
/-- One byte of host memory at the SYS coherence point. -/
def hostByte (s : State) (a : Nat) : Byte × State :=
  let (x, s) := hostFetch s (a / 64 * 64)
  (vat x.data (a % 64), s)
/-- One byte written there. -/
def hostStore (s : State) (a : Nat) (b : Byte) : State :=
  let (x, s) := hostFetch s (a / 64 * 64)
  let y : HBlock := { x with data := vset x.data (Fin.ofNat 64 a) b, dirty := true, own := true }
  s.modMem fun m => { m with hcache := y :: m.hcache.filter (fun z => z.base != x.base) }

end Sys2Proof.Machine
end

