-- ==== Sys2Proof/Machine/MemPath.lean ====
section
/-! DEFINITION. From an entry and an offset to bytes (R86); engine reads and writes (R100, R101); the read and write of
an atomic at its place (R96, R266 to R268, R120). -/

namespace Sys2Proof.Machine
open Sys2Proof

/-! ## Resolving bytes -/

/-- Why an access could not be performed: a translation fault, or a remote home that cannot be reached (R389). -/
inductive AccFail where
  | page (va : Nat) (type : BitVec 8)
  | remote (node : Nat)
  deriving DecidableEq, Repr

/-- The TGT a space needs (R388 type 5). -/
def spaceTgt (sp : Nat) : Nat := if sp = spPersist then 1 else if sp = spHost then 2 else 0
/-- The memory behind a TGT. -/
def tgtMem (t : Nat) : MTgt := if t = 0 then .dram else if t = 1 then .pst else .host
/-- The job of a context (R385). -/
def jobOf (s : State) (asid : Asid) : Nat := fieldN (s.ctxRec asid).desc 128 16

/-- One virtual place resolved to a byte, through the TLBs (tlb) or by a walk. -/
def resolve (s : State) (core : CoreId) (asid : Asid) (e : Ent) (need : Need) (tlb : Bool) :
    VPlace → Except AccFail PLoc × State
  | .scratch t o => (.ok ⟨t, o⟩, s)
  | .va a =>
    match remoteNode s.hub.node.toNat e a with
    | some n =>
      let x := fabricAddr (jobOf s asid) n a
      (if reachable s n && farServes s (need == .write) x then .ok ⟨.fabric, x⟩ else .error (.remote n), s)
    | none =>
      let t := spaceTgt (entSpace e)
      let (r, s) := if tlb then translate s core asid a need t else (walkTranslate s asid a need t, s)
      (match r with | .ok pa => .ok ⟨tgtMem t, pa⟩ | .error ty => .error (.page a ty), s)

/-- Several places in turn; the first failure ends it. -/
def resolveAll (s : State) (core : CoreId) (asid : Asid) (e : Ent) (need : Need) (tlb : Bool) :
    List VPlace → Except AccFail (List PLoc) × State
  | [] => (.ok [], s)
  | v :: r =>
    match resolve s core asid e need tlb v with
    | (.error f, s) => (.error f, s)
    | (.ok p, s) =>
      match resolveAll s core asid e need tlb r with
      | (.error f, s) => (.error f, s)
      | (.ok ps, s) => (.ok (p :: ps), s)

/-- The places of bytes u to u + n − 1 of an entry. -/
def placesOf (w : Who) (pb : Nat) (e : Ent) (u n : Nat) : List VPlace :=
  (List.range n).map fun i => placeOf w pb e (u + i)

/-- A memory that is not behind the caches. -/
def uncached : MTgt → Bool
  | .dram | .pst | .fabric => false
  | _ => true

/-! ## Bytes -/

/-- A byte of scratch or host memory. -/
def plainByte (s : State) (p : PLoc) : Byte × State :=
  if p.tgt = .host then hostByte s p.addr else (placeByte s p, s)
/-- A byte of scratch or host memory written. -/
def plainStore (s : State) (p : PLoc) (b : Byte) : State :=
  if p.tgt = .host then hostStore s p.addr b else modMemOf s (fun m => putByte p.tgt m p.addr b) p.tgt
/-- Bytes of scratch and host memory written together; then parked waits see them. -/
def plainStores (s : State) (l : List (PLoc × Byte)) : State :=
  let s := l.foldl (fun s x => plainStore s x.1 x.2) s
  ((l.map (·.1.tgt)).eraseDups).foldl (fun s t => fireWaits s t ((l.filter fun x => x.1.tgt == t).map (·.1.addr)) none) s

/-- Bytes read with a sector read f, keeping the sector last read. -/
def readBytes (f : State → MTgt → Nat → (Vector Byte 48 × Bool) × State) :
    State → Option (MTgt × Nat × Vector Byte 48 × Bool) → List PLoc → (List Byte × Bool) × State
  | s, _, [] => (([], false), s)
  | s, last, p :: r =>
    if uncached p.tgt then
      let (b, s) := plainByte s p
      let ((bs, bad), s) := readBytes f s last r
      ((b :: bs, bad), s)
    else
      let base := sectorBase p.addr
      let ((d, q), s) := match last with
        | some (t, b0, d, q) => if t = p.tgt && b0 = base then ((d, q), s) else f s p.tgt base
        | none => f s p.tgt base
      let ((bs, bad), s) := readBytes f s (some (p.tgt, base, d, q)) r
      ((vat d (p.addr - base) :: bs, q || bad), s)

/-- Bytes of one sector gathered into a write. -/
def sectorOf (t : MTgt) (base : Nat) (cells : List Host.Cell) : Sector :=
  { tgt := t, base := base
    data := cells.foldl (fun d c => vset d (Fin.ofNat 48 (c.1 - base)) c.2) (.replicate 48 0)
    dirty := cells.foldl (fun m c => m ||| bitOf 48 (c.1 - base)) 0
    valid := cells.foldl (fun m c => m ||| bitOf 48 (c.1 - base)) 0 }

/-- Bytes to cached memory as one write per sector (R99), in the order in which the sectors first appear; of two bytes
to one place the later one stands. -/
def sectorSplit (l : List (PLoc × Byte)) : List Sector :=
  ((l.map fun x => (x.1.tgt, sectorBase x.1.addr)).eraseDups).map fun (t, base) =>
    sectorOf t base ((l.filter fun x => x.1.tgt == t && sectorBase x.1.addr == base).map fun x => (x.1.addr, x.2))

/-- Bytes written: scratch and host bytes at once, cached bytes as sector writes through f. -/
def writeBytes (f : State → Sector → State) (s : State) (ps : List PLoc) (bs : List Byte) : State :=
  let all := ps.zip bs
  let s := plainStores s (all.filter fun x => uncached x.1.tgt)
  (sectorSplit (all.filter fun x => !uncached x.1.tgt)).foldl f s

/-! ## Engines (R100, R101) -/

/-- A sector as an engine of a core reads it, after the core's buffered bytes of it have drained: through the die L2;
remote memory at its home, where the die's dirty bytes arrive first (R100). -/
def engineSector (c : CoreId) (key : KeyRef) (asid : Asid) (s : State) (t : MTgt) (base : Nat) :
    (Vector Byte 48 × Bool) × State :=
  let d := dieOf c
  let s := drainPlace s c t base
  if t = .fabric then
    let s := match secFind s.dies[d].l2 t base with
      | some x => if x.dirty = 0 then s else writeBack s d x
      | none => s
    (homeSector s t base key, s)
  else let (x, s) := l2Fetch s d t base key asid; ((x.data, x.poison), s)

/-- An engine's sector write: performed at PKG scope, the issuing core's L1 copy and the die's L2 copy dropped after
the L2's older dirty bytes have gone. -/
def engineStore (c : CoreId) (w : Sector) (s : State) : State :=
  let d := dieOf c
  let s := match secFind s.dies[d].l2 w.tgt w.base with
    | some x => if x.dirty = 0 then s else writeBack s d x
    | none => s
  let s := homeWrite s { w with joint := BitVec.allOnes 48 <<< 1 }   -- whole sectors (R99)
  modL2 (modL1 s c fun l => secDrop l w.tgt w.base) d fun l => secDrop l w.tgt w.base

/-! ## Atomics (R266 to R268, R120) -/

def atomSize : AtomFn → Nat
  | .int _ w64 _ => if w64 then 8 else 4
  | .flt .. => 4
  | .cas w64 _ _ => if w64 then 8 else 4
  | .fill _ => 8
  | .clear => 8
  | .addF32 .. => 4

/-- R266 on w-bit values. -/
def intAtom (op : BitVec 6) {w : Nat} (old b : BitVec w) : BitVec w :=
  match op.toNat with
  | 0 => old + b
  | 1 => if old.toNat ≤ b.toNat then old else b
  | 2 => if b.toNat ≤ old.toNat then old else b
  | 3 => if old.toInt ≤ b.toInt then old else b
  | 4 => if b.toInt ≤ old.toInt then old else b
  | 5 => old &&& b
  | 6 => old ||| b
  | 7 => old ^^^ b
  | 8 => b
  | 9 => if b.toNat ≤ old.toNat then 0 else old + 1
  | _ => if old = 0 || b.toNat < old.toNat then b else old - 1

/-- R267 on one element: round-to-nearest add, or a selection. -/
def fltAtom (f : FFmt) (op : BitVec 2) (rm : Nat) (old b : Nat) : Nat :=
  if op = 0 then (f.arith { rm := rm } (Num.add (rm == 2) (f.num old) (f.num b)).1).bits
  else f.select (op = 2) old b

/-- The value written, if the operation writes; old is the cell zero-extended to 64 bits. -/
def atomNew (f : AtomFn) (old : W64) : Option W64 :=
  match f with
  | .int op w64 b =>
    some (if w64 then intAtom op old b else (intAtom op (old.setWidth 32) (b.setWidth 32)).setWidth 64)
  | .flt fmt op b =>
    let o := old.toNat % 2 ^ 32
    some (BitVec.ofNat 64 (if fmt = 0 then fltAtom fp32 op 0 o b.toNat
      else
        let g := if fmt = 1 then fp16 else bf16
        fltAtom g op 0 (o % 65536) (b.toNat % 65536) + 65536 * fltAtom g op 0 (o / 65536) (b.toNat / 65536)))
  | .cas w64 cmp new =>
    if w64 then (if old = cmp then some new else none)
    else if old.setWidth 32 = cmp.setWidth 32 then some new else none
  | .fill v => if old.getLsbD 32 then none else some ((1#32 ++ v))
  | .clear => some 0
  | .addF32 rm b => some (BitVec.ofNat 64 (fltAtom fp32 0 rm.toNat (old.toNat % 2 ^ 32) b.toNat))

/-- Where an atomic on cached memory is performed (R96): the L2 slice, or the home. -/
def atL2 (sco : BitVec 3) : Bool := sco.toNat ≤ 2

/-- The sector of an atomic's place, with earlier stores of the core and (for the home) of the die performed first
(R86); the core's L1 copy of the line is dropped, and for the home the die's copy of the sector (R98). -/
def atomSector (s : State) (c : CoreId) (t : MTgt) (base : Nat) (key : KeyRef) (asid : Asid) (sco : BitVec 3) :
    (Vector Byte 48 × Bool) × State :=
  let d := dieOf c
  let s := modL1 (drainPlace s c t base) c fun l => l.filter fun x => !(x.tgt == t && lineOf x.base == lineOf base)
  if atL2 sco then
    let (x, s) := l2Fetch s d t base key asid
    ((x.data, x.poison), s)
  else
    let s := match secFind s.dies[d].l2 t base with
      | some x => if x.dirty = 0 then s else writeBack s d x
      | none => s
    let s := modL2 s d fun l => secDrop l t base
    (homeSector s t base key, s)

/-- An atomic's write at its place. -/
def atomStore (s : State) (c : CoreId) (sco : BitVec 3) (w : Sector) : State :=
  if atL2 sco then l2Store s (dieOf c) w else homeWrite s w

/-- The read and the write of one atomic: old value, poisoned, changed state. -/
def atomPerform (s : State) (c : CoreId) (asid : Asid) (key : KeyRef) (sco : BitVec 3) (tag : Option W32) (f : AtomFn)
    (ps : List PLoc) : (W64 × Bool) × State :=
  let ((bs, bad), s) := readBytes (fun s t base => atomSector s c t base key asid sco) s none ps
  let old := BitVec.ofNat 64 (natLE bs)
  if bad then ((old, true), s)
  else ((old, false), match atomNew f old with
    | some v => writeBytes (fun s w => atomStore s c sco { w with
        owner := asid, tag := tag, key := key, joint := w.dirty &&& w.dirty <<< 1 }) s ps
        (bytesLE (atomSize f) v.toNat)
    | none => s)

end Sys2Proof.Machine
end

