-- ==== Sys2Proof/Machine/Logs.lean ====
section
/-! DEFINITION. Records the device writes: the fault ring (R392, R393), the context fault log (R394), the command
journal (R381), the management error log (R455); faults bound to a grid (R459). -/

namespace Sys2Proof.Machine
open Sys2Proof

/-- An MSI-X vector raised. -/
def raiseMsi (s : State) (v : BitVec 6) : State := s.modHub fun h => { h with msi := h.msi ++ [v] }

/-- Device-physical address of dense window offset h (R371). -/
def densePa (h : Nat) : Nat := 256 * (h / 192) + h % 192

/-- A record of 48 bytes: the bytes of a 384-bit value. -/
def recordBytes (v : Nat) : List Byte := bytesLE 48 v
/-- A record whose bits [383:352] are the CRC-32C of its bytes 0 to 43. -/
def withCrc (v : Nat) : List Byte := let b := bytesLE 44 v; b ++ bytesLE 4 (crc32c b).toNat

/-- Bytes written to DRAM by firmware, at PKG scope under the system key, from a device-physical address up. -/
def dramWrite (s : State) (pa : Nat) (bs : List Byte) : State :=
  (sectorSplit ((bs.zipIdx).map fun x => (⟨.dram, pa + x.2⟩, x.1))).foldl homeWrite s
/-- Bytes written to host memory through the host-block cache. -/
def hostWriteBytes (s : State) (a : Nat) (bs : List Byte) : State :=
  bs.zipIdx.foldl (fun s x => plainStore s ⟨.host, a + x.2⟩ x.1) s

/-! ## The management error log (R455) -/

/-- A refusal entered: offset, cause, source, value. -/
def logRefusal (s : State) (off cause src value : Nat) : State :=
  s.modMgmt fun m => { m with
    errs := ((w32 value ++ w32 off ++ BitVec.ofNat 8 cause ++ BitVec.ofNat 4 src ++ (0 : BitVec 20) ++ w32 m.errNo)
      :: m.errs).take 256
    errNo := m.errNo + 1 }

/-! ## The fault ring -/

/-- The 384 bits of a fault-ring entry. -/
def ringEntry (f : RingFault) : Nat :=
  (f.va % 2 ^ 57) <<< 192 ||| f.id.toNat <<< 160 ||| f.type.toNat <<< 152 ||| f.kind.toNat <<< 148
  ||| f.asid.toNat <<< 136 ||| f.core.val <<< 130 ||| (if f.agent = 0 then f.idx.val else 0) <<< 124
  ||| f.agent.toNat <<< 122

/-- One entry written at its place and HEAD advanced. -/
def putRingEntry (s : State) (f : RingFault) : State :=
  let n := f.id.toNat % 2 ^ s.hub.frlsize.toNat
  let b := recordBytes (ringEntry f)
  let s := if s.hub.frloc then dramWrite s (densePa (s.hub.frbase.toNat + 48 * n)) b
    else hostWriteBytes s (s.hub.frbase.toNat + 64 * n) b
  raiseMsi (s.modHub fun h => { h with
    frhead := f.id + 1
    faults := h.faults.map fun x => if x.id = f.id then { x with logged := true } else x }) s.hub.frvec

/-- Waiting faults entered in order while the ring is enabled and has room (R393). -/
def logFaults (s : State) : State :=
  s.hub.faults.foldl (fun s f =>
    if !f.logged && s.hub.fren && (s.hub.frhead - s.hub.frtail).toNat < 2 ^ s.hub.frlsize.toNat then putRingEntry s f
    else s) s

/-- A translation fault of an access: a pending fault of the same context, page and die is shared, by 64 misses at most; the
next one looks again and makes its own (R390, R392). -/
def ringFault (s : State) (core : CoreId) (idx : Slot) (agent : BitVec 2) (asid : Asid) (va : Nat) (type : BitVec 8)
    (kind : BitVec 4) : W32 × State :=
  match s.hub.faults.find? fun f =>
      f.asid == asid && f.va / 65536 == va / 65536 && dieOf f.core == dieOf core && f.misses < 64 with
  | some f => (f.id, s.modHub fun h => { h with
      faults := h.faults.map fun x => if x.id = f.id then { x with misses := x.misses + 1 } else x })
  | none =>
    let id := s.hub.frid
    let f : RingFault := ⟨id, core, idx, agent, asid, va, type, kind, false, 1⟩
    (id, logFaults (s.modHub fun h => { h with frid := h.frid + 1, faults := h.faults ++ [f] }))

/-! ## The context fault log (R394) -/

/-- What a fault-log record holds beside its index and context. -/
structure LogRec where
  kind  : Nat
  cause : Nat
  info  : Nat := 0                 -- XINFO3 to XINFO0
  aux   : Nat := 0
  hdr   : Nat := 0
  cidx  : Nat := 0
  gid   : Nat := 0
  core  : Nat := 0
  agent : Nat := 0
  team  : Nat := 0
  node  : Nat := 0
  lh    : Nat := 0
  deriving DecidableEq, Repr

/-- A record entered in a context's log: its index. -/
def faultLog (s : State) (asid : Asid) (r : LogRec) : W32 × State :=
  let c := s.ctxRec asid
  let k := c.flogs
  let v := k % 2 ^ 32 ||| asid.toNat <<< 64 ||| r.lh % 64 <<< 76 ||| r.node % 16384 <<< 82 ||| r.team % 2 ^ 32 <<< 96
    ||| r.agent <<< 129 ||| r.core <<< 131 ||| r.gid % 64 <<< 137 ||| r.cidx % 32 <<< 143 ||| r.kind <<< 148
    ||| r.cause <<< 152 ||| r.hdr % 2 ^ 32 <<< 160 ||| r.aux % 2 ^ 32 <<< 192 ||| r.info % 2 ^ 128 <<< 224
  let base := fieldN c.desc 64 57
  let ln := fieldN c.desc 121 4
  let s := dramWrite s (pitch base (48 * (k % 2 ^ (6 + ln)))) (withCrc v)
  (w32 k, s.modCtxRec asid fun c => { c with flogs := c.flogs + 1 })

/-- XINFO3 to XINFO0 of a trap as one number (R394). -/
def trapInfo (t : Trap) : Nat :=
  (match t.lane with | some l => 32 + l.val | none => 0)
  ||| t.x1.toNat <<< 32 ||| t.x2.toNat <<< 64 ||| t.x3.toNat <<< 96

/-- A fault that waits for its grid's exit status (R459). -/
def bindFault (s : State) (grid : Nat) (cause : BitVec 8) (k : W32) (bar : Option (Nat × BitVec 7) := none) : State :=
  s.modGrid grid fun g => { g with faults := g.faults ++ [{ cause := cause, flog := k, bar := bar }] }
/-- The first of the faults that bind a grid: its record was entered first. -/
def firstFault (l : List GridFault) : Option GridFault :=
  l.foldl (fun m f => match m with
    | none => some f
    | some g => if f.flog.toNat < g.flog.toNat then some f else some g) none
/-- Faults of a context that a wait delivers as ASYNC_FAULT bind no command (R459). -/
def delivered (s : State) (asid : Asid) (hit : Grid → GridFault → Bool) : State :=
  s.modHub fun h => { h with grids := h.grids.map fun g =>
    if g.asid == asid then { g with faults := g.faults.filter fun f => !hit g f } else g }

/-! ## The journal (R381) -/

/-- The record of a command. -/
def journalRecord (c : Command) : Nat :=
  c.seq.toNat ||| c.utag.toNat <<< 64 ||| c.state.toNat <<< 128 ||| c.status.toNat <<< 132 ||| c.queue.val <<< 140
  ||| c.asid.toNat <<< 148 ||| c.slot.toNat <<< 160 ||| c.exit.toNat <<< 192 ||| c.flog.toNat <<< 224
  ||| c.teams.toNat <<< 256

/-- Place of the journal record of a sequence number (R381). -/
def journalPa (b : Boot) (seq : Nat) : Nat := densePa (b.jbase.toNat + 48 * (seq % 2 ^ b.lj.toNat))
/-- A sector of the persistent tier takes writes of firmware (R21, R404, R407). -/
def tierWrites (s : State) (pa : Nat) : Bool := !s.pfail && (s.hub.pstacks[stackOf pa]).state != 3
/-- The record written and persisted (R378): it stands at the coherence point and on the media; a journal that cannot be
written keeps what it holds. Log entry 10. -/
def journalWrite (s : State) (c : Command) : State :=
  let pa := journalPa s.hub.boot c.seq.toNat
  if !tierWrites s pa then s
  else
    let cells := (withCrc (journalRecord c)).zipIdx.map fun x => (pa + x.2, x.1)
    (setKey s ⟨.pst, sectorBase pa⟩ {}).modMem fun m => { m with
      pst := Memory.writeCells m.pst cells, media := Memory.writeCells m.media cells }

/-- A command moved to a state and status, its record persisted. -/
def setCommand (s : State) (seq : W64) (f : Command → Command) : State :=
  let s := s.modCmd seq fun c => { f c with kept := tierWrites s (journalPa s.hub.boot seq.toNat) }
  match s.cmd? seq with
  | some c => journalWrite s c
  | none => s

/-- The vector of the queue that accepted a command (R372). -/
def raiseQueue (s : State) (q : Fin 256) : State :=
  let x := s.hub.queues[q]
  if x.vecen then raiseMsi s x.vec else s

/-- A final state (R378). -/
def Command.final (c : Command) : Bool := 3 ≤ c.state.toNat

/-- A command ends in a final state: record, and the vector once the record has persisted (R378). -/
def endCommand (s : State) (seq : W64) (state : BitVec 4) (status : BitVec 8) (exit flog : W32) : State :=
  match s.cmd? seq with
  | none => s
  | some c =>
    if c.final then s
    else
      let s := setCommand s seq fun c => { c with state := state, status := status, exit := exit, flog := flog }
      if (s.cmd? seq).any (·.kept) then raiseQueue s c.queue else s

end Sys2Proof.Machine
end

