-- ==== Sys2Proof/Machine/Launch.lean ====
section
/-! DEFINITION. Launch records: the checks of R376 and R377, grids, and child grids (R33 to R35, R320). -/

namespace Sys2Proof.Machine
open Sys2Proof

/-! ## Reads of a context's memory by firmware -/

/-- One byte of a context's DRAM at the PKG coherence point, under slot 0. Log entry 13. -/
def contextByte (s : State) (asid : Asid) (va : Nat) (need : Need) : Option Byte :=
  match walkTranslate s asid va need 0 with
  | .error _ => none
  | .ok pa => some (dramByte s pa)
/-- n bytes from data offset u of an object at a base. -/
def contextBytes (s : State) (asid : Asid) (base u n : Nat) (need : Need) : Option (List Byte) :=
  (List.range n).foldr (fun i r => match r, contextByte s asid (pitch base (u + i)) need with
    | some bs, some b => some (b :: bs)
    | _, _ => none) (some [])
/-- Every byte of an object can be read: each of its lines and its last byte. -/
def contextReadable (s : State) (asid : Asid) (base n : Nat) : Bool :=
  n == 0 || (List.range ((n + 191) / 192)).all (fun i => (contextByte s asid (pitch base (192 * i)) .read).isSome)
    && (contextByte s asid (pitch base (n - 1)) .read).isSome

/-! ## Companion images (R375) -/

/-- Instruction and data bytes of an image block, or none when it cannot be read. -/
def imageSizes (s : State) (asid : Asid) (base : Nat) : Option (Nat × Nat) :=
  (contextBytes s asid base 0 8 .read).map fun bs => let w := natLE bs; (w % 2 ^ 17, w / 2 ^ 32 % 2 ^ 16)
/-- Data offset of an image's data part: the next multiple of 192 after its instruction part. -/
def imageDataAt (n : Nat) : Nat := 192 + (n + 191) / 192 * 192
/-- An image block is absent, or is readable and fits the stores of R333. -/
def imageOk (s : State) (asid : Asid) (base : Nat) : Bool :=
  base == 0 || match imageSizes s asid base with
    | none => false
    | some (n, d) => n ≤ 0x10000 && d ≤ 0x8000 && contextReadable s asid base (imageDataAt n + d)

/-! ## The checks of R376 -/

/-- The persistent tier takes writes on every stack (R21, R404). -/
def tierUp (s : State) : Bool := s.hub.pstacks.toList.all fun p => p.state == 1 || p.state == 2

/-- Step 1: version and the fields that are zero. -/
def recFormat (r : LRec) : Bool :=
  LRec.ver r == 1 && fieldN (LRec.word r 0) 32 24 == 0 && fieldN (LRec.word r 0) 0 13 == 0
  && fieldN (LRec.word r 0x10) 57 7 == 0 && fieldN (LRec.word r 0x20) 40 24 == 0 && fieldN (LRec.word r 0x38) 40 24 == 0
  && fieldN (LRec.word r 0x40) 63 1 == 0 && fieldN (LRec.word r 0x48) 61 3 == 0
  && [0x50, 0x58, 0x60, 0x68, 0x80].all (fun o => fieldN (LRec.word r o) 57 7 == 0)
  && fieldN (LRec.word r 0x78) 32 32 == 0
  && (List.range 10).all fun i => LRec.word r (0xB0 + 8 * i) == 0
/-- Step 2. -/
def recShape (r : LRec) : Bool :=
  1 ≤ LRec.ex r && LRec.ex r ≤ 65536 && 1 ≤ LRec.ey r && LRec.ey r ≤ 1024 && 1 ≤ LRec.ez r && LRec.ez r ≤ 64
/-- Step 5. -/
def recResource (r : LRec) : Bool :=
  LRec.nv r % 8 == 0 && 8 ≤ LRec.nv r && LRec.nv r ≤ 256 && LRec.na r % 2 == 0 && LRec.na r ≤ 16 && LRec.nbars r ≤ 96
  && LRec.nrings r ≤ 8 && LRec.sharedBytes r ≤ 393216 && LRec.wbufK r ≤ 4096 && LRec.xbufK r ≤ 4096
  && LRec.ybufK r ≤ 8192 && LRec.pb r % 16 == 0 && 1 ≤ LRec.hintCap r && LRec.hintCap r ≤ 8
  && (!LRec.pgv r || LRec.producer r < LRec.ngroups r) && LRec.nlast r ≤ 8
/-- A code offset names a readable header with BRT = 1. -/
def entryOkAt (s : State) (asid : Asid) (r : LRec) (o : Nat) : Bool :=
  o % 8 == 0 && o < LRec.codeSize r && match contextBytes s asid (LRec.codeBase r) o 8 .exec with
    | none => false
    | some bs => (BitVec.ofNat 64 (natLE bs)).extractLsb' 56 8 == 0xC5 && (natLE bs).testBit 29
/-- Step 6. -/
def recEntry (s : State) (asid : Asid) (r : LRec) : Bool :=
  LRec.codeBase r % 256 == 0 && entryOkAt s asid r (LRec.entry r).toNat
  && (LRec.handler r == 0xFFFFFFFF || entryOkAt s asid r (LRec.handler r).toNat)
/-- Step 7. -/
def recTable (s : State) (asid : Asid) (r : LRec) : Bool :=
  contextReadable s asid (LRec.layTable r) (64 * LRec.layEntries r)
  && contextReadable s asid (LRec.lastTable r) (64 * LRec.nlast r)
  && imageOk s asid (LRec.feederImg r) && imageOk s asid (LRec.drainImg r)
/-- The layout entries of a record, as its table holds them. -/
def layoutTable (s : State) (asid : Asid) (r : LRec) : List (BitVec 512) :=
  (List.range (LRec.layEntries r)).map fun i =>
    BitVec.ofNat 512 (natLE ((contextBytes s asid (LRec.layTable r) (64 * i) 64 .read).getD []))
/-- Step 8. -/
def recPersist (s : State) (asid : Asid) (r : LRec) : Bool :=
  (!LRec.snap r || LRec.snapCfg r != 0)
  && (tierUp s || !(LRec.snap r || (layoutTable s asid r).any fun e => fieldN e 57 3 == 1))

/-- The status of R376, 0 when every check passes; child: the differences of R377. depsOk: step 4 as the queue
resolves it. -/
def recordStatus (s : State) (asid : Asid) (r : LRec) (child : Bool) (pmax : Nat) (depsOk : Bool) : BitVec 8 :=
  if !recFormat r || (child && (LRec.depv r != 0 || LRec.snap r || LRec.utag r != 0)) then 1
  else if !recShape r then 2
  else if !child && pmax < (LRec.prio r).toNat then 3
  else if !child && !depsOk then 4
  else if !recResource r || (!child && LRec.cmask r == 0) then 5
  else if !recEntry s asid r then 6
  else if !recTable s asid r then 7
  else if !recPersist s asid r then 8
  else 0

/-! ## Grids -/

/-- A grid added; it offers its first team later. -/
def addGrid (s : State) (g : Grid) : State :=
  s.modHub fun h => { h with grids := h.grids ++ [{ g with id := h.gridId }], gridId := h.gridId + 1 }

/-- A launch record from its 256 bytes. -/
def recordOf (bs : List Byte) : LRec :=
  Vector.ofFn fun i => BitVec.ofNat 64 (natLE ((bs.drop (8 * i.val)).take 8))
/-- The parent's class and cores in a child's record (R377). -/
def inherit (r p : LRec) : LRec :=
  vset (vset r 0 (putField r[0] 23 3 (LRec.prio p).toNat)) 5 (LRec.cmask p)

/-- TCHILD accepted or refused (R320): the identifier, or none when every slot is held. A record that the command cores
refuse completes the child as faulted. Log entry 15. -/
def launchChild (s : State) (c : CoreId) (t : Slot) (r : LRec) : Option W32 × State :=
  let tm := s.team c t
  match (List.finRange 4096).find? fun k => !(s.hub.childs[k]).held with
  | none => (none, s)
  | some k =>
    let gen : BitVec 20 := (s.hub.childs[k]).gen + 1
    let id : W32 := gen ++ BitVec.ofNat 12 k.val
    let s := s.modTeam c t (fun x => { x with children := x.children ++ [(BitVec.ofNat 12 k.val, gen)] })
    let child : Child := { held := true, gen := gen, grid := s.hub.gridId, core := c, team := t }
    let status := recordStatus s tm.asid r true 0 true
    if status = 0 then
      let p := s.grid? tm.grid
      let s := addGrid s { id := 0, cmd := none, parent := some (c, t, BitVec.ofNat 12 k.val), pgrid := tm.grid
                           asid := tm.asid, lrec := inherit r tm.lrec, prio := LRec.prio tm.lrec
                           cmask := LRec.cmask tm.lrec, depth := (p.map (·.depth)).getD 0 + 1
                           killed := (p.map (·.killed)).getD false }
      (some id, s.modHub fun h => { h with childs := vset h.childs k child })
    else
      let (kind, s) := s.takeByte
      let (cause, s) := s.takeByte
      let (n, s) := faultLog s tm.asid
        { kind := kind.toNat % 16, cause := cause.toNat, aux := id.toNat, agent := 3, core := c.val, team := Team.linear tm }
      let child := { child with done := true, fault := true, cause := cause, flog := n }
      (some id, s.modHub fun h => { h with childs := vset h.childs k child })

end Sys2Proof.Machine
end

