-- ==== Sys2Proof/Machine/Reduce.lean ====
section
/-! DEFINITION. The deterministic-reduction buffers (R271, R272): entering a contribution, and the drain that folds
each location in the order of R184. -/

namespace Sys2Proof.Machine
open Sys2Proof

/-- The place of a contribution in the fold within its scheduler (R184). -/
def Contrib.rank (k : Contrib) : List Nat := [k.task, k.order, k.gid.toNat, k.pos, k.lane.val]

/-- The fold of one location's contributions, each added with its own rounding. -/
def foldContribs : List Contrib → W32
  | [] => 0
  | k :: r => r.foldl (fun p x => BitVec.ofNat 32 (fltAtom fp32 0 x.rm.toNat p.toNat x.value.toNat)) k.value

/-- One home add: of the location's contributions, the first gives the context, key and tag, the widest scope stands;
a release carried by one of them precedes it. A poisoned cell is not written: the fault is logged and bound (R255). -/
def homeAdd (s : State) (c : CoreId) (l : List Contrib) : State :=
  match l with
  | [] => s
  | k :: _ =>
    let sco := l.foldl (fun m x => if m.toNat < x.sco.toNat then x.sco else m) 0
    let s := if l.any (·.rel) then releaseWork s c k.asid sco else s
    let ((_, bad), s) := atomPerform s c k.asid k.key sco k.tag (.addF32 0 (foldContribs l)) k.ps
    if bad then
      let (n, s) := faultLog s k.asid
        { kind := 10, cause := 0x1D, gid := k.gid.toNat, core := c.val, team := k.team }
      ((l.map (·.grid)).eraseDups).foldl (fun s g => bindFault s g 0x1D n) s
    else s

/-- Contributions in fold order, location by location, the first location first. -/
def addAll (c : CoreId) : Nat → State → List Contrib → State
  | 0, s, _ => s
  | _, s, [] => s
  | n + 1, s, k :: r =>
    let same : Contrib → Bool := fun x => x.ps == k.ps
    addAll c n (homeAdd s c (k :: r.filter same)) (r.filter fun x => !same x)

/-- A drain of the buffers that p selects, of the contributions issued before a position. -/
def drainContribs (s : State) (c : CoreId) (p : Fin 4 → Bool) (pos : Nat) : State :=
  let bufs := s.cores[c].ctx.redd
  let takes : Fin 4 → Contrib → Bool := fun k x => p k && x.pos < pos
  let all := (List.finRange 4).flatMap fun k => sortBy Contrib.rank ((bufs[k]).filter (takes k))
  let s := s.modCtx c fun x => { x with redd := Vector.ofFn fun k => (bufs[k]).filter fun y => !takes k y }
  addAll c all.length s all

/-- A scheduler's buffer drained before n more contributions would overflow it. -/
def makeRoom (s : State) (c : CoreId) (k : Fin 4) (n : Nat) : State :=
  if ((s.cores[c].ctx.redd)[k]).length + n ≤ 1024 then s
  else drainContribs s c (fun j => j == k) s.cores[c].ctx.pos

/-- A contribution entered. -/
def addContrib (s : State) (c : CoreId) (k : Fin 4) (x : Contrib) : State :=
  (makeRoom s c k 1).modCtx c fun y => { y with redd := vmod y.redd k fun l => l ++ [x] }

end Sys2Proof.Machine
end

