-- ==== Sys2Proof/Machine/Perform.lean ====
section
/-! DEFINITION. One access of a group performed: load, store, atomic, cache operation, deferred contribution (R85, R255
to R271). -/

namespace Sys2Proof.Machine
open Sys2Proof

/-! ## One access of a group (R257, R262, R269) -/

/-- The outcome of performing one access. -/
inductive Perf where
  /-- event: a poison event for the fault log, and whether it binds the grid's exit status (R255, R459). -/
  | ok (writes : List RegWrite) (event : Option Bool) (s : State)
  | fail (f : AccFail) (s : State)

/-- Words of a load (R257). -/
def loadWords (sx : Bool) (bs : List Byte) : List W32 :=
  if bs.length < 4 then
    let n := 8 * bs.length
    let v := natLE bs
    [if sx && v.testBit (n - 1) then trunc 32 ((v : Int) - (2 ^ n : Nat)) else w32 v]
  else (List.range (bs.length / 4)).map fun i => wordLE ((bs.drop (4 * i)).take 4)

/-- Words to consecutive registers of a lane. -/
def wordWrites (cls : RegCls) (reg : Nat) (l : Fin 32) (bad : Bool) (ws : List W32) : List RegWrite :=
  ws.zipIdx.map fun (x, i) =>
    if cls = .s then .s (BitVec.ofNat 6 (reg + i)) x bad else .v (BitVec.ofNat 8 (reg + i)) l x bad

/-- CCTL on one line (R262): its four sectors. -/
def cctlLine (s : State) (c : CoreId) (asid : Asid) (op : BitVec 3) (t : MTgt) (line : Nat) : State :=
  let d := dieOf c
  (List.range 4).foldl (fun s i =>
    let base := line + 48 * i
    if op = 0 then modL1 s c fun l => secDrop l t base
    else
      let s := match secFind s.dies[d].l2 t base with
        | some x => if x.dirty != 0 && x.owner == asid then writeBack s d x else s
        | none => s
      if op = 1 then s
      else match secFind s.dies[d].l2 t base with
        | some x => if x.dirty != 0 || (s.dies[d]).inStaging t base then s else modL2 s d fun l => secDrop l t base
        | none => s) s

/-- Step tag of a store through an entry (R109, R259). -/
def tagOf (t : Team) (e : Ent) : Option W32 := if entStg e then some t.step else none

/-! ## Line requests (R73) -/

/-- Loads and stores are merged by line; each other access is a request of its own. -/
def AccOp.merges : AccOp → Bool
  | .load .. | .loadRow .. | .store .. => true
  | _ => false
/-- Offsets of an access that a request may still move. -/
def Acc.left (a : Acc) : List Nat :=
  (List.range a.size).filter fun i => !a.lost && !a.got.any (·.1 == i) && !a.wait.any (·.1 == i)
/-- Every byte has moved. -/
def Acc.whole (a : Acc) : Bool := (List.range a.size).all fun i => a.got.any (·.1 == i)
/-- The accessing lane of an access of a group. -/
def accWho (s : State) (c : CoreId) (idx : Slot) (a : Acc) : Who := ⟨c, (s.grp c idx).team, idx, a.lane⟩
/-- The place of byte i of an access. -/
def Acc.place (s : State) (c : CoreId) (idx : Slot) (a : Acc) (i : Nat) : VPlace :=
  placeOf (accWho s c idx a) (LRec.pb (s.team c (s.grp c idx).team).lrec) a.entry (a.u + i)
/-- The line of a place: 192 bytes of data. -/
def VPlace.line : VPlace → VPlace
  | .va a => .va (256 * (a / 256))
  | .scratch t o => .scratch t (192 * (o / 192))

/-- A request of the memory pipeline: one line for every lane that touches it, or one lane's access. -/
inductive Req where
  | line (v : VPlace)
  | lane (l : Fin 32)
  deriving DecidableEq, Repr
/-- The requests that an instruction's accesses still make, by the lowest lane that touches each line. -/
def requests (s : State) (c : CoreId) (idx : Slot) (accs : List Acc) : List Req :=
  (accs.flatMap fun a =>
    if a.op.merges then a.left.map fun i => Req.line (a.place s c idx i).line
    else if a.wait.isEmpty && !a.lost then [.lane a.lane] else []).eraseDups
/-- The offsets of an access that belong to a request. -/
def Acc.part (s : State) (c : CoreId) (idx : Slot) (q : Req) (a : Acc) : List Nat :=
  match q with
  | .line v => if a.op.merges then a.left.filter fun i => (a.place s c idx i).line == v else []
  | .lane l => if !a.op.merges && a.lane = l then List.range a.size else []

/-- The bytes that an access has moved, in order, and whether any is poisoned. -/
def Acc.bytes (a : Acc) : List Byte × Bool :=
  ((List.range a.size).map fun i => match a.got.find? (·.1 == i) with | some x => x.2.1 | none => 0, a.got.any (·.2.2))
/-- What a whole load or store gives. -/
def Acc.result (a : Acc) : List RegWrite :=
  let (bs, bad) := a.bytes
  match a.op with
  | .load _ sx dst reg => wordWrites dst reg a.lane bad (loadWords sx bs)
  | .loadRow _ reg => [.a reg a.lane (BitVec.ofNat 256 (natLE bs)) bad]
  | _ => []

/-- The units of an aligned lane store (R99): place and size; a misaligned one gives none beyond single bytes. -/
def storeUnits (n : Nat) : List PLoc → List (PLoc × Nat)
  | [] => []
  | p :: r =>
    let ps := p :: r
    if ps.length != n || 16 < n || p.addr % n ≠ 0 then []
    else if n ≤ 4 then [(p, n)] else (ps.filter fun q => q.addr % 4 == 0).map fun q => (q, 4)
/-- Bytes joined in a sector by some units, the later over the earlier. -/
def jointOf (t : MTgt) (base : Nat) (us : List (PLoc × Nat)) : BitVec 48 :=
  us.foldl (fun m u =>
    if u.1.tgt = t && sectorBase u.1.addr = base then
      let o := u.1.addr - base
      let at' : Nat → BitVec 48 := fun k => BitVec.ofNat 48 ((2 ^ k - 1) * 2 ^ o)
      (m &&& ~~~(at' (u.2 + 1))) ||| (at' u.2 &&& ~~~bitOf 48 o)
    else m) 0
/-- The places of each part of a request, in its order. -/
def splitPlaces : List (Acc × List Nat) → List PLoc → List (Acc × List PLoc)
  | [], _ => []
  | (a, is) :: r, ps => (a, ps.take is.length) :: splitPlaces r (ps.drop is.length)

/-- The bytes of a line request of stores, lower lanes first, so that the highest lane's byte stands. -/
def storeLine (s : State) (c : CoreId) (idx : Slot) (epoch : Nat) (parts : List (Acc × List Nat)) (ps : List PLoc) : State :=
  let g := s.grp c idx
  let t := s.team c g.team
  match parts with
  | [] => s
  | (a, _) :: _ =>
    let tag := match a.op with | .store _ tag => tag | _ => none
    let sets := if entPst a.entry then [(g.uid, epoch)] else []
    let bs := parts.flatMap fun (a, is) => match a.op with
      | .store bytes _ => is.map fun i => bytes.getD i 0
      | _ => []
    let us := (splitPlaces parts ps).flatMap fun x => storeUnits x.1.size x.2
    writeBytes (fun s x => coreStore s c { x with
      joint := jointOf x.tgt x.base us, owner := t.asid, tag := tag, key := keyRef s a.entry, sets := sets, team := t.order + 1 }) s ps bs
/-- A line request of loads: each lane's bytes, all read at one moment. -/
def loadLine (s : State) (c : CoreId) (idx : Slot) : List (Acc × List Nat) → List PLoc → List Acc × State
  | [], _ => ([], s)
  | (a, is) :: r, ps =>
    let t := s.team c (s.grp c idx).team
    let cp := match a.op with | .load cp .. | .loadRow cp _ => cp | _ => 0
    let ((bs, bad), s) := readBytes (fun s t' b => loadSector s c cp t' b (keyRef s a.entry) t.asid (t.order + 1)) s none
      (ps.take is.length)
    let (rest, s) := loadLine s c idx r (ps.drop is.length)
    ({ a with got := a.got ++ (is.zip bs).map fun x => (x.1, x.2, bad) } :: rest, s)

/-- One access that is no load and no store, performed for a group. -/
def performAcc (s : State) (c : CoreId) (idx : Slot) (a : Acc) : Perf :=
  let g := s.grp c idx
  let t := s.team c g.team
  let w : Who := ⟨c, g.team, idx, a.lane⟩
  let need := match a.op with
    | .store .. | .atom .. | .redd .. => Need.write
    | _ => Need.read
  match resolveAll s c t.asid a.entry need true (placesOf w (LRec.pb t.lrec) a.entry a.u a.size) with
  | (.error f, s) => .fail f s
  | (.ok ps, s) =>
    let key := keyRef s a.entry
    match a.op with
    | .load .. | .loadRow .. | .store .. => .ok [] none s      -- by line requests
    | .atom f sco tag dst =>
      let ((old, bad), s) := atomPerform s c t.asid key sco tag f ps
      match dst with
      | some (.p, r) => .ok [.p (BitVec.ofNat 3 r) a.lane (!bad && !old.getLsbD 32)] (if bad then some false else none) s
      | some (.q, r) => .ok [.q (BitVec.ofNat 2 r) (!bad && !old.getLsbD 32)] (if bad then some false else none) s
      | some (cls, r) =>
        .ok (wordWrites cls r a.lane bad ((List.range (atomSize f / 4)).map fun i => old.extractLsb' (32 * i) 32)) none s
      | none => .ok [] (if bad then some true else none) s
    | .child q sd =>
      let ((bs, _), s) := readBytes (fun s t' b => loadSector s c 0 t' b key t.asid (t.order + 1)) s none ps
      let (id, s) := launchChild s c g.team (recordOf bs)
      .ok (match id with
        | some x => [.q (q.setWidth 2) true, .s (sd.setWidth 6) x false]
        | none => [.q (q.setWidth 2) false]) none s
    | .cctl op =>
      match ps with
      | p :: _ => .ok [] none (if uncached p.tgt then s else cctlLine s c t.asid op p.tgt (256 * (p.addr / 256)))
      | [] => .ok [] none s
    | .redd value rm sco rel pos tag =>
      .ok [] none (addContrib s c g.sched
        { value := value, lane := a.lane, key := key, ps := ps, rm := rm, sco := sco, rel := rel, asid := t.asid
          grid := t.grid, team := Team.linear t, tag := tag, task := g.formed
          order := t.order, gid := g.gid, pos := pos })

/-- KIND of a fault-ring entry (R392). -/
def accKind : AccOp → BitVec 4
  | .store .. => 1
  | .atom .. | .redd .. => 2
  | _ => 0

/-- PREF on one element (R261): the line is brought into the named level and those between it and the home; any
failure drops it. -/
def prefetch (s : State) (c : CoreId) (asid : Asid) (tm : Nat) (w : Who) (pb : Nat) (e : Ent) (u : Nat) (level : BitVec 3) :
    State :=
  match resolve s c asid e .read true (placeOf w pb e u) with
  | (.error _, s) => s
  | (.ok p, s) =>
    if uncached p.tgt then s
    else
      let key := keyRef s e
      let line := 256 * (p.addr / 256)
      (List.range 4).foldl (fun s i =>
        let base := line + 48 * i
        if level = 0 then (loadSector s c 0 p.tgt base key asid tm).2
        else if level = 1 then (l2Fetch s (dieOf c) p.tgt base key asid).2
        else (homeFetch s p.tgt base key).2) s

end Sys2Proof.Machine
end

