-- ==== Sys2Proof/Machine/Groups.lean ====
section
/-! DEFINITION. Groups and tasks on a core: resident order (R52), eviction, the task gatherer (R36, R37), rings' entries
(R125), and teams that stop (R380, R398, R430). -/

namespace Sys2Proof.Machine
open Sys2Proof

/-! ## Resident order (R52) -/

/-- A group leaves its scheduler's order; the positions after it close up. -/
def CtxCore.unorder (x : CtxCore) (i : Slot) : CtxCore :=
  let k := (x.groups[i]).sched
  let l := x.order[k]
  match l.findIdx? (· == i) with
  | none => x
  | some p =>
    let r := if p < x.rot[k] then x.rot[k] - 1 else x.rot[k]
    { x with order := vset x.order k (delAt p l), rot := vset x.rot k (if l.length ≤ r + 1 then 0 else r) }

/-- A group enters its scheduler's order after the entries that satisfy p; the rotation keeps its group. -/
def CtxCore.enterOrder (x : CtxCore) (k : Fin 4) (i : Slot) (p : Slot → Bool) : CtxCore :=
  let l := x.order[k]
  let n := (l.takeWhile p).length
  let r := if n < x.rot[k] then x.rot[k] + 1 else x.rot[k]
  { x with order := vset x.order k (l.take n ++ i :: l.drop n), rot := vset x.rot k r }

/-- A group slot emptied: it leaves its scheduler and the wait tables. -/
def CtxCore.evict (x : CtxCore) (i : Slot) : CtxCore :=
  let x := x.unorder i
  { x with groups := vset x.groups i {}, waits := x.waits.filter fun w => w.idx != i }

/-! ## The task gatherer (R36, R37) -/

/-- The tasks of a bin: team and entry clause, in the order of the pool. -/
def CtxCore.bin (x : CtxCore) (t : Slot) (entry : W32) : List Task := x.pool.filter fun k => k.team == t && k.entry == entry
/-- A bin becomes a formed task group. -/
def CtxCore.formBin (x : CtxCore) (t : Slot) (entry : W32) : CtxCore :=
  match x.bin t entry with
  | [] => x
  | ks => { x with
      pool := x.pool.filter fun k => !(k.team == t && k.entry == entry)
      bins := x.bins ++ [⟨t, entry, ks, x.forms + 1⟩]
      forms := x.forms + 1 }
/-- Every bin of a team is flushed, the one with the oldest task first. -/
def CtxCore.flushTeam (x : CtxCore) (t : Slot) : CtxCore :=
  (x.pool.filter fun k => k.team == t).foldl (fun x k => x.formBin t k.entry) x
/-- Blocked at a wait that its own clause cannot end. -/
def Block.waits : Block → Bool
  | .parked | .polling => true
  | _ => false
/-- Nothing of the group issues: it waits or sleeps. -/
def Block.still (b : Block) : Bool := b.waits || (match b with | .sleeping _ => true | _ => false)
/-- A group that has exited, or is blocked at a wait or asleep, as R46 and R52 list it. Log entry 67. -/
def Group.quiet (g : Group) : Bool :=
  g.block.still || allLanes.all fun l => g.lane[l] == .exited
/-- R37: every resident group of the team is quiet, so its bins are flushed. -/
def CtxCore.flushQuiet (x : CtxCore) (t : Slot) : CtxCore :=
  if x.pool.any (fun k => k.team == t) && x.groups.toList.all (fun g => !g.resident || g.team != t || g.quiet) then x.flushTeam t
  else x

/-- The team has a resident group or a task that waits. -/
def CtxCore.busyTeam (x : CtxCore) (t : Slot) : Bool :=
  x.groups.toList.any (fun g => g.resident && g.team == t) || x.pool.any (fun k => k.team == t) || x.bins.any fun b => b.team == t
/-- The team has a group that has not exited, or a task that waits. -/
def CtxCore.aliveTeam (x : CtxCore) (t : Slot) : Bool :=
  x.groups.toList.any (fun g => g.resident && g.team == t && allLanes.any fun l => g.lane[l] != .exited)
    || x.pool.any (fun k => k.team == t) || x.bins.any fun b => b.team == t
/-- The companion cores of a team whose groups have all exited stop (R340). -/
def CtxCore.stopIdle (x : CtxCore) (t : Slot) : CtxCore :=
  if x.aliveTeam t then x
  else
    let stop : Companion → Companion := fun k => if k.team == t then { k with running := false, block := .free, fault := none } else k
    { x with feeder := stop x.feeder, drain := stop x.drain }

/-- At a clause boundary: no clause is open, or the group is blocked at the last instruction of one (R46). -/
def Group.atBoundary (g : Group) : Bool := g.run.isNone || g.block.waits

/-- The grid of a group has been stopped. -/
def gridKilled (s : State) (t : Team) : Bool := match s.grid? t.grid with | some g => g.killed | none => false

/-! ## Teams that stop (R380, R398) -/

/-- The teams that satisfy p stop: groups at a clause boundary leave, tasks, commands, array operations, staging,
contributions, waits and companion cores of those teams end. -/
def CtxCore.killTeams (x : CtxCore) (p : Team → Bool) : CtxCore :=
  let dead : Slot → Bool := fun t => (x.teams[t]).live && p x.teams[t]
  let x := (List.finRange 64).foldl (fun x i =>
    let g := x.groups[i]
    if g.resident && dead g.team && g.atBoundary then x.evict i else x) x
  let stop : Companion → Companion := fun k => if k.running && dead k.team then { k with running := false, block := .free } else k
  let orders := ((List.finRange 64).filter dead).map fun t => (x.teams[t]).order
  { x with
    pool := x.pool.filter fun t => !dead t.team
    bins := x.bins.filter fun b => !dead b.team
    arrq := x.arrq.filter fun a => !dead a.team
    feeder := stop x.feeder
    drain := stop x.drain
    redd := x.redd.map fun l => l.filter fun r => !orders.contains r.order
    teams := x.teams.map fun t => if t.live && p t then
      { t with stages := [], bars := t.bars.map fun b => { b with waiters := [], waves := [] } } else t }

/-- The context of a core's context slot, running or saved. -/
def Core.ctxOf (k : Core) (a : Asid) : Option CtxCore :=
  if k.run = some a then some k.ctx else (k.saved.find? fun x => x.1 == a).map (·.2)
/-- The teams of a core that satisfy p stop, in the running context and in saved ones; their commands leave the journal and
are never replayed. -/
def Core.killTeams (k : Core) (p : Team → Bool) : Core :=
  let gone : Cmd → Bool := fun q => match k.ctxOf q.asid with | some x => (x.teams[q.team]).live && p x.teams[q.team] | none => true
  { k with
    ctx := k.ctx.killTeams p
    saved := k.saved.map fun x => (x.1, x.2.killTeams p)
    journal := k.journal.filter fun q => !gone q }

/-! ## Entries of a ring (R125, R67) -/

/-- Entries of the ring. -/
def Ring.size (r : Ring) : Nat := r.cnt.toNat + 1
/-- Bytes of one entry. -/
def Ring.bytes (r : Ring) : Nat := (r.esz.toNat + 1) * 1024
/-- Place of byte u of entry j. -/
def Ring.place (r : Ring) (j u : Nat) : Nat := permute (entPerm r.entry) (entBase r.entry + j % r.size * r.bytes + u)
/-- The memory a ring is carved from. -/
def Ring.tgt (r : Ring) (c : CoreId) (t : Slot) : MTgt := scratchTgt c t (entSpace r.entry)
/-- Eighths of the array that an operation drives (R299 to R304). -/
def ArrKind.eighths : ArrKind → Nat
  | .mxw _ => 0
  | .mxmm _ _ => 8
  | .mxscan _ => 4
  | .mxepi .. => 1
  | .mxt => 2
/-- The power manager is charged the end of the fired operations of teams that stop (R430), in quarter-amperes. -/
def chargeStops (s : State) (p : Team → Bool) : State :=
  (List.finRange 64).foldl (fun s c =>
    let x := s.cores[c].ctx
    let n := (x.arrq.filter fun a => a.fired && p x.teams[a.team]).foldl (fun n a => n + 16 * a.kind.eighths) 0
    if n = 0 then s else s.modCluster (clusterOf c) fun k => { k with ends := k.ends + n }) s

/-- A free byte laid at each address of a list. -/
def spoil (tgt : MTgt) (l : List Nat) (s : State) : State :=
  l.foldl (fun s a => let (b, s) := s.takeByte; modMemOf s (fun m => putByte tgt m a b) tgt) s
/-- Output entries of the fired operations of teams that stop: undefined (R430). -/
def spoilOutputs (s : State) (p : Team → Bool) : State :=
  (List.finRange 64).foldl (fun s c =>
    (s.cores[c].ctx.arrq.filter fun a => a.fired && p (s.team c a.team)).foldl (fun s a => match a.ringOut with
      | some j =>
        let r := (s.team c a.team).rings[j.toFin]
        spoil (r.tgt c a.team) ((List.range r.bytes).map (r.place a.entOut)) s
      | none => s) s) s

/-- The teams that satisfy p stop on every core (R380, R398). -/
def stopTeams (s : State) (p : Team → Bool) : State :=
  let s := chargeStops (spoilOutputs s p) p
  { s with cores := s.cores.map fun k => k.killTeams p }

end Sys2Proof.Machine
end

