-- ==== Sys2Proof/Machine/Clause.lean ====
section
/-! DEFINITION. Lanes and clauses: the issue set (R40), headers and thresholds (R154, R157), code reads (R194), joins
(R41, R225), the end of a clause (R158), a group's leave (R226). -/

namespace Sys2Proof.Machine
open Sys2Proof

/-! ## Headers -/

/-- CLS of a header. -/
def hdrCls (h : W64) : BitVec 2 := h.extractLsb' 30 2
/-- N of a header. -/
def hdrN (h : W64) : Nat := fieldN h 0 4
/-- BRT of a header. -/
def hdrBrt (h : W64) : Bool := h.getLsbD 29
/-- YLD of a header. -/
def hdrYld (h : W64) : Bool := h.getLsbD 28
/-- SIG is 0xC5 and the reserved bits are zero (R157). -/
def hdrOk (h : W64) : Bool := h.extractLsb' 56 8 == 0xC5 && h.extractLsb' 32 24 == 0
/-- The header after a clause. -/
def nextHeader (pc : W32) (h : W64) : W32 := pc + w32 (8 * (hdrN h + 2))
/-- Instructions outstanding on a counter (R152). -/
def Group.counter (g : Group) (k : Nat) : Nat := (g.out.filter fun o => o.sb.toNat == k).length
/-- The thresholds of R154. -/
def Group.met (g : Group) (h : W64) : Bool :=
  (List.range 6).all fun k => let t := fieldN h (4 * k + 4) 4; t == 15 || g.counter k ≤ t

/-- A word of the code region (R194): through the die L2, under slot 0. Log entry 13. -/
def codeWord (s : State) (c : CoreId) (t : Team) (off : Nat) : Except (Nat × BitVec 8) W64 × State :=
  let va := pitch (LRec.codeBase t.lrec) off
  match translate s c t.asid va .exec 0 with
  | (.error ty, s) => (.error (va, ty), s)
  | (.ok pa, s) =>
    let base := sectorBase pa
    let (x, s) := l2Fetch s (dieOf c) .dram base {} t.asid
    (.ok (BitVec.ofNat 64 (natLE ((List.range 8).map fun i => vat x.data (pa - base + i)))), s)
/-- n words from an offset up. -/
def codeWords (c : CoreId) (t : Team) : State → Nat → Nat → Except (Nat × BitVec 8) (List W64) × State
  | s, _, 0 => (.ok [], s)
  | s, off, n + 1 =>
    match codeWord s c t off with
    | (.error e, s) => (.error e, s)
    | (.ok w, s) =>
      match codeWords c t s (off + 8) n with
      | (.error e, s) => (.error e, s)
      | (.ok ws, s) => (.ok (w :: ws), s)

/-! ## The issue set (R40) -/

/-- Lanes in a state that are not frozen (R395). -/
def Group.lanesIn (g : Group) (st : LaneState) : Mask := maskOf fun l => g.lane[l] == st && !g.frozen.getLsbD l.val
/-- The lowest value of f over a mask. -/
def minOver (m : Mask) (f : Fin 32 → W32) : W32 := (lanesOf m).foldl (fun a l => if (f l).toNat < a.toNat then f l else a) 0xFFFFFFFF
/-- The issue set, and its pc; the set is empty when no lane is a candidate. -/
def Group.issueSet (g : Group) : Mask × W32 :=
  let cand := if g.lanesIn .ready = 0 then g.lanesIn .yielded else g.lanesIn .ready
  let pc := minOver cand fun l => g.pc[l]
  let at' := cand &&& maskOf fun l => g.pc[l] == pc
  let mt := minOver at' fun l => g.meet[l]
  (at' &&& maskOf (fun l => g.meet[l] == mt), pc)

/-! ## Joins (R41, R42, R225) -/

/-- The lanes that have not exited. -/
def Group.liveLanes (g : Group) : Mask := maskOf fun l => g.lane[l] != .exited
/-- MEET of lane k as lane l's join sees it: a frozen lane's sibling that runs the handler has the value it saved (R395,
R396). -/
def Group.meetSeen (g : Group) (l k : Fin 32) : W32 :=
  if g.frozen.getLsbD l.val && g.hlanes.getLsbD k.val then g.savedMeet[k] else g.meet[k]
/-- Every non-exited lane with lane l's meeting value is held at it; a sibling that runs the handler is not. -/
def Group.joined (g : Group) (l : Fin 32) : Bool :=
  allLanes.all fun k => g.lane[k] == .exited || g.meetSeen l k != g.meet[l]
    || (g.lane[k] == .held && !(g.frozen.getLsbD l.val && g.hlanes.getLsbD k.val))
/-- After some lanes have arrived or exited, the held lanes of their meeting points whose siblings are all held are
released: MEET from the recorded register (R42, R225). -/
def Group.releaseHeld (g : Group) (who : Mask) : Group :=
  let free : Fin 32 → Bool := fun l => g.lane[l] == .held && (lanesOf who).any (fun k => g.meetSeen l k == g.meet[l]) && g.joined l
  { g with lane := Vector.ofFn fun l => if free l then .ready else g.lane[l]
           meet := Vector.ofFn fun l => if free l then g.rdV (g.joinReg[l]).toNat l else g.meet[l] }

/-- Handler state ends when its last handler lane has exited (R396); SLEEP and YIELD of the clause that the trap interrupted
take effect. -/
def Group.checkHandlerEnd (g : Group) : Group :=
  if g.handler && g.hlanes &&& g.liveLanes = 0 then
    { g with
      handler := false, hlanes := 0, frozen := 0, young := g.young || g.keptYield
      block := if g.keptSleep = 0 then g.block else .sleeping g.keptSleep
      keptSleep := 0, keptYield := false }
  else g

/-! ## The end of a clause -/

/-- The group after the last instruction of its clause: remaining lanes take the next header; arriving lanes are held
or released; SLEEP and the end of turn take effect. -/
def Group.close (g : Group) (r : Run) (now : Nat) : Group :=
  let next := nextHeader r.pc r.hdr
  let here : Fin 32 → Bool := fun l => r.lanes.getLsbD l.val
  let arr : Fin 32 → Bool := fun l => (r.lanes &&& r.arrive).getLsbD l.val
  let g := { g with
    pc := Vector.ofFn fun l => if here l then next else g.pc[l]
    lane := Vector.ofFn fun l => if arr l then .held else g.lane[l]
    joinReg := Vector.ofFn fun l => if arr l then r.joinReg else g.joinReg[l]
    run := none
    young := hdrYld r.hdr || r.yield
    readyAt := now
    block := if g.sleepReq = 0 then .free else .sleeping g.sleepReq
    sleepReq := 0 }
  (g.releaseHeld (r.lanes &&& r.arrive)).checkHandlerEnd

/-- The entry has accesses or an order that are not performed. -/
def Out.pending (o : Out) : Bool := o.rel.isSome || match o.kind with | .mem .. | .act _ => true | _ => false
/-- Every counter of the group is zero; what names no counter and is not performed still needs its group (log
entry 89). -/
def Group.drained (g : Group) : Bool := g.out.all fun o => o.sb == 7 && !o.pending

/-- A group at a clause boundary leaves its scheduler: every lane has exited and its counters are zero (R226), or its
grid has been stopped (R380, R398); what its teams have begun in that clause stops with it. -/
def leave (s : State) (c : CoreId) (i : Slot) : State :=
  let g := s.grp c i
  if !g.resident || !g.atBoundary then s
  else if gridKilled s (s.team c g.team) then
    let grid := (s.team c g.team).grid
    stopTeams s fun t => t.grid == grid
  else if g.run.isNone && g.liveLanes = 0 && g.drained then
    s.modCtx c fun x => ((x.evict i).flushQuiet g.team).stopIdle g.team
  else if g.liveLanes = 0 then s.modCtx c fun x => (x.flushQuiet g.team).stopIdle g.team
  else s.modCtx c fun x => x.flushQuiet g.team

/-- The clause of a group ends when its last instruction has executed. -/
def settle (s : State) (c : CoreId) (i : Slot) : State :=
  let g := s.grp c i
  match g.run with
  | none => s
  | some r =>
    if r.idx ≤ hdrN r.hdr then s
    else leave (s.modGrp c i fun g => g.close r (s.cycles c)) c i

end Sys2Proof.Machine
end

