-- ==== Sys2Proof/Machine/Barrier.lean ====
section
/-! DEFINITION. Named barriers: the updates of R116, the waits of R118, failure (R121), and the release of waiters at
once or in waves (R119, R428). -/

namespace Sys2Proof.Machine
open Sys2Proof

/-- The 64-bit state of R114. -/
def Bar.word (b : Bar) : W64 :=
  BitVec.ofBool b.err ++ b.ecode ++ b.mode ++ BitVec.ofBool b.phase ++ (0 : BitVec 5) ++ b.pend ++ b.arr ++ b.exp

/-- A barrier of a team. -/
def Team.bar (t : Team) (n : BitVec 7) : Bar := vat t.bars n.toNat
/-- A barrier changed. -/
def State.modBar (s : State) (c : CoreId) (t : Slot) (n : BitVec 7) (f : Bar → Bar) : State :=
  s.modTeam c t fun x => { x with bars := vmod x.bars (Fin.ofNat 96 n.toNat) f }
/-- The team has this barrier (R113). -/
def Team.hasBar (t : Team) (n : BitVec 7) : Bool := n.toNat < LRec.nbars t.lrec

/-- A trap that names a barrier and its state (R397). -/
def barTrap (cause : BitVec 8) (n : BitVec 7) (b : Bar) : Trap :=
  { cause := cause, x1 := n.setWidth 32, x2 := b.word.setWidth 32, x3 := (b.word >>> 32).setWidth 32 }
/-- BAR_RANGE. -/
def barRange (n : BitVec 7) : Trap := { cause := 0x10, x1 := n.setWidth 32 }
/-- ASYNC_FAULT of a failed barrier (R281). -/
def barAsync (n : BitVec 7) (b : Bar) : Trap := { cause := 0x1C, x1 := n.setWidth 32, x2 := b.ecode.setWidth 32, x3 := b.flog }

/-! ## Updates (R116) -/

/-- An update of a barrier. -/
inductive BarUpd where
  | arrive (k : BitVec 12) (x : BitVec 24)
  | issue (y : Nat)
  | deliver (y : Nat)
  | fail (code : BitVec 7) (flog : W32)
  deriving DecidableEq, Repr

/-- Fail(b, c), with the index of the fault-log record where there is one. -/
def Bar.fail (b : Bar) (c : BitVec 7) (k : W32 := 0) : Bar := { b with err := true, ecode := c, flog := k }
/-- The phase completes. -/
def Bar.complete (b : Bar) : Bar :=
  if !b.err && b.mode != 2 && b.arr == b.exp && b.pend == 0 then { b with phase := !b.phase, arr := 0 } else b
/-- One update; a frozen barrier discards it. -/
def Bar.update (b : Bar) (u : BarUpd) : Bar :=
  if b.err then b
  else Bar.complete <| match u with
    | .arrive k x =>
      if b.mode = 2 then
        if b.exp.toNat < b.arr.toNat + k.toNat then b.fail 0x05 else { b with arr := b.arr + k }
      else if b.exp.toNat < b.arr.toNat + k.toNat then b.fail 0x01
      else if 2 ^ 24 ≤ b.pend.toNat + x.toNat then b.fail 0x02
      else { b with arr := b.arr + k, pend := b.pend + x }
    | .issue y => if 2 ^ 24 ≤ b.pend.toNat + y then b.fail 0x02 else { b with pend := b.pend + BitVec.ofNat 24 y }
    | .deliver y => { b with pend := BitVec.ofNat 24 (b.pend.toNat - y) }        -- never below 0
    | .fail c k => b.fail c k

/-! ## Waits (R118) -/

/-- The need of a waiter is met; for a count, when it is first in line. -/
def Bar.meets (b : Bar) : BarNeed → Bool
  | .phase p => b.phase != p
  | .thr t p => t.toNat ≤ b.arr.toNat || b.phase != p
  | .count k => k.toNat ≤ b.arr.toNat
/-- The form suits MODE. -/
def Bar.suits (b : Bar) : BarNeed → Bool
  | .phase _ | .thr _ _ => b.mode.toNat ≤ 1
  | .count _ => b.mode == 2
/-- A satisfied wait's effect. -/
def Bar.take (b : Bar) : BarNeed → Bar
  | .count k => { b with arr := b.arr - k }
  | _ => b
/-- Count waiters served in parking order. -/
def Bar.serveCounts : Bar → List (Waiter × BarNeed) → Bar × List Waiter
  | b, [] => ({ b with waiters := [] }, [])
  | b, (w, n) :: r =>
    if b.meets n then
      let (b', ws) := Bar.serveCounts (b.take n) r
      (b', w :: ws)
    else ({ b with waiters := (w, n) :: r }, [])
/-- The waiters that a barrier's new state satisfies. -/
def Bar.serve (b : Bar) : Bar × List Waiter :=
  if b.mode = 2 then b.serveCounts b.waiters
  else ({ b with waiters := b.waiters.filter fun w => !b.meets w.2 }, (b.waiters.filter fun w => b.meets w.2).map (·.1))

/-- What a wait comes to when it is checked. -/
inductive BarCheck where
  | mode | failed | met (b : Bar) | park
  deriving DecidableEq, Repr

/-- A wait checked at a barrier: mode first, then ERR, then its condition; a later count waiter does not overtake. -/
def Bar.check (b : Bar) (n : BarNeed) : BarCheck :=
  if !b.suits n then .mode
  else if b.err then .failed
  else if n == .count 0 then .met b
  else if b.meets n && (b.mode != 2 || b.waiters.isEmpty) then .met (b.take n)
  else .park

/-! ## Waking -/

/-- A waiter may finish its wait. -/
def wake (s : State) (c : CoreId) : Waiter → State
  | .grp i => s.modGrp c i fun g => { g with block := .released 0 }
  | .comp r => s.modComp c r fun k => { k with block := .released 0 }
/-- A waiter learns that its barrier failed. -/
def wakeFailed (n : BitVec 7) (b : Bar) (c : CoreId) (s : State) : Waiter → State
  | .grp i => s.modGrp c i fun g => { g with block := .failed (n.setWidth 32) (b.ecode.setWidth 32) b.flog }
  | .comp r => s.modComp c r fun k => { k with block := .failed (n.setWidth 32) (b.ecode.setWidth 32) b.flog }

/-- Companion waiters first, then groups by scheduler and resident order (R119). -/
def waveOrder (x : CtxCore) (ws : List Waiter) : List Waiter :=
  ws.filter (fun w => match w with | .comp _ => true | _ => false)
    ++ (List.finRange 4).flatMap fun k => ((x.order[k]).map Waiter.grp).filter fun w => ws.contains w
/-- The highest intensity of an open window of the running context. -/
def openIntensity (x : CtxCore) (now : Nat) : Nat :=
  (x.hints.filter fun w => w.opens ≤ now && now < w.ends).foldl (fun m w => max m w.int) 0
/-- Groups of one wave under an intensity (R428). -/
def waveSize (s : State) (c : CoreId) (i : Nat) : Nat := max 4 ((s.hub.clusters[clusterOf c]).isl.toNat / i)
/-- A wave's groups woken; each is charged I/4 A to its cluster (R424), counted in quarters. -/
def wakeWave (s : State) (c : CoreId) (i : Nat) (ws : List Waiter) : State :=
  (ws.foldl (fun s w => wake s c w) s).modCluster (clusterOf c) fun k => { k with waveA := k.waveA + i * (ws.filter fun w => match w with | .grp _ => true | _ => false).length }

/-- An update applied to a barrier of a team, and the waiters it frees or fails. -/
def updateBar (s : State) (c : CoreId) (t : Slot) (n : BitVec 7) (u : BarUpd) : State :=
  let tm := s.team c t
  let b := tm.bar n
  if b.err then s
  else
    let b' := b.update u
    if b'.err then
      b.waiters.foldl (fun s w => wakeFailed n b' c s w.1) (s.modBar c t n fun _ => { b' with waiters := [] })
    else
      let (b'', free) := b'.serve
      let x := s.cores[c].ctx
      let free := if b.mode = 2 then free else waveOrder x free
      let grps := free.filter fun w => match w with | .grp _ => true | _ => false
      let i := openIntensity x (s.cycles c)
      if b'.phase != b.phase && 4 < grps.length && 2 < i && !x.det then
        let first := free.take (free.length - grps.length + waveSize s c i)
        wakeWave (s.modBar c t n fun _ => { b'' with
          waves := b''.waves ++ free.drop first.length, waveN := waveSize s c i, waveI := i, waveAt := s.cycles c / 64 }) c i first
      else free.foldl (fun s w => wake s c w) (s.modBar c t n fun _ => b'')

end Sys2Proof.Machine
end

