-- ==== Sys2Proof/Machine/Ops.lean ====
section
/-! DEFINITION. The shared operations of group instructions: the checks of an issue (R192, R153, R155, R255),
retirement bookkeeping, outstanding accesses (R161), taking a trap (R395) and the fault of a context (R398). -/

namespace Sys2Proof.Machine
open Sys2Proof

/-! ## Killing grids (R380, R398) -/

/-- Grids launched by grids of a list, and theirs, to the nesting depth of R34. -/
def withChildren (gs : List Grid) : Nat → List Nat → List Nat
  | 0, ids => ids
  | n + 1, ids => withChildren gs n (ids ++ (gs.filter fun g => g.parent.isSome && ids.contains g.pgrid && !ids.contains g.id).map (·.id))

/-- Teams of a grid that wait on the cores. -/
def queuedTeams (s : State) (id : Nat) : Nat :=
  (s.cores.toList.map fun k => (k.queued.filter fun q => q.grid == id).length).sum
/-- A grid that stops: its teams that wait are gone, and with no team left on a core it is done. -/
def Grid.stop (g : Grid) (waiting : Nat) : Grid :=
  { g with killed := true, retired := g.retired + waiting, done := g.done || g.retired + waiting == g.next }
/-- Grids stopped, with their child grids: no more teams of them start and their groups stop (R380, R398). -/
def killGrids (s : State) (ids : List Nat) : State :=
  let ids := withChildren s.hub.grids 17 ids
  let p : Team → Bool := fun t => ids.contains t.grid
  let s := s.modHub fun h => { h with grids := h.grids.map fun g => if ids.contains g.id then g.stop (queuedTeams s g.id) else g }
  let s := unstage (stopTeams s p) fun o => ids.contains o.1
  { s with cores := s.cores.map fun k => { k with queued := k.queued.filter fun q => !ids.contains q.grid } }

/-- The first fault of a command: one that binds its grid already, or the one of the context (R378, R459). -/
def commandFault (s : State) (c : Command) (cause k : W32) : W32 × W32 :=
  match (c.grid.bind s.grid?).bind fun g => firstFault g.faults with
  | some f => (f.cause.setWidth 32, f.flog)
  | none => (cause, k)
/-- What a context's fault does once its record k is entered (R398): started commands end, grids stop. -/
def contextEnd (s : State) (asid : Asid) (status : BitVec 8) (cause k : W32) : State :=
  let s := (s.hub.cmds.filter fun c => c.asid == asid && c.state == 2).foldl (fun s c =>
    let (x, n) := commandFault s c cause k
    endCommand s c.seq 4 status x n) s
  killGrids s ((s.hub.grids.filter fun g => g.asid == asid && !g.done).map (·.id))

/-- A context faults (R398): the record, its started commands, its grids. -/
def contextFault (s : State) (asid : Asid) (status : BitVec 8) (r : LogRec) : State :=
  let (k, s) := faultLog s asid r
  contextEnd s asid status (w32 r.cause) k

/-- A core that runs a context starts to stop it (R50). -/
def stopCore (asid : Asid) (k : Core) : Core :=
  if k.run = some asid && k.stopping = .no then { k with stopping := .groups } else k

/-- The command whose launch a grid belongs to: its own, or that of the grid at the root of its parents (R34). -/
def commandOf (s : State) : Nat → Nat → Option W64
  | 0, _ => none
  | n + 1, id => match s.grid? id with
    | none => none
    | some g => match g.cmd with
      | some q => some q
      | none => commandOf s n g.pgrid
/-- A stop of a context for a debugger (R399): every core that runs it stops as for a pre-emption, and the vector of the
queue that accepted the command is raised. -/
def debugStop (s : State) (asid : Asid) (grid : Nat) : State :=
  let s := s.modCtxRec asid fun c => { c with debug := true }
  let s := { s with cores := s.cores.map (stopCore asid) }
  match (commandOf s 17 grid).bind s.cmd? with
  | some c => raiseMsi s (s.hub.queues[c.queue]).vec
  | none => s

/-- Who a group is, for a fault-log record. -/
def groupRec (s : State) (c : CoreId) (idx : Slot) (kind cause : Nat) (info : Nat) : LogRec :=
  let g := s.grp c idx
  let r := g.run
  { kind := kind, cause := cause, info := info, hdr := (r.map fun r => r.pc.toNat).getD 0
    cidx := (r.map (·.idx)).getD 0, gid := g.gid.toNat, core := c.val, team := Team.linear (s.team c g.team) }

/-! ## Taking a trap (R395) and leaving handler state (R396) -/

/-- Resumption and cause registers of a trap (R159, R395). -/
def Group.trapRegs (g : Group) (pc : W32) (idx : Nat) (lanes : Mask) (t : Trap) : Group :=
  { g with
    xpc := pc
    xcidx := 0x80000000 ||| w32 idx
    xissue := lanes
    xcause := t.cause.setWidth 32
    xinfo := #v[match t.lane with | some l => w32 (32 + l.val) | none => 0, t.x1, t.x2, t.x3] }

/-- The group enters handler state (R395 step 4); with no lane left in the clause there is no handler lane and handler
state ends at once. Log entry 11. -/
def Group.enterHandler (g : Group) (lanes : Mask) (entry : W32) (now : Nat) : Group :=
  let g := { g with
    run := none, resume := none, cap := none, waitKids := none, readyAt := now
    -- a sleep goes on (R228); SLEEP and YIELD of the interrupted clause are kept for its end (R159)
    block := match g.block with | .sleeping k => .sleeping k | _ => .free
    keptSleep := max g.sleepReq g.keptSleep, sleepReq := 0
    keptYield := (g.run.map (·.yield)).getD false || g.keptYield }
  if lanes = 0 then g
  else
    let on : Fin 32 → Bool := fun l => lanes.getLsbD l.val
    { g with
      handler := true
      hlanes := lanes
      frozen := g.liveLanes &&& ~~~lanes
      savedMeet := g.meet
      meet := Vector.ofFn fun l => if on l then 0xFFFFFFFF else g.meet[l]
      pc := Vector.ofFn fun l => if on l then entry else g.pc[l]
      lane := Vector.ofFn fun l => if on l then .ready else g.lane[l] }

/-- An eviction-error record that a POISON_DEFERRED has delivered is not delivered again (R403). -/
def dropDeferred (s : State) (asid : Asid) (k : W32) : State :=
  s.modCtxRec asid fun c => { c with deferL2 := c.deferL2.filter (· != k), deferMsc := c.deferMsc.filter (· != k) }

/-- Issue waits for the answer to a fault-ring entry (R392). -/
def awaitFault (s : State) (c : CoreId) (i : Slot) (va : Nat) (ty : BitVec 8) (kind : BitVec 4) : State :=
  let (id, s) := ringFault s c i 0 (s.team c (s.grp c i).team).asid va ty kind
  s.modGrp c i fun g => { g with fetch := some id }

/-- At the end of its clause, or at a wait, a group whose hang action has waited for it faults its context (R56). -/
def hangEnd (s : State) (c : CoreId) (i : Slot) : State :=
  let g := s.grp c i
  if g.resident && g.hangAct = 2 && g.atBoundary then
    contextEnd (s.modGrp c i fun g => { g with hangAct := 0 }) (s.team c g.team).asid 0x11 0x44 g.hangLog
  else s

/-- A trap taken by a group at instruction idx of the clause at pc with some lanes still in it (R395). -/
def takeTrap (s : State) (c : CoreId) (i : Slot) (pc : W32) (idx : Nat) (lanes : Mask) (t : Trap) : State :=
  let g := s.grp c i
  let tm := s.team c g.team
  let s := if t.cause = 0x1D || t.cause = 0x1E then s.modCore c fun k => { k with poisonc := if k.poisonc = 0xFFFFFFFF then k.poisonc else k.poisonc + 1 } else s
  let s := if t.cause = 0x1E then dropDeferred s tm.asid t.x1 else s
  let s := s.modCtx c fun x => { x with waits := x.waits.filter fun w => w.idx != i }
  let close : Group → Group := fun g => { g with run := none }
  let layout := 0x08 ≤ t.cause.toNat && t.cause.toNat ≤ 0x0B
  let fault : Nat → LogRec := fun kind => { groupRec s c i kind t.cause.toNat (trapInfo t) with
    hdr := pc.toNat, cidx := idx, lh := if layout then t.x1.toNat % 64 else 0 }
  if g.handler then
    contextFault (s.modGrp c i close) tm.asid 0x10 (fault 7)
  else
    let s := s.modGrp c i fun g => g.trapRegs pc idx lanes t
    if t.cause = 0x31 && (s.ctxRec tm.asid).desc.getLsbD 145 then
      debugStop (s.modGrp c i fun g => { g with run := none, resume := some (pc, idx, lanes) }) tm.asid tm.grid
    else if LRec.handler tm.lrec = 0xFFFFFFFF then
      contextFault (s.modGrp c i close) tm.asid 0x10 (fault 6)
    else hangEnd (s.modGrp c i fun g => g.enterHandler lanes (LRec.handler tm.lrec) (s.cycles c)) c i

/-! ## Outstanding accesses (R73, R88, R89, R153, R161, R254) -/

/-- Poison events of a group entered in its context's log; those that bind are kept for its grid (R255, R459). -/
def poisonEvents (s : State) (c : CoreId) (i : Slot) (ev : List Bool) : State :=
  let t := s.team c (s.grp c i).team
  ev.foldl (fun s b =>
    let (k, s) := faultLog s t.asid (groupRec s c i 10 0x1D 0)
    if b then bindFault s t.grid 0x1D k else s) s

/-- An outstanding entry of a group changed. -/
def modOut (s : State) (c : CoreId) (i : Slot) (n : Nat) (f : Out → Out) : State :=
  s.modGrp c i fun g => { g with out := modAt f n g.out }

/-- Accesses after a request: those whose bytes have all moved give their results; with none left the entry is done. -/
def Out.gather (o : Out) (accs : List Acc) (ws : List RegWrite) : Out :=
  let rest := accs.filter fun a => !a.whole
  { o with writes := o.writes ++ ws ++ (accs.filter Acc.whole).flatMap Acc.result
           kind := if rest.isEmpty then .done else .mem rest }

/-- A request that could not be made: its bytes wait for a ring entry (R392), or its home refuses them and the context
faults (R389). -/
def reqStopped (s : State) (c : CoreId) (i : Slot) (n : Nat) (o : Out) (accs : List Acc) (parts : List (Acc × List Nat)) (f : AccFail) :
    State :=
  let t := s.team c (s.grp c i).team
  let mark : (Acc → List Nat → Acc) → List Acc := fun f => accs.map fun a =>
    match parts.find? fun x => x.1.lane == a.lane with
    | some x => f a x.2
    | none => a
  match f with
  | .page va ty =>
    let kind := match parts with | x :: _ => accKind x.1.op | [] => 0
    let (id, s) := ringFault s c i 0 t.asid va ty kind
    modOut s c i n fun o => { o with kind := .mem (mark fun a is => { a with wait := a.wait ++ is.map fun j => (j, id) }) }
  | .remote node =>
    let s := modOut s c i n fun o => { o with kind := .mem (mark fun a _ => { a with lost := true }) }
    let lh := match parts with | x :: _ => x.1.lh.toNat | [] => 0
    contextFault s t.asid 0x10 { groupRec s c i 9 0x42 0 with node := node, lh := lh, hdr := o.pc.toNat, cidx := o.idx }

/-- One request of an outstanding entry made: every byte of a line for every lane that touches it, at one moment (R73), or
one lane's access. -/
def performReq (c : CoreId) (i : Slot) (n : Nat) (s : State) (q : Req) : State :=
  let t := s.team c (s.grp c i).team
  match (s.grp c i).out[n]? with
  | none => s
  | some o =>
    match o.kind with
    | .mem accs =>
      match (accs.map fun a => (a, a.part s c i q)).filter (!·.2.isEmpty) with
      | [] => s
      | (a, is) :: r =>
        let parts := (a, is) :: r
        match q with
        | .line _ =>
          let isStore := match a.op with | .store .. => true | _ => false
          match resolveAll s c t.asid a.entry (if isStore then .write else .read) true
              (parts.flatMap fun x => x.2.map (x.1.place s c i)) with
          | (.error f, s) => reqStopped s c i n o accs parts f
          | (.ok ps, s) =>
            let (moved, s) := if isStore then
                (parts.map fun x => { x.1 with got := x.1.got ++ x.2.map fun j => (j, 0, false) }, storeLine s c i o.epoch parts ps)
              else loadLine s c i parts ps
            modOut s c i n fun o => o.gather (accs.map fun a => (moved.find? fun b => b.lane == a.lane).getD a) []
        | .lane _ =>
          match performAcc s c i a with
          | .fail f s => reqStopped s c i n o accs parts f
          | .ok ws e s => modOut (poisonEvents s c i e.toList) c i n fun o => o.gather (accs.filter fun b => b.lane != a.lane) ws
    | _ => s

/-- Keyed in deterministic mode (R270): GRP, TEAM and DIE scope and every atomic on SHARED. -/
def keyedAcc (a : Acc) : Bool :=
  match a.op with
  | .atom _ sco _ _ => sco.toNat ≤ 2 && entSpace a.entry != spHost || entSpace a.entry == spShared
  | _ => false
/-- A keyed operation that has not been performed. -/
def Out.keyed (o : Out) : Bool :=
  o.rmw && match o.kind with | .mem accs => accs.any keyedAcc | _ => false

/-- Every team of a grid has closed step n. -/
def Grid.allClosed (g : Grid) (n : W32) : Bool := g.closed.any fun x => x.1 == n && LRec.teams g.lrec ≤ x.2
/-- The grid remembers that one more team has closed step n; with the last one the package sends its notice (R412). -/
def noteClose (s : State) (grid : Nat) (n : W32) : State :=
  let s := s.modGrid grid fun g =>
    let l := if g.closed.any (fun c => c.1 == n) then g.closed.map (fun c => if c.1 = n then (n, c.2 + 1) else c)
      else g.closed ++ [(n, 1)]
    { g with closed := l }
  if (s.grid? grid).any (·.allClosed n) then s.modHub fun h => { h with closeOut := (grid, n) :: h.closeOut } else s

/-- What an instruction does when its order lets it. -/
def runAct (s : State) (c : CoreId) (t : Slot) : Act → State
  | .fence => s
  | .arrive bar k x => if k = 0 && x = 0 then s else updateBar s c t bar (.arrive k x)
  | .flush pos => drainContribs s c (fun _ => true) pos
  | .close n => noteClose s (s.team c t).grid n

/-- An optional release, then an optional acquire, by a context on a core (R95). -/
def relWork (s : State) (c : CoreId) (asid : Asid) (sc : Option (BitVec 3)) : State :=
  match sc with | some x => releaseWork s c asid x | none => s
def acqWork (s : State) (c : CoreId) (sc : Option (BitVec 3)) : State :=
  match sc with | some x => acquireWork s c x | none => s

/-- The engine operation of a fork may start (R100). -/
def unfork (s : State) (c : CoreId) : OutKind → State
  | .copy seq => s.modCore c fun k => { k with journal := k.journal.map fun q => if q.seq = seq then { q with held := false } else q }
  | .array id => s.modCtx c fun x => { x with arrq := x.arrq.map fun a => if a.id = id then { a with held := false } else a }
  | _ => s

/-- The entry's order part belongs to a fork: it holds nothing that follows. -/
def Out.forks (o : Out) : Bool := match o.kind with | .copy _ | .array _ => true | _ => false
/-- Some access of the entry reads memory. -/
def Out.reads (o : Out) : Bool :=
  match o.kind with
  | .mem accs => accs.any fun a => match a.op with | .load .. | .loadRow .. | .atom .. | .child .. => true | _ => false
  | _ => false
/-- The entry writes, as R88 counts writes. -/
def Out.isWrite (o : Out) : Bool :=
  match o.kind with
  | .mem accs => accs.any fun a => match a.op with | .store .. | .atom .. | .redd .. | .child .. => true | _ => false
  | .act .fence => false
  | .act _ => true
  | _ => false
/-- An acquire of the group has not completed: it holds every later access (R89, R254). -/
def Group.acqPending (g : Group) : Bool := g.out.any (·.acq.isSome)
/-- A release of the group has not completed: it holds every later write (R88, R254). -/
def Group.relPending (g : Group) : Bool := g.out.any fun o => o.rel.isSome && !o.forks
/-- The group has accesses or orders that are not performed. -/
def Group.memPending (g : Group) : Bool := g.out.any Out.pending

/-- A contribution issued before a position has not entered its buffer. -/
def reddBefore (s : State) (c : CoreId) (pos : Nat) : Bool :=
  (s.cores[c].ctx.groups).toList.any fun g => g.resident && g.out.any fun o => match o.kind with
    | .mem accs => accs.any fun a => match a.op with | .redd _ _ _ _ p _ => p < pos | _ => false
    | _ => false

/-- The order of its group lets entry n go on (R88, R89, R254): its release when everything before it is performed; else its
accesses, when no earlier acquire and, for a write, no earlier release stands open. -/
def entryMay (s : State) (c : CoreId) (i : Slot) (n : Nat) (o : Out) : Bool :=
  let before := (s.grp c i).out.take n
  if o.rel.isSome then before.all (!·.pending)
  else before.all (·.acq.isNone) && (!o.isWrite || before.all fun p => p.rel.isNone || p.forks)
    && (match o.kind with
      | .act .fence => o.acq.isNone || before.all (!·.reads)
      | .act (.flush pos) => !reddBefore s c pos
      | _ => true)

/-- Offsets of an access that have not moved. -/
def Acc.unmoved (a : Acc) : List Nat := (List.range a.size).filter fun i => !a.got.any (·.1 == i)
/-- Two virtual places are one byte: alike, or translated to one place. -/
def sameByte (s : State) (c : CoreId) (asid : Asid) (e f : Ent) (v w : VPlace) : Bool :=
  v == w || match (resolve s c asid e .read false v).1, (resolve s c asid f .read false w).1 with
    | .ok p, .ok q => p == q
    | _, _ => false
/-- An access stands behind an earlier one: they share a byte (a line, for CCTL), and they are of one lane or one of them
writes (R86, R87; log entry 92). -/
def Acc.behind (s : State) (c : CoreId) (i : Slot) (a b : Acc) (is : List Nat) : Bool :=
  let asid := (s.team c (s.grp c i).team).asid
  let writes : Acc → Bool := fun a => match a.op with | .load .. | .loadRow .. | .child .. => false | _ => true
  let whole := (match a.op with | .cctl _ => true | _ => false) || (match b.op with | .cctl _ => true | _ => false)
  let at' : Acc → Nat → VPlace := fun x j => let v := x.place s c i j; if whole then v.line else v
  (a.lane == b.lane || writes a || writes b)
    && is.any fun j => b.unmoved.any fun k => sameByte s c asid a.entry b.entry (at' a j) (at' b k)
/-- No byte of a request waits for an earlier entry of its group. -/
def reqClear (s : State) (c : CoreId) (i : Slot) (n : Nat) (accs : List Acc) (q : Req) : Bool :=
  ((s.grp c i).out.take n).all fun o => match o.kind with
    | .mem early => accs.all fun a => let is := a.part s c i q; is.isEmpty || early.all fun b => !Acc.behind s c i a b is
    | _ => true

/-- Requests of entry n made in turn, each where no earlier entry holds it. -/
def runReqs (c : CoreId) (i : Slot) (n : Nat) (s : State) (qs : List Req) : State :=
  qs.foldl (fun s q => match (s.grp c i).out[n]? with
    | some o => (match o.kind with
      | .mem accs => if reqClear s c i n accs q then performReq c i n s q else s
      | _ => s)
    | none => s) s
/-- The acquire part of an entry whose accesses are all performed. -/
def endOut (s : State) (c : CoreId) (i : Slot) (n : Nat) : State :=
  match (s.grp c i).out[n]? with
  | some o => if o.kind == .done && o.acq.isSome then modOut (acqWork s c o.acq) c i n fun o => { o with acq := none } else s
  | none => s

/-- An outstanding entry goes as far as its order lets it: its release part, its accesses (those that pick selects), its
acquire part. key: keyed atomics too, whose turn has come in deterministic mode (R270). -/
def runOut (s : State) (c : CoreId) (i : Slot) (n : Nat) (key : Bool) (pick : List Req → List Req) : State :=
  let g := s.grp c i
  match g.out[n]? with
  | none => s
  | some o =>
    if !o.pending || !entryMay s c i n o then s
    else
      let s := modOut (unfork (relWork s c (s.team c g.team).asid o.rel) c o.kind) c i n fun o => { o with rel := none }
      match o.kind with
      | .mem accs => if s.det c && o.keyed && !key then s else endOut (runReqs c i n s (pick (requests s c i accs))) c i n
      | .act a => endOut (runAct (modOut s c i n fun o => { o with kind := .done }) c g.team a) c i n
      | _ => s
/-- Every outstanding entry of a group goes on, in issue order. -/
def runMem (s : State) (c : CoreId) (i : Slot) : State :=
  (List.range (s.grp c i).out.length).foldl (fun s n => runOut s c i n false id) s
/-- One request of one entry made by itself, in whatever order the memory pipeline takes them (R85, R254). -/
def performOne (s : State) (c : CoreId) (i : Slot) (n k : Nat) : State :=
  runOut s c i n false fun l => (l.drop k).take 1

/-! ## Spill and fill (R150) -/

/-- Spill offset of a register of a lane. -/
def spillOffset (c : CoreId) (i : Slot) (nv n : Nat) (l : Fin 32) : Nat :=
  (c.val * 64 + i.val) * 32 * 4 * nv + n * 128 + l.val * 4
/-- The lowest-numbered slot bound to a context, or slot 0 (R422). -/
def ownKey (s : State) (asid : Asid) : KeyRef :=
  match (List.finRange 1024).find? fun k => k != 0 && (s.hub.kslots[k]).state == 1 && (s.hub.kslots[k]).asid == asid with
  | some k => ⟨BitVec.ofNat 10 k.val, (s.hub.kslots[k]).gen⟩
  | none => {}
/-- The 128 places of one spilled register, or the faulting address. -/
def spillPlaces (s : State) (c : CoreId) (i : Slot) (t : Team) (n : Nat) (need : Need) :
    Except (Nat × BitVec 8) (List PLoc) × State :=
  let bytes := (List.range 128).map fun b =>
    pitch (LRec.spillBase t.lrec) (spillOffset c i (LRec.nv t.lrec) n (Fin.ofNat 32 (b / 4)) + b % 4)
  bytes.reverse.foldl (fun (r : Except (Nat × BitVec 8) (List PLoc) × State) va =>
    match r.1 with
    | .error e => (.error e, r.2)
    | .ok ps =>
      let (x, s) := translate r.2 c t.asid va need 0
      (match x with | .ok pa => .ok (⟨.dram, pa⟩ :: ps) | .error ty => .error (va, ty), s)) (.ok [], s)
/-- A live register stored to the spill area, through L1 and L2; a page fault leaves the spill outstanding (R150). -/
def spillStore (s : State) (c : CoreId) (i : Slot) (n : BitVec 8) : State :=
  let g := s.grp c i
  let t := s.team c g.team
  if g.spilled.getLsbD n.toNat || !g.mapped.getLsbD n.toNat || LRec.nv t.lrec ≤ n.toNat then s
  else
    match spillPlaces s c i t n.toNat .write with
    | (.error (va, ty), s) =>
      let (id, s) := ringFault s c i 0 t.asid va ty 4
      s.modGrp c i fun g => { g with spills := g.spills ++ [(n, id)] }
    | (.ok ps, s) =>
      let bs := allLanes.flatMap fun l => bytesLE 4 (g.rdV n.toNat l).toNat
      let key := ownKey s t.asid
      let s := writeBytes (fun s x => coreStore s c { x with owner := t.asid, key := key, team := t.order + 1 }) s ps bs
      s.modGrp c i fun g => { g with spilled := setBit g.spilled n.toNat true }

/-- Set bits of a mask of registers. -/
def bitCount (m : BitVec 256) : Nat := ((List.range 256).filter fun k => m.getLsbD k).length
/-- Vector slots that a group takes: its reservation and its live registers that are not spilled (R149). -/
def Group.slots (na : Nat) (g : Group) : Nat := 8 * na + 8 + bitCount (g.mapped &&& ~~~g.spilled)
/-- Free slots of the register file of a core. -/
def freeSlots (s : State) (c : CoreId) : Nat :=
  8192 - (((s.cores[c].ctx.groups).toList.filter (·.resident)).map fun g => g.slots (LRec.na (s.team c g.team).lrec)).sum
/-- Some group of the pending sets has a register to spill. -/
def pendingHolds (s : State) (c : CoreId) : Bool :=
  (s.cores[c].ctx.groups).toList.any fun g => g.resident && !g.active && (g.mapped &&& ~~~g.spilled) != 0
/-- A spill of the core's choice: only when no slot is free, and from the pending sets first (R149). -/
def spillReg (s : State) (c : CoreId) (i : Slot) (n : BitVec 8) : State :=
  let g := s.grp c i
  if !g.resident || freeSlots s c != 0 || (g.active && pendingHolds s c) || g.spills.any (·.1 == n) then s
  else spillStore s c i n
/-- A spilled register filled back into a free slot. -/
def fillReg (s : State) (c : CoreId) (i : Slot) (n : Nat) : State :=
  let g := s.grp c i
  let t := s.team c g.team
  if freeSlots s c = 0 then s
  else
    match spillPlaces s c i t n .read with
    | (.error (va, ty), s) => awaitFault s c i va ty 4
    | (.ok ps, s) =>
      let key := ownKey s t.asid
      let ((bs, _), s) := readBytes (fun s t' b => loadSector s c 0 t' b key t.asid (t.order + 1)) s none ps
      s.modGrp c i fun g =>
        { g with v := vset g.v (Fin.ofNat 256 n) (Vector.ofFn fun l => wordLE ((bs.drop (4 * l.val)).take 4))
                 spilled := setBit g.spilled n false }

/-! ## Issue -/

/-- The CLS bit an instruction's class needs: bit 0 memory, atomics and synchronisation; bit 1 engines (R158). -/
def clauseUnit : Instr → BitVec 2
  | .ld _ | .st _ | .ldu _ | .stu _ | .ldf _ | .stf _ | .pref _ | .cctl _ | .ltsub _ | .ltsubInv _ | .ltqry _ => 1
  | .atom _ | .atomf _ | .cas _ | .red _ | .redf _ | .redd _ | .redflush _ | .ffill _ | .fwait _ | .freset _
  | .waita _ => 1
  | .bari _ | .bara _ | .barw _ | .bars _ | .barq _ | .fence _ | .pfence _ | .psync _ | .stepClose _ | .snap _ => 1
  | .qmma _ | .qmmb _ | .qzero _ | .qmov _ | .mxcfg _ | .mxw _ | .mxmm _ | .mxscan _ | .mxepi _ | .mxt _ | .rgset _
  | .rgsetClr _ | .rgput _ | .rgget _ | .rgqry _ => 2
  | .cpt _ | .cpg _ | .cps _ | .cpf _ | .cpr _ | .cpput _ | .cpget _ | .cpc _ | .cpq _ | .tspawn _ | .tchild _
  | .twait _ | .targ _ | .stage _ => 2
  | _ => 0

/-- An encoding trap names the word (R397). -/
def wordTrap (cause : BitVec 8) (w : W64) : Trap :=
  { cause := cause, x1 := w.setWidth 32, x2 := (w >>> 32).setWidth 32 }

/-- The lane SHFL reads for lane l (R213), or none when it falls outside its segment. -/
def shflSource (x : FmtR) (g : Group) (l : Fin 32) : Option (Fin 32) :=
  let w := 2 ^ (hiSco x.h).toNat
  let j := l.val % w
  let mode : Nat := x.lo.b23.toNat * 2 + x.lo.b22.toNat
  let b : W32 := if x.h.getLsbD 3 then
      (if mode = 2 then (x.b.extractLsb' 0 6).signExtend 32 else (x.b.extractLsb' 0 6).setWidth 32)
    else g.rdV x.b.toNat l
  let k : Int := match mode with
    | 0 => ((b.toNat % w : Nat) : Int)
    | 1 => (((j + b.toNat) % w : Nat) : Int)
    | 2 => (j : Int) + b.toInt
    | _ => ((j ^^^ (b.toNat % w) : Nat) : Int)
  if 0 ≤ k && k < w then some (Fin.ofNat 32 (l.val - j + k.toNat)) else none

/-- The lanes of a poison check: those whose register a use reads (R255). Instructions that read other lanes name
them; for the rest they are the acting lanes. -/
def readLanes (i : Instr) (h : Hd) (g : Group) (r : Run) (u : RegUse) : Mask :=
  let a := acting h g r
  match i with
  | .shfl x =>
    let src := (lanesOf a).foldl (fun m l => m ||| bitOf 32 ((shflSource x g l).getD l).val) 0
    if u.num = x.b && !x.h.getLsbD 3 then (if x.b = x.a then a ||| src else a) else src
  | .bcst x =>
    if a = 0 then 0
    else if x.lo.b22 then bitOf 32 ((lowLane a).getD 0).val
    else if x.lo.b23 then bitOf 32 ((highLane a).getD 0).val
    else bitOf 32 (x.b.toNat % 32)
  | .v2s x => if a = 0 then 0 else if x.lo.b22 then bitOf 32 ((lowLane r.lanes).getD 0).val else bitOf 32 (x.b.toNat % 32)
  | .redux _ | .fredux _ => takingLanes h g r
  | .qmma _ | .qmmb _ => if u.cls == .a then a
      else maskOf fun l => (List.range 8).any fun i => a.getLsbD (8 * (l.val / 8) + i)
  | _ => a

/-- PREF takes no trap as it executes (R63, R261). -/
def neverTraps : Instr → Bool
  | .pref _ => true
  | _ => false
/-- The first poisoned register read: lowest lane, then operand order (R255). -/
def poisonRead (lanes : RegUse → Mask) (regs : List RegUse) (g : Group) : Option Trap :=
  let runs := (regs.filter fun u => u.rd).flatMap fun u => (List.range u.len).map fun k => (u.cls, u.num.toNat + k, lanes u)
  let mark : Cls × Nat × Mask → Mask := fun (c, n, m) =>
    match c with
    | .v => vat g.pv n &&& m
    | .a => vat g.pa n &&& m
    | .s => if g.ps.getLsbD (n % 64) && m != 0 then 1 else 0
    | _ => 0
  match lowLane (runs.foldl (fun m x => m ||| mark x) 0) with
  | none => none
  | some l =>
    match runs.find? fun x => (mark x).getLsbD l.val with
    | none => none
    | some (c, n, _) =>
      let cls := match c with | .s => 1 | .a => 2 | _ => 0
      some { cause := 0x1D, lane := if cls = 1 then none else some l, x1 := w32 (n + 256 * cls) }

/-- A float atomic that deterministic mode refuses (R270): at PKG scope or wider, or on HOSTMEM. -/
def keylessFloat (det : Bool) (t : Team) (sco : BitVec 3) (lh : BitVec 6) : Bool :=
  det && (3 ≤ sco.toNat || (entValid t.ls[lh.toFin] && entSpace t.ls[lh.toFin] == spHost))
/-- Traps that the fields and the mode alone decide, whatever the guard: a pair of formats that CVT, PACK or UNPACK
cannot convert (R178, R246), DETERMINISM (R270). -/
def fieldTrap (i : Instr) (det : Bool) (t : Team) : Option Trap :=
  let pair : BitVec 8 → BitVec 8 → Option Trap := fun c h =>
    let s := (c.extractLsb' 0 5).toNat
    let d := (hiFmt h).toNat
    if convertible s d then none else some { cause := 0x21, x1 := w32 (s + 256 * d) }
  match i with
  | .cvtF2f x | .cvtF2i x | .cvtI2f x | .cvtI2i x | .pack x | .unpack x => pair x.c x.h
  | .atomf x => if keylessFloat det t x.sco x.lh then some { cause := 0x22, x1 := 0x201 } else none
  | .redf x => if keylessFloat det t x.sco x.lh then some { cause := 0x22, x1 := 0x204 } else none
  | _ => none

/-- The scope of the release that a word carries; barrier arrivals with release and EXIT count for every kind of record
(R403). -/
def releaseScope : Instr → Option (BitVec 3)
  | .fence x | .redflush x => if (hiOrd x.h).getLsbD 0 then some (hiSco x.h) else none
  | .bara x | .bars x => if (hiOrd x.h).getLsbD 0 then some 5 else none
  | .exitLanes _ => some 5
  | .atom x | .atomf x | .cas x | .red x | .redf x | .redd x | .ffill x => if x.ord.getLsbD 0 then some x.sco else none
  | .tchild _ => some 3
  | .stepClose _ => some 4
  | _ => none
/-- POISON_DEFERRED at a release (R403). -/
def deferTrap (i : Instr) (k : CtxRec) : Option Trap :=
  match releaseScope i with
  | none => none
  | some sco =>
    match ((if 2 ≤ sco.toNat then k.deferL2 else []) ++ if 3 ≤ sco.toNat then k.deferMsc else []) with
    | [] => none
    | n :: _ => some { cause := 0x1E, x1 := n }

/-- Vector registers that a form writes. -/
def formVdests (f : Form) : BitVec 256 :=
  ((f.regs.filter fun u => u.cls == .v && u.wr).flatMap fun u => (List.range u.len).map fun k => u.num.toNat + k).foldl
    (fun m k => m ||| bitOf 256 k) 0
/-- Those that become live by it, and take a slot (R149). -/
def newRegs (f : Form) (g : Group) : BitVec 256 := formVdests f &&& ~~~g.mapped

/-- The outcome of the checks made before an instruction acts. -/
inductive Check where
  /-- Nothing to run: no open clause, or the group is blocked. -/
  | idle
  /-- The issue waits (R153, R155), or a spilled register is being filled (R149). -/
  | stall (s : State)
  | trap (i : Slot) (r : Run) (t : Trap)
  | go (i : Slot) (h : Hd) (f : Form) (g : Group) (r : Run)

/-- R192, the seventeenth issue, the interlock, spilled registers, poison and deferred poison, in this order. -/
def issueChecks (i : Instr) (s : State) : Check :=
  match s.agent with
  | .companion _ => .idle
  | .group n =>
    let g := s.grp s.core n
    let t := s.team s.core g.team
    match g.run with
    | none => .idle
    | some r =>
      let w := r.words.getD r.idx 0
      if !g.resident || g.fetch.isSome || hdrN r.hdr < r.idx then .idle
      else match g.block with
        | .parked | .sleeping _ => .idle
        | _ =>
          match i.form with
          | none => .trap n r (wordTrap 0x01 w)
          | some f =>
            if clauseUnit i &&& hdrCls r.hdr != clauseUnit i then .trap n r (wordTrap 0x04 w)
            else if !f.wf || (f.last && r.idx != hdrN r.hdr) then .trap n r (wordTrap 0x02 w)
            else if !f.regs.all (fun u => allocated u (LRec.nv t.lrec) (LRec.na t.lrec)) then .trap n r (wordTrap 0x03 w)
            else match fieldTrap i (s.det s.core) t with
              | some x => .trap n r x
              | none =>
                let full := f.hd.sb != 7 && 16 ≤ (g.out.filter fun o => o.sb == f.hd.sb).length
                let uses := guardRun f.hd :: f.regs.map useRun
                if full || g.out.any (fun o => o.dests.any fun d => uses.any d.meets) then .stall s
                else
                  match (f.regs.filter fun u => u.cls == .v).flatMap (fun u => (List.range u.len).map fun k => u.num.toNat + k)
                      |>.find? fun k => g.spilled.getLsbD k with
                  | some k => .stall (fillReg s s.core n k)
                  | none =>
                    if acting f.hd g r != 0 && freeSlots s s.core < bitCount (newRegs f g) then .stall s
                    else
                    match if neverTraps i then none else poisonRead (readLanes i f.hd g r) f.regs g with
                    | some x => .trap n r x
                    | none =>
                      match if acting f.hd g r = 0 then none else deferTrap i (s.ctxRec t.asid) with
                      | some x => .trap n r x
                      | none => .go n f.hd f g r

/-- What an instruction does once it acts. -/
inductive Eff where
  /-- It executed; a short-latency instruction. -/
  | short (s : State)
  /-- It executed and stands outstanding (R152): accesses or a completion to wait for. -/
  | long (s : State) (o : Out)
  /-- A precise trap (R159); after: the resumption index is the next one. -/
  | trap (t : Trap) (after : Bool)
  /-- ASYNC_FAULT (R130): a precise trap whose delivery has changed the state (R459). -/
  | async (s : State) (t : Trap)
  /-- Issue waits: nothing of the instruction has happened. -/
  | stall (s : State)
  /-- The group or its context has stopped by this instruction (FLT); or the group has parked at it (R253). -/
  | ended (s : State)

/-- An entry outstanding on the same counter. -/
def Group.behind (g : Group) (sb : BitVec 3) : Bool := sb != 7 && g.out.any fun o => o.sb == sb

/-- The next instruction of the clause; the count of R327. -/
def Group.advance (g : Group) : Group :=
  { g with retired := g.retired + 1
           cap := none
           waitKids := none
           run := g.run.map fun r => { r with idx := r.idx + 1 } }
/-- A short-latency instruction retires at once, which clears the hang counter (R56), or waits as a marker behind its
counter's earlier entries (R152). -/
def Group.finish (g : Group) (h : Hd) : Group :=
  let g := g.advance
  if g.behind h.sb then { g with out := g.out ++ [{ sb := h.sb, kind := .done }] } else { g with hang := 0 }
/-- The destinations that an outstanding instruction still protects (R155); a copy command has written its own at issue
(R310). -/
def Out.protects (o : Out) (f : Form) : List RegRun := match o.kind with | .copy _ => [] | _ => formDests f
/-- A long-latency instruction takes its place on its counter. -/
def Group.push (g : Group) (h : Hd) (f : Form) (o : Out) : Group :=
  { g.advance with out := g.out ++ [{ o with
      sb := h.sb, dests := o.protects f, count := g.retired, epoch := g.epoch
      pc := (g.run.map (·.pc)).getD 0, idx := (g.run.map (·.idx)).getD 0 }] }
/-- The vector registers that an instruction writes are live (R149). -/
def Group.mapDests (g : Group) (f : Form) : Group := { g with mapped := g.mapped ||| formVdests f }

/-- An instruction has executed: the clause may end, and a hang action with it. -/
def endTurn (s : State) (n : Slot) : State := hangEnd (settle s s.core n) s.core n

/-- A group instruction issued: the checks, then its effect k. -/
def issue (i : Instr) (s : State) (k : Slot → Hd → Group → Run → Eff) : Host.Outcome State Fault Refusal :=
  match issueChecks i s with
  | .idle => .next s
  | .stall s => .next s
  | .trap n r t => .next (takeTrap s s.core n r.pc r.idx r.lanes t)
  | .go n h f g r =>
    if acting h g r = 0 then .next (endTurn (s.modGrp s.core n fun g => g.finish h) n)
    else match k n h g r with
      | .short s => .next (endTurn (s.modGrp s.core n fun g => (g.mapDests f).finish h) n)
      | .long s o =>
        let s := s.modGrp s.core n fun g => (g.mapDests f).push h f o
        .next (endTurn (if s.later then s else runMem s s.core n) n)
      | .trap t after =>
        if after then .next (takeTrap (s.modGrp s.core n fun g => { g with retired := g.retired + 1 }) s.core n r.pc (r.idx + 1) r.lanes t)
        else .next (takeTrap s s.core n r.pc r.idx r.lanes t)
      | .async s t => .next (takeTrap s s.core n r.pc r.idx r.lanes t)
      | .stall s => .next s
      | .ended s => .next (hangEnd (leave s s.core n) s.core n)

/-- An instruction that changes only its own group's registers: the new group. -/
def issueRegs (i : Instr) (s : State) (k : Hd → Group → Run → Group) : Host.Outcome State Fault Refusal :=
  issue i s fun n h g r => .short (s.modGrp s.core n fun _ => k h g r)

/-- A short-latency float result: the changed group and the flags of each lane (R235), or FP_EXCEPT (R236). named: a
trap names a lane. -/
def floatEff (s : State) (n : Slot) (g g' : Group) (named : Bool) (fs : List (Fin 32 × BitVec 5)) : Eff :=
  match fpTrap g named fs with
  | some t => .trap t false
  | none => .short (s.modGrp s.core n fun _ => g'.orFlags (orAll fs))

end Sys2Proof.Machine
end

