-- ==== Sys2Proof/Machine/Float.lean ====
section
/-! DEFINITION. Float instructions (R231 to R245). -/

namespace Sys2Proof.Machine
open Sys2Proof

/-! ## Operands -/

/-- The rounding of an instruction in a lane, for element j of its destination (R173 to R175). -/
def rndOf (lo : Low) (t : Team) (g : Group) (l : Fin 32) (j : Nat) : Rnd :=
  { rm := lo.m.toNat, sat := lo.b22, draw := if lo.m = 4 then laneDraw t g l j else 0 }
/-- A source pattern as a value, after the flush and the negate bit (R237). -/
def srcNum (f : FFmt) (ftz neg : Bool) (x : Nat) : Num :=
  let v := f.num (f.flush ftz x)
  if neg then v.neg else v
/-- The result of R237: sources, exact result and whether its invalid case holds. -/
def fpRes (f : FFmt) (r : Rnd) (ftz : Bool) (srcs : List Num) (x : Num × Bool) : Res :=
  if srcs.any Num.isNaN then ⟨f.nan, 0⟩
  else if x.2 then ⟨f.nan, flagIV⟩
  else f.flushRes ftz (f.arith r x.1)
/-- Rounding is toward −Inf. -/
def Rnd.down (r : Rnd) : Bool := r.rm == 2

/-! ## Exact results (R238) -/

def fpAdd (f : FFmt) (r : Rnd) (ftz : Bool) (a b : Num) : Res := fpRes f r ftz [a, b] (Num.add r.down a b)
def fpMul (f : FFmt) (r : Rnd) (ftz : Bool) (a b : Num) : Res := fpRes f r ftz [a, b] (Num.mul a b)
/-- a × b + c with one rounding. -/
def fpFma (f : FFmt) (r : Rnd) (ftz : Bool) (a b c : Num) : Res :=
  let (p, bad) := Num.mul a b
  let (v, bad') := Num.add r.down p c
  fpRes f r ftz [a, b, c] (v, bad || bad')
/-- a0 × b0 + a1 × b1 + c rounded once to FP32. -/
def fpDot (r : Rnd) (ftz : Bool) (a0 b0 a1 b1 c : Num) : Res :=
  let (p, bad) := Num.mul a0 b0
  let (q, bad') := Num.mul a1 b1
  let (v, bad'') := Num.sum r.down [p, q, c]
  fpRes fp32 r ftz [a0, b0, a1, b1, c] (v, bad || bad' || bad'')
/-- a × 2^k; a scale beyond ±1000 gives what ±1000 gives. -/
def fpScale (r : Rnd) (ftz : Bool) (a : Num) (k : Int) : Res :=
  fpRes fp32 r ftz [a] (a.scale (max (-1000) (min 1000 k)), false)

/-- R240: 1 below, 2 equal, 4 above, 8 unordered. -/
def fpRel (a b : Num) : Nat := if a.isNaN || b.isNaN then 8 else if a.lt b then 1 else if b.lt a then 4 else 2
/-- The conditions of R240. -/
def fpCond (code rel : Nat) : Bool :=
  match code with
  | 1 => rel == 2
  | 2 => rel != 2
  | 3 => rel == 1
  | 4 => rel == 1 || rel == 2
  | 5 => rel == 4
  | 6 => rel == 4 || rel == 2
  | _ => rel == 8
/-- R241. -/
def fpClass (f : FFmt) (x : Nat) : Nat :=
  let neg := f.neg x
  match f.num x with
  | .nan => 256
  | .inf s => if s then 1 else 128
  | .fin _ m _ =>
    if m = 0 then (if neg then 8 else 16) else if f.subnormal x then (if neg then 4 else 32) else if neg then 2 else 64
/-- R242 .INT: no flag. -/
def fpInt (rm : Nat) (x : Nat) : Nat :=
  match fp32.num x with
  | .nan => fp32.nan
  | .inf _ => x
  | .fin s m e => (fp32.round rne s (roundMag { rm := rm } s m e false).1 0).bits
/-- R243. -/
def fpExpo (x : Nat) : W32 × BitVec 5 :=
  match fp32.num x with
  | .nan => (0x80000000, flagIV)
  | .inf _ => (0x7FFFFFFF, flagIV)
  | .fin _ m e => if m = 0 then (0x80000000, flagDZ) else (trunc 32 (log2Num m e), 0)

/-! ## Shapes -/

/-- A short-latency float result: per lane the value and the flags. -/
def fltShort (s : State) (n : Slot) (h : Hd) (g : Group) (r : Run) (lo : Low) (d : BitVec 8) (f : Fin 32 → W32 × BitVec 5) : Eff :=
  let m := acting h g r
  floatEff s n g ((g.dst h.u d.toNat m fun l => (f l).1).countSr lo.m) (!h.u) ((lanesOf m).map fun l => (l, (f l).2))
/-- A long-latency float result (R231): written at retirement, its traps taken at issue. -/
def fltLong (s : State) (h : Hd) (g : Group) (r : Run) (d : BitVec 8) (f : Fin 32 → Res) : Eff :=
  let ls := lanesOf (acting h g r)
  let fs := ls.map fun l => (l, (f l).flags)
  match fpTrap g (!h.u) fs with
  | some t => .trap t false
  | none => .long s
      { sb := 7, kind := .done, flags := orAll fs, float := true
        writes := ls.map fun l => if h.u then .s (d.setWidth 6) (w32 (f l).bits) false else .v d l (w32 (f l).bits) false }
/-- A register's pattern. -/
def rawOf (h : Hd) (g : Group) (a : BitVec 8) (l : Fin 32) : Nat := (g.src h.u a.toNat l).toNat
/-- An FP32 source with its negate bit of the spec byte. -/
def f32 (x : FmtR) (h : Hd) (g : Group) (a : BitVec 8) (bit : Nat) (l : Fin 32) : Num :=
  srcNum fp32 x.lo.b21 (x.h.getLsbD bit) (rawOf h g a l)
/-- The format of a packed instruction. -/
def halfFmt (x : FmtR) : FFmt := if x.h.getLsbD 3 then bf16 else fp16
/-- Element j of a packed source. -/
def f16 (x : FmtR) (h : Hd) (g : Group) (a : BitVec 8) (bit : Nat) (l : Fin 32) (j : Nat) : Num :=
  srcNum (halfFmt x) x.lo.b21 (x.h.getLsbD bit) (rawOf h g a l / 2 ^ (16 * j) % 65536)
/-- Two packed results. -/
def packRes (f : Nat → Res) : W32 × BitVec 5 := (w32 ((f 0).bits + 65536 * (f 1).bits), (f 0).flags ||| (f 1).flags)
/-- An FP32 result with its flags. -/
def resOf (r : Res) : W32 × BitVec 5 := (w32 r.bits, r.flags)
/-- The FP32 immediate of an I24 form (R232). -/
def fimm (x : FmtI24) : Nat := x.imm.toNat * 256
/-- The team of a group. -/
def teamOf (s : State) (g : Group) : Team := s.team s.core g.team

/-! ## Arithmetic -/

def execFadd (x : FmtR) (s : State) : Host.Outcome State Fault Refusal :=
  issue (.fadd x) s fun n h g r => fltShort s n h g r x.lo x.d fun l =>
    resOf (fpAdd fp32 (rndOf x.lo (teamOf s g) g l 0) x.lo.b21 (f32 x h g x.a 0 l) (f32 x h g x.b 1 l))
def execFaddI24 (x : FmtI24) (s : State) : Host.Outcome State Fault Refusal :=
  issue (.faddI24 x) s fun n h g r => fltShort s n h g r x.lo x.d fun l =>
    resOf (fpAdd fp32 (rndOf x.lo (teamOf s g) g l 0) x.lo.b21 (srcNum fp32 x.lo.b21 false (rawOf h g x.a l))
      (srcNum fp32 x.lo.b21 false (fimm x)))
def execFmul (x : FmtR) (s : State) : Host.Outcome State Fault Refusal :=
  issue (.fmul x) s fun n h g r => fltShort s n h g r x.lo x.d fun l =>
    resOf (fpMul fp32 (rndOf x.lo (teamOf s g) g l 0) x.lo.b21 (f32 x h g x.a 0 l) (f32 x h g x.b 1 l))
def execFmulI24 (x : FmtI24) (s : State) : Host.Outcome State Fault Refusal :=
  issue (.fmulI24 x) s fun n h g r => fltShort s n h g r x.lo x.d fun l =>
    resOf (fpMul fp32 (rndOf x.lo (teamOf s g) g l 0) x.lo.b21 (srcNum fp32 x.lo.b21 false (rawOf h g x.a l))
      (srcNum fp32 x.lo.b21 false (fimm x)))
def execFfma (x : FmtR) (s : State) : Host.Outcome State Fault Refusal :=
  issue (.ffma x) s fun n h g r => fltShort s n h g r x.lo x.d fun l =>
    resOf (fpFma fp32 (rndOf x.lo (teamOf s g) g l 0) x.lo.b21 (f32 x h g x.a 0 l) (f32 x h g x.b 1 l) (f32 x h g x.c 2 l))
/-- b is an INT32, never flushed. -/
def execFscale (x : FmtR) (s : State) : Host.Outcome State Fault Refusal :=
  issue (.fscale x) s fun n h g r => fltShort s n h g r x.lo x.d fun l =>
    resOf (fpScale (rndOf x.lo (teamOf s g) g l 0) x.lo.b21 (srcNum fp32 x.lo.b21 false (rawOf h g x.a l))
      (g.src h.u x.b.toNat l).toInt)
def execHadd2 (x : FmtR) (s : State) : Host.Outcome State Fault Refusal :=
  issue (.hadd2 x) s fun n h g r => fltShort s n h g r x.lo x.d fun l => packRes fun j =>
    fpAdd (halfFmt x) (rndOf x.lo (teamOf s g) g l j) x.lo.b21 (f16 x h g x.a 0 l j) (f16 x h g x.b 1 l j)
def execHmul2 (x : FmtR) (s : State) : Host.Outcome State Fault Refusal :=
  issue (.hmul2 x) s fun n h g r => fltShort s n h g r x.lo x.d fun l => packRes fun j =>
    fpMul (halfFmt x) (rndOf x.lo (teamOf s g) g l j) x.lo.b21 (f16 x h g x.a 0 l j) (f16 x h g x.b 1 l j)
def execHfma2 (x : FmtR) (s : State) : Host.Outcome State Fault Refusal :=
  issue (.hfma2 x) s fun n h g r => fltShort s n h g r x.lo x.d fun l => packRes fun j =>
    fpFma (halfFmt x) (rndOf x.lo (teamOf s g) g l j) x.lo.b21 (f16 x h g x.a 0 l j) (f16 x h g x.b 1 l j)
      (f16 x h g x.c 2 l j)
/-- Packed A and B, an FP32 C and D. -/
def execFdot2 (x : FmtR) (s : State) : Host.Outcome State Fault Refusal :=
  issue (.fdot2 x) s fun n h g r => fltShort s n h g r x.lo x.d fun l =>
    resOf (fpDot (rndOf x.lo (teamOf s g) g l 0) x.lo.b21 (f16 x h g x.a 0 l 0) (f16 x h g x.b 1 l 0)
      (f16 x h g x.a 0 l 1) (f16 x h g x.b 1 l 1) (f32 x h g x.c 2 l))

/-! ## Selection (R239): no flag -/

/-- FMIN or FMAX of two patterns of a format after any flush. -/
def pick (f : FFmt) (max ftz : Bool) (a b : Nat) : Nat := f.select max (f.flush ftz a) (f.flush ftz b)
/-- FMIN or FMAX of both halves. -/
def pick2 (x : FmtR) (max : Bool) (a b : Nat) : W32 :=
  w32 (pick (halfFmt x) max x.lo.b21 (a % 65536) (b % 65536) + 65536 * pick (halfFmt x) max x.lo.b21 (a / 65536) (b / 65536))

def execFmin (x : FmtR) (s : State) : Host.Outcome State Fault Refusal :=
  issueRegs (.fmin x) s fun h g r => g.dst h.u x.d.toNat (acting h g r) fun l =>
    w32 (pick fp32 false x.lo.b21 (rawOf h g x.a l) (rawOf h g x.b l))
def execFminI24 (x : FmtI24) (s : State) : Host.Outcome State Fault Refusal :=
  issueRegs (.fminI24 x) s fun h g r => g.dst h.u x.d.toNat (acting h g r) fun l =>
    w32 (pick fp32 false x.lo.b21 (rawOf h g x.a l) (fimm x))
def execFmax (x : FmtR) (s : State) : Host.Outcome State Fault Refusal :=
  issueRegs (.fmax x) s fun h g r => g.dst h.u x.d.toNat (acting h g r) fun l =>
    w32 (pick fp32 true x.lo.b21 (rawOf h g x.a l) (rawOf h g x.b l))
def execFmaxI24 (x : FmtI24) (s : State) : Host.Outcome State Fault Refusal :=
  issueRegs (.fmaxI24 x) s fun h g r => g.dst h.u x.d.toNat (acting h g r) fun l =>
    w32 (pick fp32 true x.lo.b21 (rawOf h g x.a l) (fimm x))
def execHmin2 (x : FmtR) (s : State) : Host.Outcome State Fault Refusal :=
  issueRegs (.hmin2 x) s fun h g r => g.dst h.u x.d.toNat (acting h g r) fun l =>
    pick2 x false (rawOf h g x.a l) (rawOf h g x.b l)
def execHmax2 (x : FmtR) (s : State) : Host.Outcome State Fault Refusal :=
  issueRegs (.hmax2 x) s fun h g r => g.dst h.u x.d.toNat (acting h g r) fun l =>
    pick2 x true (rawOf h g x.a l) (rawOf h g x.b l)

/-! ## Comparison, class, rounding, exponent (R240 to R243) -/

/-- Code 0 writes the relation to a register, the others a predicate. -/
def execFcmp (x : FmtR) (s : State) : Host.Outcome State Fault Refusal :=
  issueRegs (.fcmp x) s fun h g r =>
    let m := acting h g r
    let rel : Fin 32 → Nat := fun l =>
      fpRel (srcNum fp32 x.lo.b21 false (rawOf h g x.a l)) (srcNum fp32 x.lo.b21 false (rawOf h g x.b l))
    if x.h = 0 then g.dst h.u x.d.toNat m fun l => w32 (rel l)
    else g.pdst h.u x.d.toNat m fun l => fpCond x.h.toNat (rel l)
def execFcmpI24 (x : FmtI24) (s : State) : Host.Outcome State Fault Refusal :=
  issueRegs (.fcmpI24 x) s fun h g r => g.dst h.u x.d.toNat (acting h g r) fun l =>
    w32 (fpRel (srcNum fp32 x.lo.b21 false (rawOf h g x.a l)) (srcNum fp32 x.lo.b21 false (fimm x)))
def execFclass (x : FmtR) (s : State) : Host.Outcome State Fault Refusal :=
  issueRegs (.fclass x) s fun h g r => g.dst h.u x.d.toNat (acting h g r) fun l =>
    let f := if x.h = 0 then fp32 else if x.h = 1 then bf16 else fp16
    w32 (fpClass f (rawOf h g x.a l % 2 ^ f.width))
def execFrnd (x : FmtR) (s : State) : Host.Outcome State Fault Refusal :=
  issueRegs (.frnd x) s fun h g r => g.dst h.u x.d.toNat (acting h g r) fun l =>
    let a := g.src h.u x.a.toNat l
    match x.h.toNat with
    | 0 => w32 (fpInt x.lo.m.toNat (fp32.flush x.lo.b21 a.toNat))
    | 1 => a ^^^ 0x80000000
    | 2 => a &&& 0x7FFFFFFF
    | _ => (a &&& 0x7FFFFFFF) ||| (g.src h.u x.b.toNat l &&& 0x80000000)
def execFexpo (x : FmtR) (s : State) : Host.Outcome State Fault Refusal :=
  issue (.fexpo x) s fun n h g r => fltShort s n h g r { x.lo with m := 0 } x.d fun l =>
    fpExpo (fp32.flush x.lo.b21 (rawOf h g x.a l))

/-! ## The ten functions (R244, R245) -/

/-- One FP32 operand, correctly rounded, with SAT and FTZ of R237. -/
def fltFun (x : FmtR) (s : State) (h : Hd) (g : Group) (r : Run) (f : Rnd → Num → Res) : Eff :=
  fltLong s h g r x.d fun l => fp32.flushRes x.lo.b21
    (f { rm := x.lo.m.toNat, sat := x.lo.b22 } (srcNum fp32 x.lo.b21 false (rawOf h g x.a l)))

def execFrcp (x : FmtR) (s : State) : Host.Outcome State Fault Refusal :=
  issue (.frcp x) s fun _ h g r => fltFun x s h g r fun m a => divNum m (.fin false 1 0) a
def execFrsq (x : FmtR) (s : State) : Host.Outcome State Fault Refusal :=
  issue (.frsq x) s fun _ h g r => fltFun x s h g r rsqrtNum
def execFsqrt (x : FmtR) (s : State) : Host.Outcome State Fault Refusal :=
  issue (.fsqrt x) s fun _ h g r => fltFun x s h g r sqrtNum
def execFdiv (x : FmtR) (s : State) : Host.Outcome State Fault Refusal :=
  issue (.fdiv x) s fun _ h g r => fltLong s h g r x.d fun l => fp32.flushRes x.lo.b21
    (divNum { rm := x.lo.m.toNat, sat := x.lo.b22 } (srcNum fp32 x.lo.b21 false (rawOf h g x.a l))
      (srcNum fp32 x.lo.b21 false (rawOf h g x.b l)))
def execFexp2 (x : FmtR) (s : State) : Host.Outcome State Fault Refusal :=
  issue (.fexp2 x) s fun _ h g r => fltFun x s h g r exp2Num
def execFlog2 (x : FmtR) (s : State) : Host.Outcome State Fault Refusal :=
  issue (.flog2 x) s fun _ h g r => fltFun x s h g r log2Res
def execFsin (x : FmtR) (s : State) : Host.Outcome State Fault Refusal :=
  issue (.fsin x) s fun _ h g r => fltFun x s h g r sinNum
def execFcos (x : FmtR) (s : State) : Host.Outcome State Fault Refusal :=
  issue (.fcos x) s fun _ h g r => fltFun x s h g r cosNum
def execFtanh (x : FmtR) (s : State) : Host.Outcome State Fault Refusal :=
  issue (.ftanh x) s fun _ h g r => fltFun x s h g r tanhNum
def execFsigm (x : FmtR) (s : State) : Host.Outcome State Fault Refusal :=
  issue (.fsigm x) s fun _ h g r => fltFun x s h g r sigmNum

end Sys2Proof.Machine
end

