-- ==== Sys2Proof/Machine/Matrix.lean ====
section
/-! DEFINITION. Quarter matrix operations and fragment moves (R180, R290 to R292), and MXC (R294). -/

namespace Sys2Proof.Machine
open Sys2Proof

/-! ## Exact products (R180) -/

/-- An integer value; a float one is never passed. -/
def numInt : Num → Int
  | .fin s m e => atExp s m e 0
  | _ => 0
/-- Sum of products plus an accumulator, rounded once: FP32 for a float format, SatS32 for an integer one. -/
def dotRound (isFloat : Bool) (acc : W32) (terms : List (Num × Num)) : W32 :=
  let ps := terms.map fun x => Num.mul x.1 x.2
  if isFloat then
    let (v, bad) := Num.sum false (fp32.num acc.toNat :: ps.map (·.1))
    BitVec.ofNat 32 (fp32.arith rne (if bad || ps.any (·.2) then .nan else v)).bits
  else satS32 (acc.toInt + ps.foldl (fun a p => a + numInt p.1) 0)

/-! ## QMMA and QMMB (R291) -/

/-- The 128-bit row of a lane: a run of four V registers. -/
def rowOf (g : Group) (r : Nat) (l : Fin 32) : BitVec 128 := g.rdV (r + 3) l ++ g.rdV (r + 2) l ++ g.rdV (r + 1) l ++ g.rdV r l
/-- Lane i of the quarter of lane l. -/
def quarterLane (l : Fin 32) (i : Nat) : Fin 32 := Fin.ofNat 32 (8 * (l.val / 8) + i % 8)
/-- Column c of the quarter of lane l. -/
def colOf (g : Group) (b : Nat) (l : Fin 32) (c : Nat) : BitVec 128 := rowOf g (b + 4 * (c / 8)) (quarterLane l c)
/-- Element c of a fragment row. -/
def rowElem (x : BitVec 256) (c : Nat) : W32 := x.extractLsb' (32 * c) 32
/-- A fragment row from its elements. -/
def rowFrom (f : Nat → W32) : BitVec 256 := f 7 ++ f 6 ++ f 5 ++ f 4 ++ f 3 ++ f 2 ++ f 1 ++ f 0

/-- One element of QMMA: row x, column y in a format. -/
def qmmaElem (fmt : BitVec 5) (acc : W32) (x y : BitVec 128) : W32 :=
  let w := (fmtWidth fmt).getD 32
  dotRound (fmtFloat fmt) acc ((List.range (128 / w)).map fun j =>
    (numOf fmt.toNat (fieldN x (w * j) w), numOf fmt.toNat (fieldN y (w * j) w)))
/-- One element of QMMB. -/
def qmmbElem (and' : Bool) (acc : W32) (x y : BitVec 128) : W32 :=
  satS32 (acc.toInt + (popCount (if and' then x &&& y else x ^^^ y) : Nat))

/-- The result rows of every active lane, held until retirement. -/
def qmmEff (s : State) (h : Hd) (g : Group) (r : Run) (x : FmtR) (f : W32 → BitVec 128 → BitVec 128 → W32) : Eff :=
  .long s { sb := 7, kind := .done
            writes := (lanesOf (acting h g r)).flatMap fun l =>
              (List.range (if x.lo.b23 then 2 else 1)).map fun k =>
                .a (BitVec.ofNat 4 (x.d.toNat + k)) l (rowFrom fun c =>
                  f (rowElem (g.rdA (x.c.toNat + k) l) c) (rowOf g x.a.toNat l) (colOf g x.b.toNat l (8 * k + c))) false }

def execQmma (x : FmtR) (s : State) : Host.Outcome State Fault Refusal :=
  issue (.qmma x) s fun _ h g r => qmmEff s h g r x (qmmaElem (hiFmt x.h))
def execQmmb (x : FmtR) (s : State) : Host.Outcome State Fault Refusal :=
  issue (.qmmb x) s fun _ h g r => qmmEff s h g r x (qmmbElem x.lo.b22)

/-! ## Fragment moves (R292) -/

def execQzero (x : FmtR) (s : State) : Host.Outcome State Fault Refusal :=
  issueRegs (.qzero x) s fun h g r =>
    let m := acting h g r
    let g := g.wrA x.d.toNat m fun _ => 0
    if x.lo.b23 then g.wrA (x.d.toNat + 1) m fun _ => 0 else g
/-- Fragment to V run, V run to fragment, or fragment to fragment. -/
def execQmov (x : FmtR) (s : State) : Host.Outcome State Fault Refusal :=
  issueRegs (.qmov x) s fun h g r =>
    let m := acting h g r
    if x.lo.b23 then g.wrA x.d.toNat m fun l => g.rdA x.a.toNat l
    else if x.lo.b22 then g.wrA x.d.toNat m fun l => rowFrom fun c => g.rdV (x.a.toNat + c) l
    else (List.range 8).foldl (fun k c => k.wrV (x.d.toNat + c) m fun l => rowElem (g.rdA x.a.toNat l) c) g

/-! ## MXC (R294) -/

def mxcW (c : W32) : BitVec 5 := c.extractLsb' 0 5
def mxcX (c : W32) : BitVec 5 := c.extractLsb' 5 5
def mxcMx (c : W32) : Bool := c.getLsbD 10
def mxcM (c : W32) : Nat := fieldN c 11 9 + 1
/-- Reserved bits zero and a permitted pair of formats. -/
def mxcOk (c : W32) : Bool :=
  let both : List (BitVec 5) → Bool := fun l => l.contains (mxcW c) && l.contains (mxcX c)
  fieldN c 20 12 == 0
  && (if mxcMx c then both [4] || both [6] || both [0x0C]
      else both [2, 3] || both [4, 5] || both [6] || both [0x0C, 0x0D] || both [0x0E, 0x0F])

def execMxcfg (x : FmtR) (s : State) : Host.Outcome State Fault Refusal :=
  issue (.mxcfg x) s fun n _ g r =>
    let c := g.rdS x.a.toNat
    if mxcOk c then .short (s.modGrp s.core n fun g => { g with mxc := c })
    else .trap (wordTrap 0x02 (r.words.getD r.idx 0)) false

end Sys2Proof.Machine
end

