-- ==== Sys2Proof/Machine/Memory.lean ====
section
/-! DEFINITION. Memory instructions (R253 to R264): the checks of R64 over every active lane, then the accesses. -/

namespace Sys2Proof.Machine
open Sys2Proof

/-- The accessing lane. -/
def whoOf (s : State) (n : Slot) (g : Group) (l : Fin 32) : Who := ⟨s.core, g.team, n, l⟩
/-- The lane that a trap of this instruction names. -/
def named (h : Hd) (l : Fin 32) : Option (Fin 32) := if h.u then none else some l

/-- A memory operand of a group instruction. -/
structure MemRef where
  lh   : BitVec 6
  cr   : BitVec 8
  dm   : BitVec 2
  off  : Int
  size : Nat

/-- The operand of an M-format word. -/
def mref (x : FmtM) (size : Nat) : MemRef := ⟨x.lh, x.cr, x.dm, x.off.toInt, size⟩

/-- The captured entry of a handle. -/
def entryOf (s : State) (g : Group) (lh : BitVec 6) : Ent := (teamOf s g).ls[lh.toFin]

/-- The offset of one lane's access through an entry, or its trap (R64). -/
def laneVia (s : State) (n : Slot) (h : Hd) (g : Group) (k : AccKind) (x : MemRef) (e : Ent) (l : Fin 32) : Except Trap Nat :=
  locate s (teamOf s g) (whoOf s n g l) k x.lh.toNat e (g.coords h.u x.cr.toNat (x.dm.toNat + 1) l) x.off x.size (named h l)
/-- The offset of one lane's access through the handle as it stands. -/
def laneAt (s : State) (n : Slot) (h : Hd) (g : Group) (k : AccKind) (x : MemRef) (l : Fin 32) : Except Trap Nat :=
  laneVia s n h g k x (entryOf s g x.lh) l

/-- Every acting lane checked before any access: the accesses through an entry, or the trap of the lowest failing lane. -/
def lanesVia (s : State) (n : Slot) (h : Hd) (g : Group) (r : Run) (k : AccKind) (x : MemRef) (e : Ent) (op : Fin 32 → AccOp) :
    Except Trap (List Acc) :=
  allOk (fun l => match laneVia s n h g k x e l with
    | .error t => .error t
    | .ok u => .ok { lane := l, lh := x.lh, entry := e, u := u, size := x.size, op := op l }) (lanesOf (acting h g r))
/-- The same through the handle as it stands. -/
def lanesAt (s : State) (n : Slot) (h : Hd) (g : Group) (r : Run) (k : AccKind) (x : MemRef) (op : Fin 32 → AccOp) :
    Except Trap (List Acc) :=
  lanesVia s n h g r k x (entryOf s g x.lh) op

/-- The accesses of an instruction, outstanding. -/
def memEff (s : State) (a : Except Trap (List Acc)) : Eff :=
  match a with
  | .error t => .trap t false
  | .ok accs => .long s { sb := 7, kind := .mem accs }

/-- Bytes of a SIZE code (R191). -/
def sizeBytes (m : BitVec 3) : Nat := 2 ^ m.toNat
/-- CP of a load (R191). -/
def cpOf (lo : Low) : BitVec 2 := bit1 lo.b23 ++ bit1 lo.b22
where bit1 (b : Bool) : BitVec 1 := BitVec.ofBool b

/-- The bytes of a store's data run, lowest register first. -/
def dataBytes (h : Hd) (g : Group) (d : BitVec 8) (m : BitVec 3) (l : Fin 32) : List Byte :=
  ((g.srcRun h.u d.toNat (sizeRun m) l).flatMap fun w => bytesLE 4 w.toNat).take (sizeBytes m)

def execLd (x : FmtM) (s : State) : Host.Outcome State Fault Refusal :=
  issue (.ld x) s fun n h g r => memEff s (lanesAt s n h g r .load (mref x (sizeBytes x.lo.m))
    fun _ => .load (cpOf x.lo) x.lo.b21 .v x.d.toNat)
def execSt (x : FmtM) (s : State) : Host.Outcome State Fault Refusal :=
  issue (.st x) s fun n h g r => memEff s (lanesAt s n h g r .store (mref x (sizeBytes x.lo.m))
    fun l => .store (dataBytes h g x.d x.lo.m l) (tagOf (teamOf s g) (entryOf s g x.lh)))
/-- One access with S-register coordinates. -/
def execLdu (x : FmtM) (s : State) : Host.Outcome State Fault Refusal :=
  issue (.ldu x) s fun n h g r => memEff s (lanesAt s n h g r .load (mref x (sizeBytes x.lo.m))
    fun _ => .load (cpOf x.lo) x.lo.b21 .s x.d.toNat)
def execStu (x : FmtM) (s : State) : Host.Outcome State Fault Refusal :=
  issue (.stu x) s fun n h g r => memEff s (lanesAt s n h g r .store (mref x (sizeBytes x.lo.m))
    fun l => .store (dataBytes h g x.d x.lo.m l) (tagOf (teamOf s g) (entryOf s g x.lh)))
/-- R260: a lane moves its own row of the fragment, 32 bytes. -/
def execLdf (x : FmtM) (s : State) : Host.Outcome State Fault Refusal :=
  issue (.ldf x) s fun n h g r => memEff s (lanesAt s n h g r .load (mref x 32)
    fun _ => .loadRow (cpOf x.lo) (x.d.setWidth 4))
def execStf (x : FmtM) (s : State) : Host.Outcome State Fault Refusal :=
  issue (.stf x) s fun n h g r => memEff s (lanesAt s n h g r .store (mref x 32)
    fun l => .store (bytesLE 32 (g.rdA x.d.toNat l).toNat) (tagOf (teamOf s g) (entryOf s g x.lh)))

/-- The element at a lane's coordinates, for a line operation: R64 with one element. -/
def elemAt (s : State) (n : Slot) (h : Hd) (g : Group) (x : FmtM) (l : Fin 32) : Except Trap Nat :=
  let e := entryOf s g x.lh
  match laneAt s n h g .load (mref x (entW e / 8)) l with
  | .error t => .error t
  | .ok u =>
    if mapFits (teamOf s g) s.hub.node.toNat (whoOf s n g l) e u 1 then .ok u
    else .error (boundsTrap x.lh.toNat 0 (((g.coords h.u x.cr.toNat (x.dm.toNat + 1) l).getD 0 0).toNat + x.off.toInt) (named h l))

/-- A coordinate of a lane is poisoned (R255). -/
def badCoord (h : Hd) (g : Group) (x : FmtM) (l : Fin 32) : Bool :=
  (List.range (x.dm.toNat + 1)).any fun i =>
    if h.u then g.ps.getLsbD ((x.cr.toNat + i) % 64) else (vat g.pv (x.cr.toNat + i)).getLsbD l.val
/-- R261: no trap; an access that would fail a check, or whose coordinates are poisoned, is dropped. -/
def execPref (x : FmtM) (s : State) : Host.Outcome State Fault Refusal :=
  issue (.pref x) s fun n h g r =>
    let t := teamOf s g
    .short ((lanesOf (acting h g r)).foldl (fun s' l => match elemAt s n h g x l with
      | .error _ => s'
      | .ok u => if badCoord h g x l then s'
        else prefetch s' s.core t.asid (t.order + 1) (whoOf s n g l) (LRec.pb t.lrec) (entryOf s g x.lh) u x.lo.m) s)
/-- R262: needs RD; one line per lane. -/
def execCctl (x : FmtM) (s : State) : Host.Outcome State Fault Refusal :=
  issue (.cctl x) s fun n h g r => memEff s (allOk (fun l => match elemAt s n h g x l with
    | .error t => .error t
    | .ok u => .ok { lane := l, lh := x.lh, entry := entryOf s g x.lh, u := u, size := 1, op := .cctl x.lo.m }) (lanesOf (acting h g r)))

/-! ## The layout store (R263, R264) -/

/-- A slot of the layout store written. -/
def putSlot (s : State) (g : Group) (k : BitVec 6) (e : Ent) : State :=
  s.modTeam s.core g.team fun t => { t with ls := vset t.ls k.toFin e }

def execLtsub (x : FmtR) (s : State) : Host.Outcome State Fault Refusal :=
  issue (.ltsub x) s fun _ _ g _ =>
    let ld := x.d.setWidth 6
    let lp := x.a.setWidth 6
    match narrow (entryOf s g lp) (entryOf s g ld) (ld == lp) lp.toNat ld.toNat
        (fun d => (g.rdS (x.b.toNat + d)).toNat) (fun d => (g.rdS (x.b.toNat + 4 + d)).toNat)
        ((g.rdS x.c.toNat).extractLsb' 0 5) (if x.lo.b22 then some (hiFmt x.h) else none) with
    | .error t => .trap t false
    | .ok e => .short (putSlot s g ld e)
/-- VALID := 0 in any slot. -/
def execLtsubInv (x : FmtR) (s : State) : Host.Outcome State Fault Refusal :=
  issue (.ltsubInv x) s fun _ _ g _ =>
    .short (putSlot s g (x.d.setWidth 6) (setBit (entryOf s g (x.d.setWidth 6)) 127 false))
def execLtqry (x : FmtR) (s : State) : Host.Outcome State Fault Refusal :=
  issue (.ltqry x) s fun n _ g _ =>
    let e := entryOf s g (x.a.setWidth 6)
    if entValid e && !(entRights e).getLsbD 0 then .trap (layTrap 0x09 (x.a.toNat % 64)) false
    else .short (s.modGrp s.core n fun g => g.wrS x.d.toNat (queryWord e (8 * x.lo.b21.toNat + x.lo.m.toNat)))

end Sys2Proof.Machine
end

