-- ==== Sys2Proof/Machine/Atomics.lean ====
section
/-! DEFINITION. Atomics, futures and waits (R120 to R123, R265 to R277) and the events that wake a wait. -/

namespace Sys2Proof.Machine
open Sys2Proof

/-! ## Atomics (R265 to R269) -/

/-- The operand of an MA-format word: no offset. -/
def aref (x : FmtMA) (size : Nat) : MemRef := ⟨x.lh, x.cr, x.dm, 0, size⟩
/-- The release part of an order field at a scope (R83). -/
def relOf (ord : BitVec 2) (sco : BitVec 3) : Option (BitVec 3) := if ord.getLsbD 0 then some sco else none
/-- The acquire part. -/
def acqOf (ord : BitVec 2) (sco : BitVec 3) : Option (BitVec 3) := if ord.getLsbD 1 then some sco else none
/-- A run of one or two source registers, low word first. -/
def pairOf (h : Hd) (g : Group) (r : Nat) (w64 : Bool) (l : Fin 32) : W64 :=
  if w64 then g.src h.u (r + 1) l ++ g.src h.u r l else (g.src h.u r l).setWidth 64
/-- V or S as a destination class; P or Q as a predicate class. -/
def dstCls (u : Bool) : RegCls := if u then .s else .v
def predCls (u : Bool) : RegCls := if u then .q else .p
/-- Access size of a W64 bit. -/
def w64Size (b : Bool) : Nat := if b then 8 else 4

/-- An atomic: each lane's operation f, its destination, order and scope. -/
def atomEff (s : State) (n : Slot) (h : Hd) (g : Group) (r : Run) (x : FmtMA) (size : Nat) (dst : Option RegCls)
    (f : Fin 32 → AtomFn) : Eff :=
  match lanesAt s n h g r .atomic (aref x size) fun l =>
      .atom (f l) x.sco (tagOf (teamOf s g) (entryOf s g x.lh)) (dst.map fun c => (c, x.d.toNat)) with
  | .error t => .trap t false
  | .ok accs => .long s { sb := 7, kind := .mem accs, rmw := true, rel := relOf x.ord x.sco, acq := acqOf x.ord x.sco }

/-- The float operation of R267: format [21:20], operation [19:18]. -/
def fltOp (x : FmtMA) (b : W32) : AtomFn := .flt (x.op.extractLsb' 2 2) (x.op.extractLsb' 0 2) b

def execAtom (x : FmtMA) (s : State) : Host.Outcome State Fault Refusal :=
  issue (.atom x) s fun n h g r => atomEff s n h g r x (w64Size x.w64) (some (dstCls h.u))
    fun l => .int x.op x.w64 (pairOf h g x.b.toNat x.w64 l)
def execAtomf (x : FmtMA) (s : State) : Host.Outcome State Fault Refusal :=
  issue (.atomf x) s fun n h g r => atomEff s n h g r x 4 (some (dstCls h.u)) fun l => fltOp x (g.src h.u x.b.toNat l)
/-- R268: the compare run, then the new-value run. -/
def execCas (x : FmtMA) (s : State) : Host.Outcome State Fault Refusal :=
  issue (.cas x) s fun n h g r => atomEff s n h g r x (w64Size x.w64) (some (dstCls h.u)) fun l =>
    .cas x.w64 (pairOf h g x.b.toNat x.w64 l) (pairOf h g (x.b.toNat + if x.w64 then 2 else 1) x.w64 l)
def execRed (x : FmtMA) (s : State) : Host.Outcome State Fault Refusal :=
  issue (.red x) s fun n h g r => atomEff s n h g r x (w64Size x.w64) none
    fun l => .int x.op x.w64 (pairOf h g x.b.toNat x.w64 l)
def execRedf (x : FmtMA) (s : State) : Host.Outcome State Fault Refusal :=
  issue (.redf x) s fun n h g r => atomEff s n h g r x 4 none fun l => fltOp x (g.src h.u x.b.toNat l)

/-! ## Deferred reductions (R271, R272) -/

/-- Contributions of a scheduler's groups that have not entered their buffer. -/
def reddWaiting (s : State) (c : CoreId) (k : Fin 4) : Nat :=
  (((s.cores[c].ctx.groups).toList.filter fun g => g.resident && g.sched == k).map fun g =>
    (g.out.map fun o => match o.kind with
      | .mem accs => (accs.filter fun a => match a.op with | .redd .. => true | _ => false).length
      | _ => 0).sum).sum

/-- REDD: SHARED and GLOBAL alone; the contributions enter at issue, after a drain when they would overflow the
scheduler's buffer. Lanes whose page faults, or which an earlier order of the group holds (R88), enter when they may. -/
def execRedd (x : FmtMA) (s : State) : Host.Outcome State Fault Refusal :=
  issue (.redd x) s fun n h g r =>
    let e := entryOf s g x.lh
    let pos := s.cores[s.core].ctx.pos
    if usable e && keyOk s (teamOf s g).asid e && entSpace e == spHost then
      .trap (layTrap 0x09 x.lh.toNat ((lowLane (acting h g r)).bind (named h))) false
    else match lanesAt s n h g r .atomic (aref x 4) fun l => .redd (g.src h.u x.b.toNat l) (x.op.extractLsb' 0 3) x.sco
        (x.ord.getLsbD 0) pos (tagOf (teamOf s g) e) with
    | .error t => .trap t false
    | .ok accs =>
      let s := makeRoom s s.core g.sched (accs.length + reddWaiting s s.core g.sched)
      .long (s.modCtx s.core fun y => { y with pos := pos + 1 }) { sb := 7, kind := .mem accs, rel := relOf x.ord x.sco }

/-- REDFLUSH (R272): what was issued before it is drained, after its release. -/
def execRedflush (x : FmtR) (s : State) : Host.Outcome State Fault Refusal :=
  issue (.redflush x) s fun _ _ _ _ =>
    .long s { sb := 7, kind := .act (.flush s.cores[s.core].ctx.pos), rel := relOf (hiOrd x.h) (hiSco x.h) }

/-! ## Futures (R120, R273 to R275) -/

/-- FFILL: the predicate says that the lane's fill took effect. -/
def execFfill (x : FmtMA) (s : State) : Host.Outcome State Fault Refusal :=
  issue (.ffill x) s fun n h g r => atomEff s n h g r x 8 (some (predCls h.u)) fun l => .fill (g.src h.u x.b.toNat l)
def execFreset (x : FmtMA) (s : State) : Host.Outcome State Fault Refusal :=
  issue (.freset x) s fun n h g r => atomEff s n h g r x 8 none fun _ => .clear

/-- A location of a wait: its lane, places, key, what its home holds, poisoned. -/
structure Seen where
  lane : Fin 32
  ps   : List PLoc
  key  : KeyRef
  val  : W64
  bad  : Bool
  deriving DecidableEq, Repr

/-- Bytes read at the place of R96 for a scope. -/
def placeRead (s : State) (c : CoreId) (asid : Asid) (key : KeyRef) (sco : BitVec 3) (ps : List PLoc) :
    (W64 × Bool) × State :=
  let ((bs, bad), s) := readBytes (fun s t base => atomSector s c t base key asid sco) s none ps
  ((BitVec.ofNat 64 (natLE bs), bad), s)
/-- Locations resolved and read in turn; the first that cannot be resolved ends it. -/
def seeAll (w : Fin 32 → Who) (t : Team) (e : Ent) (sco : BitVec 3) (size : Nat) :
    State → List (Fin 32 × Nat) → Except AccFail (List Seen) × State
  | s, [] => (.ok [], s)
  | s, (l, u) :: r =>
    match resolveAll s (w l).core t.asid e .read true (placesOf (w l) (LRec.pb t.lrec) e u size) with
    | (.error f, s) => (.error f, s)
    | (.ok ps, s) =>
      let key := keyRef s e
      let ((v, bad), s) := placeRead s (w l).core t.asid key sco ps
      match seeAll w t e sco size s r with
      | (.error f, s) => (.error f, s)
      | (.ok xs, s) => (.ok (⟨l, ps, key, v, bad⟩ :: xs), s)

/-- A wait whose location cannot be resolved: it waits for the fault's answer, or its context faults. -/
def waitStopped (s : State) (c : CoreId) (n : Slot) (lh : BitVec 6) : AccFail → State
  | .page va ty => awaitFault (s.modGrp c n fun g => { g with block := .polling }) c n va ty 2
  | .remote node => contextFault (s.modGrp c n fun g => { g with block := .parked }) (s.team c (s.grp c n).team).asid 0x10
      { groupRec s c n 9 0x42 0 with node := node, lh := lh.toNat }

/-! ## Wait tables (R122) -/

/-- The line of a place. -/
def PLoc.line (p : PLoc) : Nat := p.addr / 256
/-- The entry occupies its table: it was given room, and its cell has not been found full. -/
def WaitEnt.parked (w : WaitEnt) : Bool := !w.recheck && w.seen.isNone
/-- Entries parked in the tables of a die's L2 slice. -/
def sliceCount (s : State) (d : Fin 4) (slice : Nat) : Nat :=
  ((List.finRange 64).filter fun c => dieOf c = d).foldl (fun n c =>
    n + ((s.cores[c].ctx.waits).filter fun w => w.parked && (w.ps.head?.any fun p => !uncached p.tgt && p.line % 16 == slice)).length) 0
/-- Watches of a memory stack: pairs of die and line. -/
def stackWatches (s : State) (stack : Nat) : List (Nat × Nat) :=
  ((List.finRange 64).flatMap fun c => (s.cores[c].ctx.waits).filterMap fun w =>
    match w.ps with
    | p :: _ => if w.parked && 3 ≤ w.sco.toNat && !uncached p.tgt && p.addr / 4096 % 8 = stack then some (c.val / 16, p.line) else none
    | [] => none).eraseDups
/-- A location finds room where it would park; HOSTMEM never does. -/
def waitRoom (s : State) (c : CoreId) (sco : BitVec 3) : List PLoc → Bool
  | [] => false
  | p :: _ =>
    match p.tgt with
    | .host => false
    | .shared .. | .wbuf .. | .xbuf .. | .ybuf .. =>
      ((s.cores[c].ctx.waits).filter fun w => w.parked && (w.ps.head?.any fun q => uncached q.tgt && q.tgt != .host)).length < 128
    | _ =>
      sliceCount s (dieOf c) (p.line % 16) < 1024
      && (sco.toNat < 3 || (let l := stackWatches s (p.addr / 4096 % 8)
            l.contains (c.val / 16, p.line) || l.length < 4096))

/-- Entries parked one by one, each where it finds room. -/
def parkAll (s : State) (c : CoreId) (n : Slot) (l : List WaitEnt) : State :=
  let s := s.modCtx c fun x => { x with waits := x.waits.filter fun w => w.idx != n }
  let s := l.foldl (fun s e => s.modCtx c fun y => { y with
    waits := y.waits ++ [{ e with idx := n, recheck := e.seen.isNone && !waitRoom s c e.sco e.ps }] }) s
  s.modGrp c n fun g => { g with block := .parked }
/-- The entries of a group released, its block changed. -/
def unpark (s : State) (c : CoreId) (n : Slot) (b : Block) : State :=
  (s.modCtx c fun x => { x with waits := x.waits.filter fun w => w.idx != n }).modGrp c n fun g => { g with block := b }
/-- A wait that looks again at its group's next turn; e: the entry it has captured (R70). -/
def waitAgain (s : State) (n : Slot) (e : Ent) : State := s.modGrp s.core n fun g => { g with cap := some e, block := .polling }

/-! ## FWAIT and WAITA (R274, R276) -/

/-- POISON at a wait (R255): no register is named. -/
def waitPoison (lane : Option (Fin 32)) : Trap := { cause := 0x1D, lane := lane }

/-- The cells of an FWAIT, each with the lanes that name it; a full or poisoned one is found as it stands. -/
def cellEntries (n : Slot) (sco : BitVec 3) (l : List Seen) : List WaitEnt :=
  ((l.map (·.ps)).eraseDups).filterMap fun ps => match l.filter fun y => y.ps == ps with
    | [] => none
    | y :: r => some { idx := n, lanes := (y :: r).map (·.lane), ps := ps, key := y.key, sco := sco, recheck := false
                       seen := if y.bad || cellFull y.val then some (y.val, y.bad) else none }
/-- The lowest lane of the cells found so, and what its cell held. -/
def lowCell (l : List WaitEnt) (p : W64 × Bool → Bool) : Option (Fin 32 × W64) :=
  (l.flatMap fun e => match e.seen with | some v => if p v then e.lanes.map fun l => (l, v.1) else [] | none => []).foldl
    (fun m y => match m with | some z => if y.1 < z.1 then some y else some z | none => some y) none
/-- A cell found failed or poisoned ends the wait at once; else every cell must be found. -/
def cellsDone (l : List WaitEnt) : Bool :=
  l.any (fun e => e.seen.any fun v => v.2 || (cellFull v.1 && cellErr v.1)) || l.all (·.seen.isSome)
/-- The end of an FWAIT whose cells are done: poison, ASYNC_FAULT of the lowest failing lane's cell, or the values. -/
def fwaitEnd (s : State) (n : Slot) (h : Hd) (g : Group) (x : FmtMA) (l : List WaitEnt) : Eff :=
  match lowCell l (·.2), lowCell l fun v => cellErr v.1 with
  | some y, _ => .trap (waitPoison (named h y.1)) false
  | none, some y =>
    let code := (y.2.extractLsb' 40 8).setWidth 32
    let k := y.2.setWidth 32
    .async (if code = 0x03 then delivered s (teamOf s g).asid fun _ f => f.flog == k else s)
      { cause := 0x1C, lane := named h y.1, x1 := x.lh.setWidth 32, x2 := code, x3 := k }
  | none, none =>
    let acq := acqOf x.ord x.sco
    let s := if acq.isSome then joinPersists s (l.flatMap fun e => (e.ps.take 1).map .cell) (g.uid, g.epoch) else s
    .long (acqWork (unpark s s.core n .free) s.core acq)
      { sb := 7, kind := .done
        writes := l.flatMap fun e => e.lanes.flatMap fun l => match e.seen with
          | some v => wordWrites (dstCls h.u) x.d.toNat l false [v.1.setWidth 32]
          | none => [] }

/-- The entries of a parked group. -/
def waitsOf (s : State) (c : CoreId) (n : Slot) : List WaitEnt := (s.cores[c].ctx.waits).filter fun w => w.idx == n

/-- FWAIT: its cells are read once no earlier acquire of the group is open (R89); those that are full stay found. -/
def execFwait (x : FmtMA) (s : State) : Host.Outcome State Fault Refusal :=
  issue (.fwait x) s fun n h g r =>
    match g.block with
    | .released _ => fwaitEnd s n h g x (waitsOf s s.core n)
    | _ =>
      let e := g.cap.getD (entryOf s g x.lh)
      match lanesVia s n h g r .atomic (aref x 8) e fun _ => .cctl 0 with
      | .error t => .trap t false
      | .ok accs =>
        let s := s.modGrp s.core n fun g => { g with cap := some e }
        if g.acqPending then .ended (waitAgain s n e)
        else match seeAll (whoOf s n g) (teamOf s g) e x.sco 8 s (accs.map fun a => (a.lane, a.u)) with
          | (.error f, s) => .ended (waitStopped s s.core n x.lh f)
          | (.ok l, s) =>
            let ents := cellEntries n x.sco l
            if cellsDone ents then fwaitEnd s n h g x ents else .ended (parkAll s s.core n ents)

/-- The number of locations of a WAITA. -/
def waitCount (x : FmtMA) : Nat := (x.op.extractLsb' 0 2).toNat + 1
/-- The offset of location i through an entry (R276). -/
def waitAt (s : State) (n : Slot) (h : Hd) (g : Group) (x : FmtMA) (e : Ent) (i : Nat) : Except Trap Nat :=
  locate s (teamOf s g) (whoOf s n g 0) .atomic x.lh.toNat e
    (g.coords h.u (x.cr.toNat + i * (x.dm.toNat + 1)) (x.dm.toNat + 1) 0) 0 4 none

def execWaita (x : FmtMA) (s : State) : Host.Outcome State Fault Refusal :=
  issue (.waita x) s fun n h g _ =>
    let fire : State → BitVec 2 → Eff := fun s k => .long (unpark s s.core n .free)
      { sb := 7, kind := .done, writes := [.s (x.d.setWidth 6) (k.setWidth 32) false] }
    match g.block with
    | .released k => fire s k
    | _ =>
      let e := g.cap.getD (entryOf s g x.lh)
      match allOk (waitAt s n h g x e) (List.range (waitCount x)) with
      | .error t => .trap t false
      | .ok us =>
        let s := s.modGrp s.core n fun g => { g with cap := some e }
        if g.acqPending then .ended (waitAgain s n e)
        else match seeAll (whoOf s n g) (teamOf s g) e x.sco 4 s (us.map fun u => (0, u)) with
          | (.error f, s) => .ended (waitStopped s s.core n x.lh f)
          | (.ok l, s) =>
            let want : Nat → W32 := fun i => g.rdS (x.b.toNat + i)
            if l.any Seen.bad then .trap (waitPoison none) false
            else match l.zipIdx.find? fun y => y.1.val.setWidth 32 != want y.2 with
              | some y => fire s (BitVec.ofNat 2 y.2)
              | none => .ended (parkAll s s.core n (l.zipIdx.map fun y =>
                  { idx := n, ps := y.1.ps, key := y.1.key, sco := x.sco, index := BitVec.ofNat 2 y.2, expect := some (want y.2)
                    recheck := false }))

/-! ## Waking (R122, R123) -/

/-- The lowest index of a list of entries. -/
def lowIndex (l : List WaitEnt) : Option (BitVec 2) :=
  l.foldl (fun m w => match m with
    | none => some w.index
    | some k => if w.index.toNat < k.toNat then some w.index else some k) none

/-- WATCHED_WRITE_WAKE: writes have been performed at parked locations: a WAITA goes on with the lowest index of the first
of them, an FWAIT once its cells are done. -/
def execWatchedWriteWake (c : CoreId) (n : Slot) (s : State) : Host.Outcome State Fault Refusal :=
  let l := waitsOf s c n
  if (s.grp c n).block != .parked || l.isEmpty then .next s
  else if l.any (·.expect.isSome) then
    match lowIndex (l.filter (·.fired)) with
    | some k => .next (unpark s c n (.released k))
    | none => .next s
  else if cellsDone l then .next (s.modGrp c n fun g => { g with block := .released 0 })
  else .next s

/-- An entry without table room reads its location at the home again. -/
def recheckEnt (c : CoreId) (asid : Asid) (s : State) (w : WaitEnt) : (WaitEnt × W64 × Bool) × State :=
  let ((v, bad), s) := placeRead s c asid w.key w.sco w.ps
  ((if w.expect.isNone && (bad || cellFull v) then { w with seen := some (v, bad), recheck := false } else w, v, bad), s)
/-- Entries read again in turn. -/
def recheckAll (c : CoreId) (asid : Asid) : State → List WaitEnt → List (WaitEnt × W64 × Bool) × State
  | s, [] => ([], s)
  | s, w :: r =>
    if !w.recheck then let (l, s) := recheckAll c asid s r; ((w, 0, false) :: l, s)
    else
      let (y, s) := recheckEnt c asid s w
      let (l, s) := recheckAll c asid s r
      (y :: l, s)

/-- WAIT_RECHECK: a waiter that found no table room reads its locations again: an FWAIT's full cells are found; a WAITA
fires where a value differs, and takes its poison at its own turn (R255). -/
def execWaitRecheck (c : CoreId) (n : Slot) (s : State) : Host.Outcome State Fault Refusal :=
  let l := waitsOf s c n
  if !l.any (·.recheck) || (s.grp c n).block != .parked then .next s
  else
    let (l, s) := recheckAll c (s.team c (s.grp c n).team).asid s l
    let ents := l.map (·.1)
    if ents.any (·.expect.isSome) then
      if l.any (·.2.2) then .next (unpark s c n .polling)
      else match lowIndex ((l.filter fun y => y.1.recheck && some (y.2.1.setWidth 32) != y.1.expect).map (·.1)) with
        | some k => .next (unpark s c n (.released k))
        | none => .next s
    else
      let s := s.modCtx c fun x => { x with waits := x.waits.filter (fun w => w.idx != n) ++ ents }
      .next (if cellsDone ents then s.modGrp c n fun g => { g with block := .released 0 } else s)

end Sys2Proof.Machine
end

