-- ==== Sys2Proof/Machine/Snapshot.lean ====
section
/-! DEFINITION. Starting the capture of a step snapshot (R288, R410 to R412), manifests (R414). -/

namespace Sys2Proof.Machine
open Sys2Proof

/-- Bits of a configuration block. -/
def cfgBits (c : Vector W64 24) (lo n : Nat) : Nat := ((List.range 24).foldl (fun a i => a + (vat c i).toNat <<< (64 * i)) 0 >>> lo) % 2 ^ n
/-- NREG, SELF, and member i. -/
def cfgNreg (c : Vector W64 24) : Nat := cfgBits c 48 4
def cfgSelf (c : Vector W64 24) : Nat := cfgBits c 52 4
def cfgMember (c : Vector W64 24) (i : Nat) : Nat := cfgBits c (64 + 16 * i) 16
/-- Base and data length of region i. -/
def cfgBase (c : Vector W64 24) (i : Nat) : Nat := cfgBits c (512 + 128 * i) 64
def cfgLen (c : Vector W64 24) (i : Nat) : Nat := cfgBits c (576 + 128 * i) 64
/-- Data bytes of every region (R411). -/
def cfgTotal (c : Vector W64 24) : Nat := (List.range (cfgNreg c)).foldl (fun a i => a + cfgLen c i) 0
/-- D: the smallest multiple of 7 whose chunks hold the image (R411). -/
def imageChunks (bytes : Nat) : Nat := 7 * ((bytes + 7 * 196608 - 1) / (7 * 196608))
/-- Data bytes of a slot. -/
def slotBytes (d : Nat) : Nat := 192 + 196608 * (8 * d / 7)

/-- A line of a region in the local memory of its context: DRAM or the persistent tier. -/
def regionLine (s : State) (asid : Asid) (va : Nat) : Option PLoc :=
  match walkTranslate s asid va .read 0 with
  | .ok pa => some ⟨.dram, pa⟩
  | .error _ => match walkTranslate s asid va .read 1 with
    | .ok pa => some ⟨.pst, pa⟩
    | .error _ => none
/-- The lines of region i, or none when one of them is not there. -/
def regionLines (s : State) (asid : Asid) (c : Vector W64 24) (i : Nat) : Option (List PLoc) :=
  (List.range (cfgLen c i / 192)).foldr (fun k r =>
    match r, regionLine s asid (cfgBase c i + 256 * k) with
    | some l, some p => some (p :: l)
    | _, _ => none) (some [])

/-- The first field that fails the conditions of R410, by its bit offset. -/
def cfgFault (s : State) (asid : Asid) (c : Vector W64 24) : Option Nat :=
  if cfgBits c 0 48 ≠ 0 then some 0
  else if cfgNreg c < 1 || 8 < cfgNreg c then some 48
  else if cfgBits c 56 8 ≠ 1 then some 56
  else match (List.range 16).find? fun i => 16384 ≤ cfgMember c i || (i = cfgSelf c && cfgMember c i ≠ s.hub.node.toNat)
      || (List.range i).any fun j => cfgMember c j = cfgMember c i with
  | some i => some (64 + 16 * i)
  | none =>
    if cfgBits c 377 7 ≠ 0 then some 320
    else if cfgBits c 384 64 < 2 * slotBytes (imageChunks (cfgTotal c)) then some 384
    else if cfgBits c 448 64 ≠ 0 then some 448
    else (List.range (cfgNreg c)).findSome? fun i =>
      if cfgBase c i % 256 ≠ 0 || 2 ^ 57 ≤ cfgBase c i then some (512 + 128 * i)
      else if cfgLen c i = 0 || cfgLen c i % 3072 ≠ 0 || 2 ^ 40 ≤ cfgLen c i then some (576 + 128 * i)
      else if (regionLines s asid c i).isNone then some (512 + 128 * i) else none

/-- n bytes of a capture's slot from data offset u; a byte whose page is not mapped reads as zero; none where a sector is
poisoned, as all of a failed stack are (R404). -/
def slotBytesAt (s : State) (c : Capture) (u n : Nat) : Option (List Byte) :=
  (List.range n).foldr (fun i l =>
    match l, walkTranslate s c.asid (captureVa c (u + i)) .read 1 with
    | some l, .ok pa => if homePoison s .pst (sectorBase pa) then none else some (Memory.get s.mem.pst pa :: l)
    | some l, .error _ => some (0 :: l)
    | none, _ => none) (some [])
/-- The manifest of a slot when its CRC checks (R414). -/
def manifestBytes (s : State) (c : Capture) : Option (List Byte) :=
  (slotBytesAt s c 0 192).filter fun b => crc32c (b.take 188) == wordLE (b.drop 188)
/-- Its STEP. -/
def manifestStep (s : State) (c : Capture) : Option Nat := (manifestBytes s c).map fun b => natLE (b.take 8)

/-- A capture of a grid's step, in a slot, not yet armed. -/
def newCapture (g : Grid) (c : Vector W64 24) (n : W32) (slot : Nat) (place : List PLoc) : Capture :=
  { step := n, grid := g.id, asid := g.asid, cfg := c, slot := slot, place := place }
/-- The slot that does not hold the highest step whose manifest is valid; slot 0 when neither is (R412). -/
def captureSlot (s : State) (g : Grid) (c : Vector W64 24) : Nat :=
  match manifestStep s (newCapture g c 0 0 []), manifestStep s (newCapture g c 0 1 []) with
  | none, _ => 0
  | some _, none => 1
  | some a, some b => if b < a then 1 else 0

/-- SNAP n for a grid: nothing while a capture of n or of a later step is under way, whichever grid asked for it (R288); the
trap of an invalid configuration, or whether capture starts, and the state. -/
def snapRequest (s : State) (g : Grid) (n : W32) : Except Trap (Bool × State) :=
  if g.snap.any (fun m => n.toNat ≤ m.toNat) || s.hub.capture.any (fun c => n.toNat ≤ c.step.toNat) then .ok (false, s)
  else
    let cfg := match g.snapCfg with
      | some c => some c
      | none => (contextBytes s g.asid (LRec.snapCfg g.lrec) 0 192 .read).map fun bs =>
          Vector.ofFn fun i => BitVec.ofNat 64 (natLE ((bs.drop (8 * i.val)).take 8))
    match cfg with
    | none => .error { cause := 0x25 }
    | some c =>
      match if g.snapCfg.isSome then none else cfgFault s g.asid c with
      | some k => .error { cause := 0x25, x1 := w32 k }
      | none =>
        let place := (List.range (cfgNreg c)).flatMap fun i => (regionLines s g.asid c i).getD []
        let s := s.modGrid g.id fun x => { x with snap := some n, snapCfg := some c }
        .ok (true, s.modHub fun h => { h with capture := some (newCapture g c n (captureSlot s g c) place) })

end Sys2Proof.Machine
end

