-- ==== Sys2Proof/Machine/Sync.lean ====
section
/-! DEFINITION. Synchronisation instructions (R278 to R288) and the release of barrier waves (R428). -/

namespace Sys2Proof.Machine
open Sys2Proof

/-! ## Barriers -/

/-- The barrier a word names (R278). -/
def barNo (x : FmtR) (g : Group) : BitVec 7 :=
  if x.lo.b23 then (g.rdS x.a.toNat).extractLsb' 0 7 else x.a.extractLsb' 0 7
/-- A refused datum: ILLEGAL_FIELD at the word (R289). -/
def dataTrap (r : Run) : Trap := wordTrap 0x02 (r.words.getD r.idx 0)

/-- Faults that can no longer be delivered through a barrier: it has been set up anew. -/
def unlinkBar (s : State) (t : Team) (n : BitVec 7) : State :=
  let clear : GridFault → GridFault := fun f => if f.bar == some (Team.linear t, n) then { f with bar := none } else f
  s.modGrid t.grid fun g => { g with faults := g.faults.map clear }

/-- BARI (R115, R279). -/
def execBari (x : FmtR) (s : State) : Host.Outcome State Fault Refusal :=
  issue (.bari x) s fun _ _ g r =>
    let n := barNo x g
    let b := (teamOf s g).bar n
    let mode : BitVec 2 := x.lo.m.extractLsb' 0 2
    let exp : BitVec 12 := (g.rdS x.b.toNat).extractLsb' 0 12
    let arr : BitVec 12 := (g.rdS x.c.toNat).extractLsb' 0 12
    if !(teamOf s g).hasBar n then .trap (barRange n) false
    else if (mode.toNat ≤ 1 && (exp == 0 || exp.toNat ≤ arr.toNat)) || (mode == 2 && exp.toNat < arr.toNat) then
      .trap (dataTrap r) false
    else if !b.waiters.isEmpty || b.pend != 0 then .trap (barTrap 0x11 n b) false
    else .short ((unlinkBar s (teamOf s g) n).modBar s.core g.team n fun b =>
      { b with err := false, ecode := 0, flog := 0, mode := mode, phase := x.lo.m.getLsbD 2, pend := 0, arr := arr, exp := exp })

/-- k and x of an arrival (R280). -/
def arriveK (x : FmtR) (g : Group) : BitVec 12 := if x.lo.b22 then (g.rdS x.b.toNat).extractLsb' 0 12 else 1
def arriveX (x : FmtR) (g : Group) : BitVec 24 := if x.lo.b21 then (g.rdS x.c.toNat).extractLsb' 0 24 else 0

/-- BARA (R280): the arrival follows its release, and every release and acquire of the group before it (R88, R89). -/
def execBara (x : FmtR) (s : State) : Host.Outcome State Fault Refusal :=
  issue (.bara x) s fun _ _ g _ =>
    let n := barNo x g
    let b := (teamOf s g).bar n
    if !(teamOf s g).hasBar n then .trap (barRange n) false
    else if arriveX x g != 0 && b.mode != 1 then .trap (barTrap 0x12 n b) false
    else
      .long s { sb := 7, kind := .act (.arrive n (arriveK x g) (arriveX x g)), rel := relOf (hiOrd x.h) (hiSco x.h) }

/-- A satisfied wait: with an acquire, what it observed is joined (R101, R103); its acquire part is applied, and it ends. -/
def waitMet (s : State) (g : Group) (bar : BitVec 7) (acq : Option (BitVec 3)) : Eff :=
  let s := if acq.isSome then joinPersists s [.bar s.core g.team bar] (g.uid, g.epoch) else s
  .long (acqWork s s.core acq) { sb := 7, kind := .done }
/-- A wait parked at its barrier. -/
def parkAt (s : State) (n : Slot) (g : Group) (bar : BitVec 7) (need : BarNeed) : State :=
  (s.modBar s.core g.team bar fun b => { b with waiters := b.waiters ++ [(.grp n, need)] }).modGrp s.core n fun g =>
    { g with block := .parked }
/-- A wait that looks again at its group's next turn. -/
def pollAgain (s : State) (n : Slot) : State := s.modGrp s.core n fun g => { g with block := .polling }
/-- ASYNC_FAULT of an object that failed while the group waited on it. -/
def asyncTrap (x1 x2 x3 : W32) : Trap := { cause := 0x1C, x1 := x1, x2 := x2, x3 := x3 }

/-- ASYNC_FAULT at a barrier of the team. -/
def barFault (s : State) (t : Team) (n : BitVec 7) (x : Trap) : Eff :=
  .async (delivered s t.asid fun g f => g.id == t.grid && f.bar == some (Team.linear t, n)) x

/-- A wait checked, parked or ended (R118, R281). -/
def barWait (s : State) (n : Slot) (g : Group) (bar : BitVec 7) (need : BarNeed) (acq : Option (BitVec 3)) : Eff :=
  let b := (teamOf s g).bar bar
  match b.check need with
  | .mode => .trap (barTrap 0x12 bar b) false
  | .failed => barFault s (teamOf s g) bar (barAsync bar b)
  | .met b' => waitMet (s.modBar s.core g.team bar fun _ => b') g bar acq
  | .park => .ended (parkAt s n g bar need)

/-- What a BARW needs (R281). -/
def barwNeed (x : FmtR) (g : Group) : BarNeed :=
  let p := if x.lo.m.getLsbD 2 then (g.rdS x.c.toNat).getLsbD 0 else x.lo.m.getLsbD 0
  if x.lo.b22 then .count ((g.rdS x.b.toNat).extractLsb' 0 12)
  else if x.lo.b21 then .thr ((g.rdS x.b.toNat).extractLsb' 0 12) p
  else .phase p

def execBarw (x : FmtR) (s : State) : Host.Outcome State Fault Refusal :=
  issue (.barw x) s fun n _ g _ =>
    let bar := barNo x g
    let acq := acqOf (hiOrd x.h) (hiSco x.h)
    if !(teamOf s g).hasBar bar then .trap (barRange bar) false
    else match g.block with
      | .released _ => waitMet s g bar acq
      | .failed x1 x2 x3 => barFault s (teamOf s g) bar (asyncTrap x1 x2 x3)
      | _ => if g.acqPending then .ended (pollAgain s n) else barWait s n g bar (barwNeed x g) acq

/-- BARS (R118, R280): its release first, then its arrival, behind every release and acquire of the group before it, then the
wait for the phase it saw. -/
def execBars (x : FmtR) (s : State) : Host.Outcome State Fault Refusal :=
  issue (.bars x) s fun n _ g _ =>
    let bar := barNo x g
    let t := teamOf s g
    let b := t.bar bar
    let acq := acqOf (hiOrd x.h) (hiSco x.h)
    let rel := relOf (hiOrd x.h) (hiSco x.h)
    if !t.hasBar bar then .trap (barRange bar) false
    else match g.block with
      | .released _ => waitMet s g bar acq
      | .failed x1 x2 x3 => barFault s (teamOf s g) bar (asyncTrap x1 x2 x3)
      | _ =>
        if b.mode = 2 then .trap (barTrap 0x12 bar b) false
        else if (rel.isSome && g.memPending) || g.relPending || g.acqPending then .ended (pollAgain s n)
        else if b.err then barFault s t bar (barAsync bar b)
        else
          let s := relWork s s.core t.asid rel
          let k := arriveK x g
          let s := if k = 0 then s else updateBar s s.core g.team bar (.arrive k 0)
          let b' := (s.team s.core g.team).bar bar
          if b'.err then .ended (s.modGrp s.core n fun g => { g with block := .failed (bar.setWidth 32) (b'.ecode.setWidth 32) b'.flog })
          else if b'.phase != b.phase then waitMet s g bar acq
          else .ended (parkAt s n g bar (.phase b.phase))

/-- BARQ (R282). -/
def execBarq (x : FmtR) (s : State) : Host.Outcome State Fault Refusal :=
  issue (.barq x) s fun n _ g _ =>
    let bar := barNo x g
    let w := ((teamOf s g).bar bar).word
    if !(teamOf s g).hasBar bar then .trap (barRange bar) false
    else .short (s.modGrp s.core n fun g =>
      (g.wrS x.d.toNat (w.setWidth 32)).wrS (x.d.toNat + 1) ((w >>> 32).setWidth 32))

/-- The next wave of a barrier's freed waiters (R119, R428): of the size fixed when the phase completed, at a slot boundary
after the slot of the wave before. -/
def execBarrierWaveRelease (c : CoreId) (t : Slot) (n : BitVec 7) (s : State) : Host.Outcome State Fault Refusal :=
  let b := (s.team c t).bar n
  let now := s.cycles c
  if 96 ≤ n.toNat || b.waves.isEmpty || now % 64 ≠ 0 || now / 64 ≤ b.waveAt then .next s
  else .next (wakeWave (s.modBar c t n fun b => { b with waves := b.waves.drop b.waveN, waveAt := now / 64 }) c b.waveI
    (b.waves.take b.waveN))

/-! ## Fences (R284 to R287) -/

/-- FENCE: in the group's memory order, a release, an acquire or both. -/
def execFence (x : FmtR) (s : State) : Host.Outcome State Fault Refusal :=
  issue (.fence x) s fun _ _ _ _ =>
    .long s { sb := 7, kind := .act .fence, rel := relOf (hiOrd x.h) (hiSco x.h), acq := acqOf (hiOrd x.h) (hiSco x.h) }

/-- PFENCE (R105, R285): the group's later persists belong to the next part of its set. -/
def execPfence (x : FmtR) (s : State) : Host.Outcome State Fault Refusal :=
  issueRegs (.pfence x) s fun _ g _ => { g with epoch := g.epoch + 1 }

/-- Sectors of group u's persist set that have not persisted, beside those of unfinished operations (R106). -/
def openPersists (s : State) (u : Nat) : List Nat :=
  let mine : List (Nat × Nat) → Bool := fun l => l.any fun x => x.1 == u
  ((s.mem.pwait.filter fun w => mine w.sets || mine w.joins).map (·.base))
  ++ (if s.hub.pdconf then [] else s.mem.queues.toList.flatMap fun q => (q.filter fun w => mine w.sets || mine w.joins).map (·.base))
  ++ (s.cores.toList.flatMap fun k => (k.wcb.filter fun x => x.tgt == .pst && mine x.sets).map (·.base))

/-- PSYNC (R106, R286): it waits until the set has persisted; a failed stack traps. -/
def execPsync (x : FmtR) (s : State) : Host.Outcome State Fault Refusal :=
  issue (.psync x) s fun n _ g _ =>
    let s := admitPersists s
    let l := openPersists s g.uid
    match l.find? fun b => (s.hub.pstacks[stackOf b]).state == 3 with
    | some b => .trap { cause := 0x23, x1 := w32 (stackOf b).val } false
    | none =>
      if !s.pfail && l.isEmpty && !persistOpen s [] g.uid (g.epoch + 1) then .long s { sb := 7, kind := .done }
      else .ended (pollAgain s n)

/-- STEP_ORDER (R397). -/
def stepTrap (n cur : W32) : Trap := { cause := 0x24, x1 := n, x2 := cur }

/-- STEP.CLOSE (R109, R287): the step value changes at issue; the release at DOM follows, and until it is done the group's
later accesses are held, as by an acquire of its own group. -/
def execStepClose (x : FmtR) (s : State) : Host.Outcome State Fault Refusal :=
  issue (.stepClose x) s fun _ _ g _ =>
    let n := g.rdS x.a.toNat
    let t := teamOf s g
    if n != t.step then .trap (stepTrap n t.step) false
    else .long (s.modTeam s.core g.team fun t => { t with step := n + 1 })
      { sb := 7, kind := .act (.close n), rel := some 4, acq := some 0 }

/-- SNAP (R288). -/
def execSnap (x : FmtR) (s : State) : Host.Outcome State Fault Refusal :=
  issue (.snap x) s fun n _ g _ =>
    let k := g.rdS x.a.toNat
    let t := teamOf s g
    if !LRec.snap t.lrec then .trap { cause := 0x25 } false
    else if t.step.toNat ≤ k.toNat then .trap (stepTrap k t.step) false
    else match s.grid? t.grid with
      | none => .short (s.modGrp s.core n fun g => g.wrQ x.d.toNat false)
      | some gr => match snapRequest s gr k with
        | .error t => .trap t false
        | .ok (b, s) => .short (s.modGrp s.core n fun g => g.wrQ x.d.toNat b)

end Sys2Proof.Machine
end

