-- ==== Sys2Proof/Machine/Rings.lean ====
section
/-! DEFINITION. Rings (R124, R125, R305 to R308): their state, the moves of both sides, and where their entries lie. -/

namespace Sys2Proof.Machine
open Sys2Proof

/-- Full entries. -/
def Ring.full (r : Ring) : Nat := (r.pp - r.cp).toNat
/-- Free entries. -/
def Ring.free (r : Ring) : Nat := r.size - r.full
/-- The 64-bit state of R124. -/
def Ring.word (r : Ring) : W64 :=
  (0 : BitVec 2) ++ BitVec.ofBool r.pra ++ BitVec.ofBool r.cna ++ r.lh ++ r.cnt ++ r.esz ++ (0 : BitVec 3)
    ++ BitVec.ofBool r.val ++ r.pp ++ r.cp
/-- The ring has full entries or array reservations. -/
def Ring.busy (r : Ring) : Bool := r.val && (r.full != 0 || r.resIn != 0 || r.resOut != 0)

/-- A ring of a team. -/
def Team.ring (t : Team) (k : BitVec 3) : Ring := t.rings[k.toFin]
/-- The team has this ring. -/
def Team.hasRing (t : Team) (k : BitVec 3) : Bool := k.toNat < LRec.nrings t.lrec
/-- A ring trap: ring and n (R397). -/
def ringTrap (cause : BitVec 8) (k : BitVec 3) (n : Nat) : Trap := { cause := cause, x1 := k.setWidth 32, x2 := w32 n }

/-- A `.WAIT` condition holds. -/
def Ring.waitMet (r : Ring) (put : Bool) (n : Nat) : Bool := if put then n ≤ r.free else n ≤ r.full
/-- A ring changed; waiting instructions of the team's groups that it satisfies complete. -/
def modRing (s : State) (c : CoreId) (t : Slot) (k : BitVec 3) (f : Ring → Ring) : State :=
  let r := f ((s.team c t).ring k)
  let s := s.modTeam c t fun x => { x with rings := vset x.rings k.toFin r }
  let fin : Out → Out := fun o => match o.kind with
    | .ring put j n => if j = k && r.waitMet put n then { o with kind := .done } else o
    | _ => o
  s.modCtx c fun x => { x with groups := x.groups.map fun g =>
    if g.resident && g.team == t && !g.out.isEmpty then { g with out := g.out.map fin } else g }

/-- The checks of an agent's move on its side (R125): range, role; over: more than the side holds. -/
def ringCheck (t : Team) (k : BitVec 3) (n : Nat) (put : Bool) (move : Bool) : Option Trap :=
  let r := t.ring k
  if !t.hasRing k || !r.val then some (ringTrap 0x14 k n)
  else if (if put then r.pra else r.cna) then some (ringTrap 0x15 k n)
  else if move && (if put then r.free else r.full) < n then some (ringTrap 0x17 k n)
  else none
/-- A side's pointer moved by n. -/
def advanceRing (s : State) (c : CoreId) (t : Slot) (k : BitVec 3) (put : Bool) (n : Nat) : State :=
  if n = 0 then s
  else modRing s c t k fun r =>
    if put then { r with pp := r.pp + BitVec.ofNat 16 n } else { r with cp := r.cp + BitVec.ofNat 16 n }

/-! ## Entries (R125, R67) -/

/-- Bytes of an entry, written. -/
def Ring.write (r : Ring) (t : MTgt) (m : Mem) (j : Nat) (bs : List (Nat × Byte)) : Mem :=
  bs.foldl (fun m x => putByte t m (r.place j x.1) x.2) m

/-! ## Instructions -/

/-- The carve that a word asks for, or its trap (R124, R305). -/
def carve (t : Team) (s : State) (r : Run) (k : BitVec 3) (w : W32) : Except Trap Ring :=
  let lh : BitVec 6 := w.extractLsb' 0 6
  let e := t.ls[lh.toFin]
  let pra := w.getLsbD 25
  let cna := w.getLsbD 24
  let new : Ring := { pra := pra, cna := cna, lh := lh, cnt := w.extractLsb' 6 6, esz := w.extractLsb' 12 12, val := true, entry := e }
  let sp := entSpace e
  if fieldN w 26 6 ≠ 0 then .error (dataTrap r)
  else if !t.hasRing k then .error (ringTrap 0x14 k 0)
  else if !usable e || !keyOk s t.asid e then .error (layTrap 0x08 lh.toNat)
  else if !(sp == spWbuf || sp == spXbuf || sp == spYbuf) || !(entRights e).getLsbD 0 || !(entRights e).getLsbD 1 then
    .error (layTrap 0x09 lh.toNat)
  else if allocation t sp < entBase e + new.size * new.bytes then .error (boundsTrap lh.toNat 0 0)
  else if (pra && sp != spYbuf) || (cna && sp == spYbuf) || (pra && cna) then .error (ringTrap 0x15 k 0)
  else if (t.ring k).busy then .error (ringTrap 0x16 k 0)
  else .ok new

def execRgset (x : FmtR) (s : State) : Host.Outcome State Fault Refusal :=
  issue (.rgset x) s fun _ _ g r =>
    let k : BitVec 3 := x.a.extractLsb' 0 3
    match carve (teamOf s g) s r k (g.rdS x.b.toNat) with
    | .error t => .trap t false
    | .ok new => .short (modRing s s.core g.team k fun _ => new)
def execRgsetClr (x : FmtR) (s : State) : Host.Outcome State Fault Refusal :=
  issue (.rgsetClr x) s fun _ _ g _ =>
    let k : BitVec 3 := x.a.extractLsb' 0 3
    let t := teamOf s g
    if !t.hasRing k then .trap (ringTrap 0x14 k 0) false
    else if (t.ring k).busy then .trap (ringTrap 0x16 k 0) false
    else .short (modRing s s.core g.team k fun r => { r with val := false })

/-- n of RGPUT and RGGET (R306); a register value above 64 is refused. -/
def ringN (x : FmtR) (g : Group) : Nat := if x.lo.b22 then (g.rdS x.b.toNat).toNat else x.b.toNat

/-- `.WAIT`: the instruction completes when its condition holds. -/
def ringWait (s : State) (t : Team) (k : BitVec 3) (put : Bool) (n : Nat) : Eff :=
  match ringCheck t k n put false with
  | some t => .trap t false
  | none => .long s { sb := 7, kind := if (t.ring k).waitMet put n then .done else .ring put k n }

/-- RGPUT: its release holds issue until the group's earlier accesses are performed. -/
def execRgput (x : FmtR) (s : State) : Host.Outcome State Fault Refusal :=
  issue (.rgput x) s fun _ _ g r =>
    let k : BitVec 3 := x.a.extractLsb' 0 3
    let n := ringN x g
    let t := teamOf s g
    if 64 < n then .trap (dataTrap r) false
    else if x.lo.b23 then ringWait s t k true n
    else if g.memPending then .stall s
    else match ringCheck t k n true true with
      | some t => .trap t false
      | none => .long (advanceRing s s.core g.team k true n) { sb := 7, kind := .done }
/-- RGGET: its advance in its issue cycle; it issues once no earlier release or acquire of the group is open (R88, R306; log
entry 93). -/
def execRgget (x : FmtR) (s : State) : Host.Outcome State Fault Refusal :=
  issue (.rgget x) s fun _ _ g r =>
    let k : BitVec 3 := x.a.extractLsb' 0 3
    let n := ringN x g
    let t := teamOf s g
    if 64 < n then .trap (dataTrap r) false
    else if x.lo.b23 then ringWait s t k false n
    else if g.relPending || g.acqPending then .stall s
    else match ringCheck t k n false true with
      | some t => .trap t false
      | none => .short (advanceRing s s.core g.team k false n)
def execRgqry (x : FmtR) (s : State) : Host.Outcome State Fault Refusal :=
  issue (.rgqry x) s fun n _ g _ =>
    let k : BitVec 3 := x.a.extractLsb' 0 3
    let t := teamOf s g
    let w := (t.ring k).word
    if !t.hasRing k then .trap (ringTrap 0x14 k 0) false
    else .short (s.modGrp s.core n fun g => (g.wrS x.d.toNat (w.setWidth 32)).wrS (x.d.toNat + 1) ((w >>> 32).setWidth 32))

end Sys2Proof.Machine
end

