-- ==== Sys2Proof/Machine/Array.lean ====
section
/-! DEFINITION. Array operations (R126, R141, R142, R181, R183, R293 to R304): issue into the queue, firing, completion. -/

namespace Sys2Proof.Machine
open Sys2Proof

/-! ## Entries (R172, R295) -/

/-- Element e of w bits in a row of bytes, bit offset e × w. -/
def elemBits (f : Nat → Byte) (w e : Nat) : Nat :=
  if 16 ≤ w then natLE ((List.range (w / 8)).map fun i => f (e * w / 8 + i))
  else ((f (e * w / 8)).toNat >>> (e * w % 8)) % 2 ^ w
/-- n bytes that hold elements of w bits densely. -/
def packElems (w n : Nat) (f : Nat → Nat) : List Byte :=
  (List.range n).map fun j =>
    if w < 8 then BitVec.ofNat 8 ((List.range (8 / w)).foldl (fun a i => a + (f (j * (8 / w) + i) % 2 ^ w) <<< (i * w)) 0)
    else BitVec.ofNat 8 (f (j / (w / 8)) >>> (8 * (j % (w / 8))))

/-- Element width of an MXC. -/
def mxcWidth (c : W32) : Nat := (fmtWidth (mxcW c)).getD 8
/-- Block depth KB. -/
def mxcDepth (c : W32) : Nat := if mxcWidth c = 4 then 1024 else 512
/-- The accumulator is FP32 (R294). -/
def mxcFloat (c : W32) : Bool := fmtFloat (mxcW c) || mxcMx c
/-- Bytes of a weight entry without and with its scales. -/
def weightData (c : W32) : Nat := mxcDepth c * 64 * mxcWidth c
def weightBytes (c : W32) : Nat := weightData c + if mxcMx c then mxcDepth c * 16 else 0
/-- Bytes of an activation entry without and with its scales. -/
def actData (c : W32) : Nat := mxcM c * mxcDepth c * mxcWidth c / 8
def actBytes (c : W32) : Nat := actData c + if mxcMx c then mxcM c * mxcDepth c / 32 else 0
/-- Bytes of an accumulator entry. -/
def accBytes (c : W32) : Nat := mxcM c * 2048

/-- Bytes of the input entry that an operation reads, and of the output entry that it needs. -/
def ArrKind.inBytes (k : ArrKind) (c : W32) : Nat :=
  match k with
  | .mxw _ => weightBytes c
  | .mxmm _ _ => actBytes c
  | .mxscan h => 4096 * mxcM c + if h = 2 then 2048 else 0
  | .mxepi .. => 0
  | .mxt => actData c
def ArrKind.outBytes (k : ArrKind) (c : W32) : Nat :=
  match k with
  | .mxw _ => 0
  | .mxt => actData c
  | _ => accBytes c
/-! ## Issue (R296) -/

/-- MX_CONFIG with its code and ring (R397). -/
def mxTrap (code : Nat) (ring : Nat := 0) : Trap := { cause := 0x26, x1 := w32 code, x2 := w32 ring }

/-- The latch of a number. -/
def CtxCore.latch (x : CtxCore) (lt : Bool) : Latch := if lt then x.latch1 else x.latch0
def CtxCore.modLatch (x : CtxCore) (lt : Bool) (f : Latch → Latch) : CtxCore :=
  if lt then { x with latch1 := f x.latch1 } else { x with latch0 := f x.latch0 }

/-- A ring of a team has a held entry once the queue has run. -/
def CtxCore.heldAtTail (x : CtxCore) (t : Slot) (k : BitVec 3) : Bool :=
  match x.arrq.reverse.find? fun a => a.team == t && a.ringOut == some k with
  | some a => !a.pub
  | none => ((x.teams[t]).ring k).held

/-- The checks of R296 in their order. -/
def arrayCheck (x : CtxCore) (t : Slot) (c : W32) (k : ArrKind) (ri ro : Option (BitVec 3)) : Option Trap :=
  let tm := x.teams[t]
  let named := ri.toList ++ ro.toList
  let small : Bool → BitVec 3 → Option Nat := fun inp j =>
    if (tm.ring j).bytes < (if inp then k.inBytes c else k.outBytes c) then some j.toNat else none
  match named.find? fun j => !tm.hasRing j || !(tm.ring j).val with
  | some j => some (ringTrap 0x14 j 0)
  | none =>
    match ri.filter (fun j => !(tm.ring j).cna
          || entSpace (tm.ring j).entry != (match k with | .mxw _ => spWbuf | _ => spXbuf)),
        ro.filter (fun j => !(tm.ring j).pra) with
    | some j, _ => some (ringTrap 0x15 j 0)
    | none, some j => some (ringTrap 0x15 j 0)
    | none, none =>
      if !mxcOk c then some (mxTrap 0 ((named.headD 0).toNat))
      else match (ri.toList.filterMap (small true)) ++ (ro.toList.filterMap (small false)) with
        | j :: _ => some (mxTrap 1 j)
        | [] =>
          match k with
          | .mxmm _ lt => if (x.latch lt).queued == some (c.extractLsb' 0 11) then none else some (mxTrap 2 ((ri.getD 0).toNat))
          | .mxscan _ => if mxcM c = 2 ^ Nat.log2 (mxcM c) then none else some (mxTrap 3 ((ri.getD 0).toNat))
          | .mxepi .. => if x.heldAtTail t (ro.getD 0) then none else some (mxTrap 4 ((ro.getD 0).toNat))
          | _ => none

/-- An operation queued (R126): its MXC and draw captured; a full queue holds the issue. Its fork is a release at TEAM scope
(R100, R102): it stays held until the group's earlier accesses are performed. -/
def arrayIssue (i : Instr) (s : State) (k : ArrKind) (ri ro : Option (BitVec 3)) (pub : Bool) (rm : BitVec 3 := 0) :
    Host.Outcome State Fault Refusal :=
  issue i s fun n _ g _ =>
    let x := s.cores[s.core].ctx
    match arrayCheck x g.team g.mxc k ri ro with
    | some t => .trap t false
    | none =>
      if 32 ≤ (x.arrq.filter fun a => !a.fired).length then .stall s
      else
        let op : ArrOp := { id := x.arrId, kind := k, mxc := g.mxc, pub := pub, ringIn := ri, ringOut := ro
                            team := g.team, idx := n, gid := g.gid, draw := g.srcnt, held := true }
        let s := s.modCtx s.core fun x =>
          let x := { x with arrq := x.arrq ++ [op], arrId := x.arrId + 1 }
          match k with
          | .mxw lt => x.modLatch lt fun l => { l with queued := some (g.mxc.extractLsb' 0 11) }
          | _ => x
        .long (s.modGrp s.core n fun g => g.countSr rm) { sb := 7, kind := .array op.id, rel := some 1 }

/-- A ring field. -/
def ringNo (b : BitVec 8) : BitVec 3 := b.extractLsb' 0 3

def execMxw (x : FmtR) (s : State) : Host.Outcome State Fault Refusal :=
  arrayIssue (.mxw x) s (.mxw x.lo.b22) (some (ringNo x.a)) none false
def execMxmm (x : FmtR) (s : State) : Host.Outcome State Fault Refusal :=
  arrayIssue (.mxmm x) s (.mxmm x.lo.b23 x.lo.b22) (some (ringNo x.a)) (some (ringNo x.b)) x.lo.b21
def execMxscan (x : FmtR) (s : State) : Host.Outcome State Fault Refusal :=
  arrayIssue (.mxscan x) s (.mxscan (BitVec.ofBool x.lo.b23 ++ BitVec.ofBool x.lo.b22)) (some (ringNo x.a))
    (some (ringNo x.b)) x.lo.b21
def execMxepi (x : FmtR) (s : State) : Host.Outcome State Fault Refusal :=
  arrayIssue (.mxepi x) s (.mxepi x.lo.b23 x.lo.b22 x.lo.m (hiFmt x.h)) none (some (ringNo x.b)) x.lo.b21 x.lo.m
def execMxt (x : FmtR) (s : State) : Host.Outcome State Fault Refusal :=
  arrayIssue (.mxt x) s .mxt (some (ringNo x.a)) (some (ringNo x.b)) x.lo.b21

/-! ## Firing (R297, R298) -/

/-- A later operation waits for the completion of an earlier one. -/
def ArrOp.waitsFor (b a : ArrOp) : Bool :=
  (match b.kind, a.kind with
    | .mxw l, .mxmm _ l' => l == l'
    | .mxmm _ l, .mxw l' => l == l'
    | .mxscan h, .mxscan _ => h == 0
    | _, _ => false)
  || (b.ringOut.isSome && b.ringOut == a.ringOut && b.team == a.team)

/-- The operation's rings have its entries. -/
def ArrOp.ringsReady (a : ArrOp) (t : Team) : Bool :=
  (match a.ringIn with | some j => let r := t.ring j; r.resIn + 1 ≤ r.full | none => true)
  && (match a.ringOut with | some j => let r := t.ring j; r.held || r.resOut + 1 ≤ r.free | none => true)

/-- Cover of an operation that drives e eighths at a cycle (R141). -/
def covered (x : CtxCore) (now e : Nat) : Bool := x.hints.any fun w => w.opens ≤ now && now < w.ends && e ≤ w.int

/-- The power manager learns of a start (R424, R427, R142): covered starts stand in order of issue, those of one cycle in
increasing core index (R425). -/
def chargeStart (s : State) (c : CoreId) (asid : Asid) (op e : Nat) (cov : Bool) : State :=
  if e = 0 then s
  else if cov then s.modCluster (clusterOf c) fun k =>
      { k with starts := sortBy (fun x => [x.2.2.2, x.1]) (k.starts ++ [(c.val, op, e, s.cycles c)]) }
  else (s.modCluster (clusterOf c) fun k => { k with soft := k.soft ++ [(e, 8)] }).modCtxRec asid fun r =>
    { r with undecl := if r.undecl = BitVec.allOnes 64 then r.undecl else r.undecl + 1 }

/-- The operation's entries reserved; entry numbers of input and output. -/
def reserveEntries (s : State) (c : CoreId) (a : ArrOp) : State :=
  let t := s.team c a.team
  let inp := (a.ringIn.map fun j => (((t.ring j).cp.toNat + (t.ring j).resIn) % 65536)).getD 0
  let out := (a.ringOut.map fun j => let r := t.ring j
    (r.pp.toNat + if r.held then 0 else r.resOut) % 65536).getD 0
  let s := match a.ringIn with
    | some j => modRing s c a.team j fun r => { r with resIn := r.resIn + 1 }
    | none => s
  let s := match a.ringOut with
    | some j => modRing s c a.team j fun r => if r.held then r else { r with resOut := r.resOut + 1 }
    | none => s
  let cov := covered s.cores[c].ctx (s.cycles c) a.kind.eighths
  let fire : ArrOp → ArrOp := fun b => { b with
    fired := true, firedAt := s.cycles c, entIn := inp, entOut := out, covered := cov, hc0 := some s.cores[c].ctx.hc }
  let s := s.modCtx c fun x => { x with arrq := updFirst (fun b => b.id == a.id) fire x.arrq }
  chargeStart s c t.asid a.id a.kind.eighths cov

/-- ARRAY_OP_FIRE: the first operation that has not fired. -/
def execArrayOpFire (c : CoreId) (s : State) : Host.Outcome State Fault Refusal :=
  let k := s.cores[c]
  let ahead := k.ctx.arrq.takeWhile (·.fired)
  match k.ctx.arrq.drop ahead.length with
  | [] => .next s
  | a :: _ =>
    let m := s.team c a.team
    let stops := k.stopping != .no && !(k.stopping == .groups && s.det c)
    if k.run.isNone || stops || a.held || !m.tbHere || ahead.any a.waitsFor || !a.ringsReady (s.team c a.team) then .next s
    else .next (reserveEntries s c a)

/-! ## Results -/

/-- One step of R181: the block sum s (scaled when MX) added to y. -/
def blockAdd (isFloat : Bool) (y : W32) (s : Num) : W32 :=
  if isFloat then
    let r := fp32.arith rne s
    BitVec.ofNat 32 (fp32.arith rne (Num.add false (fp32.num r.bits) (fp32.num y.toNat)).1).bits
  else satS32 (numInt s + y.toInt)

/-- The exact sum of a block's products; a meeting of infinities or 0 × Inf is NaN. -/
def blockSum (isFloat : Bool) (ts : List (Num × Num)) : Num :=
  let ps := ts.map fun x => Num.mul x.1 x.2
  if isFloat then
    let (v, bad) := Num.sum false (ps.map (·.1))
    if bad || ps.any (·.2) then .nan else v
  else Num.ofInt (ps.foldl (fun a p => a + numInt p.1) 0)

/-- A block sum under two scale codes. -/
def scaleBy (code : Byte) (v : Num) : Num := if code = 0xFF then .nan else v.scale ((code.toNat : Int) - 127)

/-- The loop of R181 for one element: activation row r, weight column n. -/
def mmElem (c : W32) (act wgt : Nat → Byte) (y : W32) (r n : Nat) : W32 :=
  let w := mxcWidth c
  let kb := mxcDepth c
  let val : BitVec 5 → Nat → Num := fun f x => if mxcMx c then mxValue f.toNat x else numOf f.toNat x
  (List.range (kb / 32)).foldl (fun y b =>
    let ts := (List.range 32).map fun i =>
      (val (mxcX c) (elemBits act w (r * kb + (32 * b + i))), val (mxcW c) (elemBits wgt w ((32 * b + i) * 512 + n)))
    let v := blockSum (mxcFloat c) ts
    let v := if mxcMx c then
        scaleBy (wgt (weightData c + n * (kb / 32) + b)) (scaleBy (act (actData c + r * (kb / 32) + b)) v)
      else v
    blockAdd (mxcFloat c) y v) y

/-- The combination of R183. -/
def scanComb (x2 x1 : W32 × W32) : W32 × W32 :=
  let num : W32 → Num := fun x => fp32.num x.toNat
  let put : Num × Bool → W32 := fun v => BitVec.ofNat 32 (fp32.arith rne (if v.2 then .nan else v.1)).bits
  let p := Num.mul (num x2.1) (num x1.2)
  (put (Num.mul (num x2.1) (num x1.1)), put (if p.2 then (.nan, true) else Num.add false p.1 (num x2.2)))
/-- One level of a sweep. -/
def scanLevel (pick : Nat → Bool) (d : Nat) (l : List (W32 × W32)) : List (W32 × W32) :=
  l.zipIdx.map fun (x, i) => if pick i then scanComb x (l.getD (i - d) (0, 0)) else x
/-- The scan of a column of 2^m pairs with its initial value: h(0) to h(T − 1). -/
def scanColumn (m : Nat) (h0 : W32) (l : List (W32 × W32)) : List W32 :=
  let l := match l with
    | [] => []
    | x :: r => (x.1, (scanComb x (0, h0)).2) :: r
  let l := (List.range m).foldl (fun l s => scanLevel (fun i => (i + 1) % 2 ^ (s + 1) == 0) (2 ^ s) l) l
  let l := (List.range (m - 1)).reverse.foldl
    (fun l s => scanLevel (fun i => (i + 1) % 2 ^ (s + 1) == 2 ^ s && 2 ^ (s + 1) ≤ i) (2 ^ s) l) l
  l.map (·.2)

/-- RELU of R302 on an accumulator element. -/
def reluAcc (isFloat : Bool) (x : W32) : W32 :=
  if isFloat then (if (fp32.num x.toNat).isNaN then x else if x.getLsbD 31 then 0 else x)
  else if x.toInt < 0 then 0 else x

/-- The 32-bit word at a byte. -/
def wordOf (f : Nat → Byte) (i : Nat) : W32 := wordLE [f i, f (i + 1), f (i + 2), f (i + 3)]

/-- The bytes an operation writes to its output entry: from the input entry, the output entry as it stands, the latch
block, HC and the issuer's draw. -/
def ArrOp.result (a : ArrOp) (seed : W64) (team : Nat) (inp out blk : Nat → Byte) (hc : Vector W32 512) : List Byte :=
  let c := a.mxc
  let m := mxcM c
  match a.kind with
  | .mxw _ => []
  | .mxmm z _ => (List.range (m * 512)).flatMap fun e =>
      bytesLE 4 (mmElem c inp blk (if z then 0 else wordOf out (4 * e)) (e / 512) (e % 512)).toNat
  | .mxscan h =>
    let cols := (List.range 512).map fun n =>
      scanColumn (Nat.log2 m)
        (if h = 0 then vat hc n else if h = 1 then 0 else wordOf inp (4 * (2 * m * 512 + n)))
        ((List.range m).map fun t => (wordOf inp (4 * (t * 512 + n)), wordOf inp (4 * ((m + t) * 512 + n))))
    (List.range (m * 512)).flatMap fun e => bytesLE 4 ((cols.getD (e % 512) []).getD (e / 512) 0).toNat
  | .mxepi sat relu rm fmt =>
    let w := (fmtWidth fmt).getD 32
    packElems w (m * 64 * w) fun e =>
      let v := wordOf out (4 * e)
      let v := if relu then reluAcc (mxcFloat c) v else v
      let r : Rnd := { rm := rm.toNat, sat := sat, draw := srDraw seed team a.gid.toNat (e % 2 ^ 25) a.draw }
      (convert (if mxcFloat c then 1 else 8) fmt.toNat r false v.toNat).bits
  | .mxt => packElems (mxcWidth c) (actData c) fun o => elemBits inp (mxcWidth c) (o % m * mxcDepth c + o / m)

/-! ## Completion (R298) -/

/-- An input entry read: CP advances over it and the entries behind it that have been read, in order. -/
def Ring.giveBack (r : Ring) (j : Nat) : Ring :=
  let rec run (n : Nat) (r : Ring) : Ring :=
    match n with
    | 0 => r
    | n + 1 =>
      if r.back.contains r.cp.toNat then
        run n { r with back := delFirst (· == r.cp.toNat) r.back, cp := r.cp + 1, resIn := r.resIn - 1 }
      else r
  run (r.back.length + 1) { r with back := r.back ++ [j] }

/-- The last row of an MXSCAN's output. -/
def lastRow (m : Nat) (bs : List Byte) : Vector W32 512 :=
  Vector.ofFn fun n => wordLE ((bs.drop (4 * ((m - 1) * 512 + n.val))).take 4)

/-- A fired operation's effect: the latch or the output entry, HC, the entries returned and published, its end. -/
def finishArray (s : State) (c : CoreId) (a : ArrOp) : State :=
  let x := s.cores[c].ctx
  let t := s.team c a.team
  let bytesOf : Option (BitVec 3) → Nat → Nat → Byte := fun k j u => match k with
    | some k => let r := t.ring k; placeByte s ⟨r.tgt c a.team, r.place j u⟩
    | none => 0
  let block := match a.kind with | .mxmm _ lt => (x.latch lt).block | _ => []
  let res := a.result (LRec.seed t.lrec) (Team.linear t) (bytesOf a.ringIn a.entIn) (bytesOf a.ringOut a.entOut)
    (fun i => block.getD i 0) (a.hc0.getD x.hc)
  let s := match a.ringOut with
    | some k =>
      let r := t.ring k
      modMemOf s (fun m => r.write (r.tgt c a.team) m a.entOut ((List.range res.length).zip res)) (r.tgt c a.team)
    | none => s
  let s := s.modCtx c fun x =>
    let x := match a.kind with
      | .mxw lt => x.modLatch lt fun l =>
          { l with block := (List.range (weightBytes a.mxc)).map (bytesOf a.ringIn a.entIn), fmt := some (a.mxc.extractLsb' 0 11) }
      | .mxscan _ => { x with hc := lastRow (mxcM a.mxc) res }
      | _ => x
    { x with arrq := delFirst (fun b => b.id == a.id) x.arrq }
  let s := match a.ringIn with | some k => modRing s c a.team k fun r => r.giveBack a.entIn | none => s
  let s := match a.ringOut with
    | some k => modRing s c a.team k fun r =>
        if a.pub then { r with pp := r.pp + 1, resOut := r.resOut - 1, held := false } else { r with held := true }
    | none => s
  let s := s.modCluster (clusterOf c) fun k => { k with ends := k.ends + 16 * a.kind.eighths }
  s.modGrp c a.idx fun g => { g with out := g.out.map fun o => if o.kind = .array a.id then { o with kind := .done } else o }

/-- Operations that leave the same latch or HC behind complete in queue order, so that what they leave depends on the queue
alone (R304). -/
def ArrOp.endsAfter (b a : ArrOp) : Bool :=
  match b.kind, a.kind with
  | .mxw l, .mxw l' => l == l'
  | .mxscan _, .mxscan _ => true
  | _, _ => false

/-- ARRAY_OP_COMPLETE: the n-th fired operation ends; one whose covered start still waits for its slot has not begun (R425). -/
def execArrayOpComplete (c : CoreId) (n : Nat) (s : State) : Host.Outcome State Fault Refusal :=
  let l := s.cores[c].ctx.arrq.filter (·.fired)
  match l[n]? with
  | none => .next s
  | some a =>
    let waits := (s.hub.clusters[clusterOf c]).starts.any fun x => x.1 == c.val && x.2.1 == a.id
    if s.cores[c].run.isNone || waits || (l.take n).any a.endsAfter then .next s else .next (finishArray s c a)

end Sys2Proof.Machine
end

