-- ==== Sys2Proof/Machine/Regs.lean ====
section
/-! DEFINITION. Register writes as R6, R7 and R455 judge them. -/

namespace Sys2Proof.Machine
open Sys2Proof

/-- A register at a write: its BAR0 offset, its value, the mask of its reserved bits and that of its fields which the
writer may not change. -/
structure RegView where
  off : Nat
  cur : W64 := 0
  rsv : W64 := 0
  ro  : W64 := 0
  src : Nat := 0                   -- SRC of R455

/-- Bits hi to lo of a register set. -/
def bits (hi lo : Nat) : W64 := BitVec.ofNat 64 (2 ^ (hi + 1) - 2 ^ lo)

/-- A driver's write (R6, R7): a reserved bit set, a state in which the register cannot be written or a value out of
range refuse it whole; a differing value for a field that is not the writer's is reported and the rest is written. -/
def regWrite (s : State) (r : RegView) (v : W64) (busy range : Bool) (f : State → State) : State :=
  if v &&& r.rsv != 0 then logRefusal s r.off 1 r.src v.toNat
  else if busy then logRefusal s r.off 4 r.src v.toNat
  else if !range then logRefusal s r.off 3 r.src v.toNat
  else
    let s := f s
    if (v ^^^ r.cur) &&& r.ro != 0 then logRefusal s r.off 2 r.src v.toNat else s

/-- A write whose effect needs the firmware: minimal mode judges and logs it all the same, and runs nothing (R423). -/
def fullWrite (s : State) (r : RegView) (v : W64) (busy range : Bool) (f : State → State) : State :=
  regWrite s r v busy range fun s => if s.hub.boot.minimal then s else f s

/-- SRC of a write (R455). -/
def srcOf : RegSource → Nat
  | .cxlIo => 0
  | .mailbox => 1
  | .mctp => 2

/-- Both signatures of an image verify (R22). -/
def signedOk (x : Signed) : Bool := x.ed25519 && x.mldsa65

/-- A sum that stays at all ones, and whether it stands there. -/
def satAdd (x : W64) (n : Nat) : W64 × Bool :=
  let m := min (x.toNat + n) (2 ^ 64 - 1)
  (BitVec.ofNat 64 m, m == 2 ^ 64 - 1)

end Sys2Proof.Machine
end

