-- ==== Sys2Proof/Machine/Block.lean ====
section
/-! DEFINITION. The argument block of a copy command, by name (R309, R312, R313, R316, R440). -/

namespace Sys2Proof.Machine
open Sys2Proof

def Cmd.so (k : Cmd) (d : Nat) : Nat := (vat k.blk d).toNat
def Cmd.dor (k : Cmd) (d : Nat) : Nat := (vat k.blk (4 + d)).toNat
def Cmd.n (k : Cmd) (d : Nat) : Nat := (vat k.blk (8 + d)).toNat
def Cmd.rep (k : Cmd) : Nat := fieldN (vat k.blk 12) 0 16
def Cmd.sstep (k : Cmd) : Int := (vat k.blk 13).toInt
def Cmd.dstep (k : Cmd) : Int := (vat k.blk 14).toInt
def Cmd.aux (k : Cmd) : W32 := vat k.blk 15
def Cmd.node (k : Cmd) : BitVec 14 := k.aux.extractLsb' 12 14
def Cmd.h2n (k : Cmd) : BitVec 6 := k.aux.extractLsb' 6 6
def Cmd.fh (k : Cmd) : BitVec 6 := k.aux.extractLsb' 0 6
def Cmd.fc (k : Cmd) : W32 := vat k.blk 16
def Cmd.fv (k : Cmd) : W32 := vat k.blk 17
/-- The spec bits by command. -/
def Cmd.sat (k : Cmd) : Bool := k.spec.getLsbD 0
def Cmd.mxd (k : Cmd) : Bool := k.op == .t && k.spec.getLsbD 2
def Cmd.mxq (k : Cmd) : Bool := k.op == .t && k.spec.getLsbD 1
/-- [23:22] of a CPR or CPPUT. -/
def Cmd.cop (k : Cmd) : BitVec 2 := k.spec.extractLsb' 1 2
/-- A contribution to an in-switch reduction (R440). -/
def Cmd.reduces (k : Cmd) : Bool := k.op == .put && k.cop != 0
/-- The command reads a source. -/
def Cmd.reads (k : Cmd) : Bool := k.op != .f
/-- It reads the index vector of R313. -/
def Cmd.indexed (k : Cmd) : Bool := k.op == .g || k.op == .s
/-- It uses AUX. -/
def Cmd.usesAux (k : Cmd) : Bool := k.fut || k.mxd || k.mxq || k.indexed || k.op == .put || k.op == .get
/-- Its completion objects are at another agent's node (R316). -/
def Cmd.remoteSignals (k : Cmd) : Bool := k.op == .put
/-- Repeats that lay out their own destination box. -/
def Cmd.boxes (k : Cmd) : Nat := if k.op == .r || k.indexed then 1 else k.rep + 1
/-- The highest dimension of the indexed handle (R313). -/
def Cmd.tdim (k : Cmd) : Nat := entNdim (if k.op == .g then k.src else k.dst)

end Sys2Proof.Machine
end

