-- ==== Sys2Proof/Machine/Signals.lean ====
section
/-! DEFINITION. Signals that reach teams of this package (R117, R316), reduction sessions (R439 to R442), and requests
of other nodes served here (R437). -/

namespace Sys2Proof.Machine
open Sys2Proof

/-! ## Bytes of a context at their home -/

/-- The places of n bytes from an address of a context, by a table walk; pst: in the persistent tier. -/
def vaPlaces (s : State) (asid : Asid) (pst : Bool) (need : Need) (vas : List Nat) : Option (List PLoc) :=
  vas.foldr (fun va r => match r, walkTranslate s asid va need (if pst then 1 else 0) with
    | some ps, .ok pa => some (⟨if pst then .pst else .dram, pa⟩ :: ps)
    | _, _ => none) (some [])
/-- The data addresses of n bytes from an address. -/
def dataVas (va n : Nat) : List Nat := (List.range n).map (pitch va)
/-- A sector written at its home by an agent that is no core; the package's cached copies of other dies stay (R97). -/
def remoteStore (asid : Asid) (key : KeyRef) (s : State) (w : Sector) : State := homeWrite s { w with owner := asid, key := key }
/-- Bytes read at their home. -/
def homeBytes (s : State) (key : KeyRef) (ps : List PLoc) : (List Byte × Bool) × State :=
  readBytes (fun s t b => (homeSector s t b key, s)) s none ps

/-- A word filled into a future cell unless it is full (R120, R311). -/
def cellFill (s : State) (asid : Asid) (key : KeyRef) (ps : List PLoc) (w : W64) : State :=
  let ((bs, bad), s) := homeBytes s key ps
  if bad || (natLE bs).testBit 32 then s else writeBytes (remoteStore asid key) s ps (bytesLE 8 w.toNat)
/-- FULL = 1 with a value. -/
def cellValue (v : W32) : W64 := 1#32 ++ v
/-- FULL = 1, ERR = 1 with a code and a value. -/
def cellError (code : BitVec 8) (v : W32) : W64 := code.setWidth 24 ++ 3#8 ++ v

/-! ## Signals -/

/-- Where a signal for a team goes. -/
inductive SigTo where
  | at (c : CoreId) (t : Slot)
  | held
  | missing
  deriving DecidableEq, Repr

/-- The team of a grid with a linear index on a core that runs its context. -/
def findTeam (s : State) (grid : Nat) (idx : Nat) : Option (CoreId × Slot) :=
  (List.finRange 64).findSome? fun c =>
    ((List.finRange 64).find? fun t => let x := s.team c t; x.live && x.grid == grid && Team.linear x == idx).map fun t => (c, t)
/-- A team with a linear index stands in a saved context. -/
def savedTeam (s : State) (grid : Nat) (idx : Nat) : Bool :=
  s.cores.toList.any fun k => k.saved.any fun x => x.2.teams.toList.any fun t => t.live && t.grid == grid && Team.linear t == idx
/-- The grid of a context that signals reach: its first one that no grid launched and that has not completed. -/
def jobGrid (s : State) (asid : Asid) : Option Grid := s.hub.grids.find? fun g => g.asid == asid && g.parent.isNone && !g.done
/-- R316: a signal is held until its team is admitted. -/
def signalTo (s : State) (asid : Asid) (team : W32) (bar : BitVec 7) : SigTo :=
  match jobGrid s asid with
  | none => .missing
  | some g =>
    if LRec.teams g.lrec ≤ team.toNat || LRec.nbars g.lrec ≤ bar.toNat then .missing
    else match findTeam s g.id team.toNat with
      | some (c, t) => .at c t
      | none =>
        let coming := g.next ≤ team.toNat || s.cores.toList.any fun k => k.queued.any fun q => q.grid == g.id && q.t == team.toNat
        if coming || savedTeam s g.id team.toNat then .held else .missing

/-- The outcome of a signal. -/
inductive Signalled where
  | done (s : State)
  | held
  | missing

/-- A signal applied (R117). -/
def applySignal (s : State) : PutSignal → Signalled
  | .fill asid key va v =>
    match vaPlaces s asid false .write (dataVas va 8) with
    | none => .missing
    | some ps => .done (cellFill s asid ⟨key, (s.hub.kslots[key.toFin]).gen⟩ ps (cellValue v))
  | .arrive asid team bar =>
    match signalTo s asid team bar with
    | .at c t => .done (updateBar s c t bar (.arrive 1 0))
    | .held => .held
    | .missing => .missing
  | .fail asid team bar code k =>
    match signalTo s asid team bar with
    | .at c t => .done (updateBar s c t bar (.fail code k))
    | .held => .held
    | .missing => .missing
/-- A signal applied, or kept while its team is awaited. -/
def signal (s : State) (x : PutSignal) : State :=
  match applySignal s x with
  | .done s => s
  | .held => s.modHub fun h => { h with puts := h.puts ++ [x] }
  | .missing => s
/-- Held signals looked at again, in order of receipt. -/
def flushSignals (s : State) : State :=
  s.hub.puts.foldl signal (s.modHub fun h => { h with puts := [] })

/-- REMOTE_SIGNAL. -/
def execRemoteSignal (x : PutSignal) (s : State) : Host.Outcome State Fault Refusal :=
  if s.hub.nodeEn then .next (signal s x) else .next s

/-! ## Reduction sessions -/

def State.modSession (s : State) (i : Fin 64) (f : Session → Session) : State :=
  s.modHub fun h => { h with sessions := vmod h.sessions i f }
/-- Fields of RSSIG. -/
def Session.bi (x : Session) : BitVec 7 := x.rssig.extractLsb' 44 7
def Session.asid (x : Session) : Asid := x.rssig.extractLsb' 32 12
def Session.team (x : Session) : W32 := x.rssig.extractLsb' 0 32

/-- A reduction put of this node into a slot that the switches have not wholly accepted (R440). -/
def Cmd.unaccepted (k : Cmd) (own : BitVec 14) (i : Fin 64) : Bool :=
  k.reduces && (k.state == .inFlight || k.state == .discarded) && !k.handed && k.node == own && k.fv == w32 i.val && !k.landed.isEmpty
/-- Such puts fail (R440). -/
def failPuts (s : State) (i : Fin 64) : State :=
  let own := s.hub.node
  let stop : Cmd → Cmd := fun k => if k.unaccepted own i then { k with state := .failed 0x42 k.ldh own 0 0 } else k
  { s with cores := s.cores.map fun k => { k with journal := k.journal.map stop } }

/-- A session fails (R442): partial sums discarded, its barrier failed, a record entered. -/
def sessionFail (s : State) (i : Fin 64) (node : BitVec 14) : State :=
  let x := s.hub.sessions[i]
  if x.state != 1 then s
  else
    let s := (failPuts s i).modSession i fun x => { x with en := false, state := 3, cons := [], written := [] }
    let (k, s) := faultLog s x.asid { kind := 9, cause := 0x42, aux := i.val, agent := 3, node := node.toNat }
    if x.bi = 127 then s else signal s (.fail x.asid x.team x.bi 0x06 k)

/-- Every byte of a put has arrived. -/
def putWhole (c : Contribution) : Bool := c.whole.all fun a => c.cells.any (·.1 == a)
/-- The contribution of a node is complete. -/
def Session.has (x : Session) (node : BitVec 14) : Bool := x.cons.any fun c => c.node == node && putWhole c
/-- A part of a put that a session cannot take (R442): its node is not in the list or sends a second put; its operation, its
format or its bytes differ. -/
def Session.rejects (x : Session) (c : Contribution) : Bool :=
  !x.nodes.contains c.node || c.op != x.op || c.fmt != x.fmt
    || x.cons.any fun d => d.whole != c.whole || d.asid != c.asid || d.pst != c.pst
      || (d.node == c.node && (d.put != c.put || d.cells.any fun y => c.cells.any (·.1 == y.1)))
/-- The cells of a put joined to those that its node has sent. -/
def joinPut (l : List Contribution) (c : Contribution) : List Contribution :=
  if l.any fun d => d.node == c.node then l.map fun d => if d.node = c.node then { d with cells := d.cells ++ c.cells } else d
  else l ++ [c]
/-- Sectors of a put enter an open session, or fail it. -/
def contribute (s : State) (i : Fin 64) (c : Contribution) : State :=
  let x := s.hub.sessions[i]
  if x.state != 1 then s
  else if x.rejects c then sessionFail s i c.node
  else s.modSession i fun x => { x with cons := joinPut x.cons c }

/-- The home translates a contribution's bytes under the context bound to its job (R437). -/
def contributionOk (s : State) (c : Contribution) : Bool :=
  (c.key == 0 || ((s.hub.kslots[c.key.toFin]).state == 1 && (s.hub.kslots[c.key.toFin]).asid == c.asid))
  && (vaPlaces s c.asid c.pst .write (c.cells.map (·.1))).isSome

/-- REDUCTION_CONTRIBUTION: into its session, or held by the switches until the session opens (R440). -/
def execReductionContribution (i : Fin 64) (c : Contribution) (s : State) : Host.Outcome State Fault Refusal :=
  if !s.hub.nodeEn || !contributionOk s c then .next s
  else if (s.hub.sessions[i]).state = 1 then .next (contribute s i c)
  else .next (s.modHub fun h => { h with early := h.early ++ [(i, c)] })

/-- Bytes of two contributions combined: XOR, or the sum of elements of a format (R441). -/
def combineBytes (op : BitVec 2) (fmt : BitVec 5) (v c : List Byte) : List Byte :=
  if op = 1 then v.zipWith (· ^^^ ·) c
  else
    let n := (fmtWidth fmt).getD 32 / 8
    (List.range (v.length / n)).flatMap fun k =>
      let a := natLE ((v.drop (n * k)).take n)
      let b := natLE ((c.drop (n * k)).take n)
      bytesLE n (match ffmt fmt.toNat with
        | some f => let (x, bad) := Num.add false (f.num a) (f.num b); (f.arith rne (if bad then .nan else x)).bits
        | none => a + b)

/-- The bytes of a contribution at some addresses. -/
def cellsAt (c : Contribution) (as : List Nat) : List Byte :=
  as.map fun a => match c.cells.find? (·.1 == a) with | some y => y.2 | none => 0
/-- The contributions of a session from the lowest node up. -/
def Session.order (x : Session) : List Contribution := sortBy (fun c => [c.node.toNat]) x.cons
/-- The sum of a session at some addresses (R441). -/
def sessionSum (x : Session) (as : List Nat) : List Byte :=
  match x.order with
  | [] => []
  | c :: r => r.foldl (fun v d => combineBytes x.op x.fmt v (cellsAt d as)) (cellsAt c as)
/-- Sums written at their home, under the context and key of the lowest node's put (log entry 105); that node when the address
is no longer translated. -/
def putSums (s : State) (i : Fin 64) (as : List Nat) : Except (BitVec 14) State :=
  let x := s.hub.sessions[i]
  match x.order with
  | [] => .ok s
  | c :: _ => match vaPlaces s c.asid c.pst .write as with
    | none => .error c.node
    | some ps => .ok (writeBytes (remoteStore c.asid ⟨c.key, (s.hub.kslots[c.key.toFin]).gen⟩) s ps (sessionSum x as))
/-- Addresses of a session whose sums are not written. -/
def Session.unwritten (x : Session) : List Nat :=
  match x.cons with
  | [] => []
  | c :: _ => c.whole.filter fun a => !x.written.contains a
/-- One sector written once every contribution to it is present (R441). -/
def combineSector (s : State) (i : Fin 64) (base : Nat) : State :=
  let x := s.hub.sessions[i]
  let as := x.unwritten.filter fun a => sectorBase a == base
  let here : Contribution → Bool := fun c => as.all fun a => c.cells.any (·.1 == a)
  if x.state = 1 && !as.isEmpty && x.nodes.all (fun n => x.cons.any fun c => c.node == n && here c) then
    match putSums s i as with
    | .error n => sessionFail s i n
    | .ok s => s.modSession i fun x => { x with written := x.written ++ as }
  else s

/-- SESSION_COMPLETE: every contribution complete, the sums that remain written, one arrival at the barrier. -/
def execSessionComplete (i : Fin 64) (s : State) : Host.Outcome State Fault Refusal :=
  let x := s.hub.sessions[i]
  if x.state != 1 || !x.nodes.all x.has then .next s
  else match putSums s i x.unwritten with
    | .error n => .next (sessionFail s i n)
    | .ok s =>
      let s := s.modSession i fun x => { x with en := false, state := 2, cons := [], written := [] }
      .next (if x.bi = 127 then s else signal s (.arrive x.asid x.team x.bi))

/-- The first contributor whose contribution is incomplete. -/
def Session.waiting (x : Session) : Option (BitVec 14) := x.nodes.find? fun n => !x.has n
/-- SESSION_TIMEOUT. -/
def execSessionTimeout (i : Fin 64) (s : State) : Host.Outcome State Fault Refusal :=
  match (s.hub.sessions[i]).waiting with
  | some n => .next (sessionFail s i n)
  | none => .next s

/-! ## Requests of other nodes (R437) -/

/-- The context bound to a job, from the job table. -/
def jobContext (s : State) (job : BitVec 16) : Option Asid :=
  let pa := pitch s.hub.jobtab.toNat (2 * job.toNat)
  let e := natLE ((List.range 2).map fun i => dramByte s (pa + i))
  if e.testBit 15 && (e >>> 12) % 8 = 0 then some (BitVec.ofNat 12 e) else none

/-- Bytes a request touches. -/
def remoteSize : RemoteOp → Nat
  | .read n => n
  | .write bs => bs.length
  | .atomicAdd w64 _ => if w64 then 8 else 4

/-- REMOTE_REQUEST: refused, or performed at this home; the answer carries the bytes read. -/
def execRemoteRequest (q : RemoteReq) (s : State) : Host.Outcome State Fault Refusal :=
  let s := s.modHub fun h => { h with remote := [] }
  if !s.hub.nodeEn then .next s
  else match jobContext s q.job with
    | none => .next s
    | some asid =>
      let slot := s.hub.kslots[q.key.toFin]
      let need : Need := match q.op with | .read _ => .read | _ => .write
      if q.key != 0 && !(slot.state == 1 && slot.asid == asid) then .next s
      else match vaPlaces s asid q.pst need (dataVas q.va.toNat (remoteSize q.op)) with
        | none => .next s
        | some ps =>
          let key : KeyRef := ⟨q.key, slot.gen⟩
          let answer : List Byte → State → State := fun bs s => s.modHub fun h => { h with remote := bs }
          match q.op with
          | .read _ => let ((bs, _), s) := homeBytes s key ps; .next (answer bs s)
          | .write bs => .next (writeBytes (remoteStore asid key) s ps bs)
          | .atomicAdd _ v =>
            let ((bs, bad), s) := homeBytes s key ps
            .next (answer bs (if bad then s
              else writeBytes (remoteStore asid key) s ps (bytesLE bs.length (natLE bs + v.toNat))))

end Sys2Proof.Machine
end

