-- ==== Sys2Proof/Machine/Copy.lean ====
section
/-! DEFINITION. Copy commands (R127 to R132, R309 to R318): checks at issue, the journal, rows moved, completion,
failure, CPC and CPQ. -/

namespace Sys2Proof.Machine
open Sys2Proof

/-! ## Places of elements -/

/-- A side of a command: its handle, and whether its bytes lie at another node. -/
structure Side where
  e    : Ent
  lh   : BitVec 6
  away : Option Nat

def Cmd.srcSide (own : Nat) (k : Cmd) : Side :=
  ⟨k.src, k.ls, if k.op == .get && k.node.toNat ≠ own then some k.node.toNat else none⟩
def Cmd.dstSide (own : Nat) (k : Cmd) : Side :=
  ⟨k.dst, k.ldh, if k.op == .put && k.node.toNat ≠ own then some k.node.toNat else none⟩

/-- Bit offset of the element at coordinates. -/
def elemBit (e : Ent) (c : Nat → Int) : Nat := ((List.range 4).foldl (fun a d => a + (c d).toNat * entStride e d) 0) * entW e
/-- First byte and bytes of an element. -/
def elemSpan (e : Ent) (c : Nat → Int) : Nat × Nat :=
  let q := elemBit e c
  (q / 8, (q % 8 + entW e + 7) / 8)

/-- The bytes of an element lie within the space (R66, R389). -/
def Side.fits (x : Side) (t : Team) (own : Nat) (w : Who) (u n : Nat) : Bool :=
  match x.away with
  | none => mapFits t own w x.e u n
  | some _ => isPitched (entSpace x.e) && (List.range n).all fun i => pitch (entBase x.e) (u + i) < 2 ^ 48

/-- The places of bytes u to u + n − 1 of a side before translation. -/
def Side.vplaces (x : Side) (w : Who) (u n : Nat) : List VPlace :=
  match x.away with
  | some _ => (List.range n).map fun i => .va (pitch (entBase x.e) (u + i))
  | none => placesOf w 0 x.e u n
/-- The places of bytes u to u + n − 1 of a side, or the cause of the failure and the node. -/
def Side.places (s : State) (x : Side) (w : Who) (asid : Asid) (need : Need) (u n : Nat) :
    Except (BitVec 8 × Nat) (List PLoc) × State :=
  match x.away with
  | some node =>
    let l := (List.range n).map fun i => fabricAddr (jobOf s asid) node (pitch (entBase x.e) (u + i))
    (if reachable s node && l.all (farServes s (need == .write)) then .ok (l.map fun a => ⟨.fabric, a⟩) else .error (0x42, node), s)
  | none =>
    match resolveAll s w.core asid x.e need false (placesOf w 0 x.e u n) with
    | (.ok ps, s) => (.ok ps, s)
    | (.error (.page _ _), s) => (.error (0x41, 0), s)
    | (.error (.remote n), s) => (.error (0x42, n), s)

/-! ## Checks at issue (R310) -/

/-- R64 over a box. -/
def boxCheck (s : State) (t : Team) (w : Who) (k : AccKind) (x : Side) (o : Nat → Int) (n : Nat → Nat) : Option Trap :=
  let lh := x.lh.toNat
  let e := x.e
  if !usable e || !keyOk s t.asid e then some (layTrap 0x08 lh)
  else if !spaceAllows k (entSpace e) || !(entRights e).getLsbD (rightBit k) || (x.away.isSome && !isPitched (entSpace e)) then
    some (layTrap 0x09 lh)
  else if (List.range 4).any fun d => entNdim e < d && (o d != 0 || n d != 1) then some (layTrap 0x0A lh)
  else
    match (List.range (entNdim e + 1)).find? fun d => o d < 0 || (entExt e d : Int) < o d + n d with
    | some d => some (boundsTrap lh d (if o d < 0 then o d else max (o d) (entExt e d)))
    | none =>
      let all := (List.range (n 0 * n 1 * n 2 * n 3)).all fun i =>
        let c : Nat → Int := fun d => match d with
          | 0 => o 0 + (i % n 0 : Nat)
          | 1 => o 1 + (i / n 0 % n 1 : Nat)
          | 2 => o 2 + (i / (n 0 * n 1) % n 2 : Nat)
          | _ => o 3 + (i / (n 0 * n 1 * n 2) : Nat)
        let (u, m) := elemSpan e c
        x.fits t s.hub.node.toNat w u m
      if all then none else some (boundsTrap lh 0 (o 0))

/-- The first trap of a list of checks. -/
def firstTrap (l : List (Unit → Option Trap)) : Option Trap := l.findSome? fun f => f ()

/-- The origin of a side in repeat i: its highest dimension moves by the step. -/
def stepped (e : Ent) (o : Nat → Nat) (step : Int) (i : Nat) (d : Nat) : Int := o d + if d = entNdim e then i * step else 0
/-- An extent or origin with one dimension replaced. -/
def putDim {α : Type} (f : Nat → α) (d : Nat) (x : α) (i : Nat) : α := if i = d then x else f i
/-- Coordinates of the scales of a box of elements (R312). -/
def scaleOrigin (o : Nat → Int) (d : Nat) : Int := if d = 0 then o 0 / 32 else o d
def scaleExtent (o : Nat → Int) (n : Nat → Nat) (d : Nat) : Nat := if d = 0 then ((o 0 + n 0 - 1) / 32 - o 0 / 32 + 1).toNat else n d

/-- R310 step 4. -/
def layoutChecks (s : State) (c : CoreId) (t : Team) (k : Cmd) : Option Trap :=
  let w : Who := ⟨c, k.team, 0, 0⟩
  let own := s.hub.node.toNat
  let src := k.srcSide own
  let dst := k.dstSide own
  let one := putDim k.n k.tdim 1
  let repeats : (Nat → Option Trap) → Option Trap := fun f => (List.range (k.rep + 1)).findSome? f
  firstTrap [
    fun _ => if !k.reads then none
      else if k.op == .g then boxCheck s t w .copySrc src (putDim (fun d => (k.so d : Int)) k.tdim 0) one
      else if k.op == .s then boxCheck s t w .copySrc src (fun d => k.so d) k.n
      else repeats fun i => boxCheck s t w .copySrc src (stepped k.src k.so k.sstep i) k.n,
    fun _ => if k.op == .g then boxCheck s t w .copyDst dst (fun d => k.dor d) k.n
      else if k.op == .s then boxCheck s t w .copyDst dst (putDim (fun d => (k.dor d : Int)) k.tdim 0) one
      else (List.range k.boxes).findSome? fun i => boxCheck s t w .copyDst dst (stepped k.dst k.dor k.dstep i) k.n,
    fun _ =>
      let h2 : Side := ⟨k.h2, k.h2n, none⟩
      if k.indexed then boxCheck s t w .copySrc h2 (fun d => if d = 0 then ((vat k.blk 13).toNat : Int) else 0)
        (fun d => if d = 0 then k.n k.tdim else 1)
      else if k.mxd then repeats fun i => let o := stepped k.src k.so k.sstep i; boxCheck s t w .copySrc h2 (scaleOrigin o) (scaleExtent o k.n)
      else if k.mxq then repeats fun i => let o := stepped k.dst k.dor k.dstep i; boxCheck s t w .copyDst h2 (scaleOrigin o) (scaleExtent o k.n)
      else none,
    fun _ => if !k.fut then none
      else match locate s t w .atomic k.fh.toNat k.cell [k.fc] 0 8 none with
        | .error t => some t
        | .ok _ => none]

/-- R310 step 5: the pair that R178 refuses. -/
def pairCheck (k : Cmd) : Option Trap :=
  let a := (entFmt k.src).toNat
  let b := (entFmt k.dst).toNat
  let bad := if !k.reads then false
    else if k.reduces && k.cop = 1 then !((rawFmt b).isSome && fmtWidth (entFmt k.src) == fmtWidth (entFmt k.dst))
    else !convertible a b
  if bad then some { cause := 0x21, x1 := w32 (a + 256 * b) } else none

/-- The argument block holds a value that the command refuses (R309, R313 to R316, R440). -/
def blockBad (k : Cmd) : Bool :=
  let word : Nat → W32 := fun i => vat k.blk i
  let fmt := (entFmt k.dst).toNat
  (List.range 4).any (fun d => k.n d == 0) || fieldN (word 12) 16 16 != 0
  || (k.usesAux && (fieldN k.aux 26 6 != 0
      || (!(k.op == .put || k.op == .get) && k.node != 0)
      || (!(k.indexed || k.mxd || k.mxq) && k.h2n != 0)
      || (!k.fut && (k.fh != 0 || k.fc != 0))
      || (!k.fut && !(k.op == .put && (k.bi != 127 || k.reduces)) && k.fv != 0)))
  || (match k.op with
    | .t | .put | .get => k.reduces && fieldN k.fv 6 26 != 0
    | .g => k.rep != 0 || word 14 != 0 || word k.tdim != 0 || !(fmtOfIndex k)
    | .s => k.rep != 0 || word 14 != 0 || word (4 + k.tdim) != 0 || !(fmtOfIndex k)
    | .f => word 2 != 0 || word 3 != 0 || word 13 != 0
    | .r => word 14 != 0 || !(fmt == 1 || fmt == 2 || fmt == 3 || fmt == 8))
  || (k.mxd && !mxFmt (entFmt k.src)) || (k.mxq && !mxFmt (entFmt k.dst))
  || (k.reduces && k.cop = 2 && !(fmt == 1 || fmt == 2 || fmt == 3 || fmt == 8))
where
  /-- The index elements are INT32 or UINT32. -/
  fmtOfIndex (k : Cmd) : Bool := (entFmt k.h2).toNat == 8 || (entFmt k.h2).toNat == 9

/-- Dimension 0 of an MX side is a whole number of blocks (R312). -/
def mxAligned (k : Cmd) : Bool :=
  let ok : Ent → (Nat → Nat) → Int → Bool := fun e o st => k.n 0 % 32 == 0 &&
    (List.range (k.rep + 1)).all fun i => stepped e o st i 0 % 32 == 0
  (!k.mxd || ok k.src k.so k.sstep) && (!k.mxq || ok k.dst k.dor k.dstep)

/-- R310 steps 2 to 6; bad: the trap of a refused block. -/
def copyCheck (s : State) (c : CoreId) (k : Cmd) (bad : Trap) : Option Trap :=
  let t := s.team c k.team
  let local' := k.bi != 127 && !k.remoteSignals
  if local' && !t.hasBar k.bi then some (barRange k.bi)
  else if local' && (t.bar k.bi).mode != 1 then some (barTrap 0x12 k.bi (t.bar k.bi))
  else if k.rge && (!t.hasRing k.ring || !(t.ring k.ring).val) then some (ringTrap 0x14 k.ring 0)
  else if k.rge && (t.ring k.ring).pra then some (ringTrap 0x15 k.ring 0)
  else firstTrap [
    fun _ => layoutChecks s c t k,
    fun _ => pairCheck k,
    fun _ => if blockBad k then some bad
      else if !mxAligned k then some (layTrap 0x0A (if k.mxd then k.ls else k.ldh).toNat) else none]

/-! ## Issue -/

/-- Rows of a command, and its counted bytes a row (R310). -/
def Cmd.rowsAll (k : Cmd) : Nat := k.boxes * (k.n 1 * k.n 2 * k.n 3)
def Cmd.rowBytes (k : Cmd) : Nat := (k.n 0 * entW k.dst + 7) / 8 + if k.mxq then k.n 0 / 32 else 0

/-- A command from its fields and block; the entries it names are captured. -/
def mkCmd (s : State) (c : CoreId) (team : Slot) (op : CopyOp) (blk : Vector W32 18) (spec rm : BitVec 3) (fut rge : Bool)
    (ring : BitVec 3) (bi : BitVec 7) (ls ldh : BitVec 6) (draw : W32) : Cmd :=
  let t := s.team c team
  let aux := vat blk 15
  let k : Cmd := { seq := s.cores[c].jseq, asid := t.asid, team := team, op := op, blk := blk, spec := spec, rm := rm, fut := fut
                   rge := rge, ring := ring, bi := bi, ls := ls, ldh := ldh, src := t.ls[ls.toFin], dst := t.ls[ldh.toFin]
                   h2 := t.ls[(aux.extractLsb' 6 6).toFin], cell := t.ls[(aux.extractLsb' 0 6).toFin]
                   draw := draw, step := t.step, total := 0, counted := 0 }
  { k with total := k.rowsAll, counted := k.rowsAll * k.rowBytes }

/-- The journal has no free slot (R128). -/
def journalFull (s : State) (c : CoreId) : Bool := 256 ≤ (s.cores[c].journal).length
/-- The command enters the journal and is counted into its barrier. -/
def acceptCopy (s : State) (c : CoreId) (k : Cmd) : State :=
  let s := s.modCore c fun x => { x with journal := x.journal ++ [k], jseq := x.jseq + 1 }
  if k.bi = 127 || k.remoteSignals then s else updateBar s c k.team k.bi (.issue k.counted)

/-- A group may issue copy commands (R127). -/
def producer (t : Team) (g : Group) : Bool := LRec.pgv t.lrec && g.gid.toNat == LRec.producer t.lrec
/-- COPY_RIGHTS with the opcode of a word. -/
def copyRights (w : W64) : Trap := { cause := 0x18, x1 := (w.extractLsb' 0 10).setWidth 32 }
/-- The argument block of a group command. -/
def groupBlock (g : Group) (sa : BitVec 6) (aux : Bool) : Vector W32 18 :=
  Vector.ofFn fun i => if i.val < 15 || aux then g.rdS (sa.toNat + i.val) else 0

/-- A write of the command goes to the persistent tier. -/
def Cmd.persists (k : Cmd) : Bool := entPst k.dst || (k.mxq && entPst k.h2)
/-- A copy command of a group (R309, R310): its fork is a release at TEAM scope (R100), and no engine takes it before the
group's earlier accesses are performed. -/
def groupCopy (i : Instr) (s : State) (op : CopyOp) (x : FmtRE) (aux : Bool) : Host.Outcome State Fault Refusal :=
  issue i s fun n _ g r =>
    let t := s.team s.core g.team
    let k := mkCmd s s.core g.team op (groupBlock g x.sa aux) x.spec x.rm x.fut x.rge x.ring x.bi x.ls x.ldh g.srcnt
    let k := { k with idx := n, gid := g.gid, sets := if k.persists then [(g.uid, g.epoch)] else [], held := true }
    if !producer t g then .trap (copyRights (r.words.getD r.idx 0)) false
    else match copyCheck s s.core k (dataTrap r) with
      | some t => .trap t false
      | none =>
        if journalFull s s.core then .stall s
        else
          let s := acceptCopy s s.core k
          .long (s.modGrp s.core n fun g => (g.countSr x.rm).wrS x.ds.toNat k.seq) { sb := 7, kind := .copy k.seq, rel := some 1 }

def execCpt (x : FmtRE) (s : State) : Host.Outcome State Fault Refusal :=
  groupCopy (.cpt x) s .t x (x.fut || x.spec.getLsbD 2 || x.spec.getLsbD 1)
def execCpg (x : FmtRE) (s : State) : Host.Outcome State Fault Refusal := groupCopy (.cpg x) s .g x true
def execCps (x : FmtRE) (s : State) : Host.Outcome State Fault Refusal := groupCopy (.cps x) s .s x true
def execCpf (x : FmtRE) (s : State) : Host.Outcome State Fault Refusal := groupCopy (.cpf x) s .f x x.fut
def execCpr (x : FmtRE) (s : State) : Host.Outcome State Fault Refusal := groupCopy (.cpr x) s .r x x.fut
def execCpput (x : FmtRE) (s : State) : Host.Outcome State Fault Refusal := groupCopy (.cpput x) s .put x true
def execCpget (x : FmtRE) (s : State) : Host.Outcome State Fault Refusal := groupCopy (.cpget x) s .get x true

/-! ## Elements -/

/-- Why a command fails (R130): cause, slot, node, XINFO1 and XINFO2. -/
structure CopyFail where
  cause : BitVec 8
  lh    : BitVec 6
  node  : Nat := 0
  x1    : W32 := 0
  x2    : W32 := 0

/-- The failed state of a command. -/
def CopyFail.state (f : CopyFail) : CmdState := .failed f.cause f.lh (BitVec.ofNat 14 f.node) f.x1 f.x2

/-- A byte that a command writes: its place before and after translation. -/
structure OutByte where
  v : VPlace
  p : PLoc
  b : Byte
/-- Bytes that a command writes, in the order it forms them. -/
abbrev OutBytes := List OutByte

/-- The context, key and completion objects of a command on a core. -/
structure CopyCtx where
  w    : Who
  asid : Asid
  own  : Nat
  seed : W64
  team : Nat
  src  : BitVec 6                  -- layout slots, for a failure
  draws : Nat                      -- s of R175

/-- The bits of one element. -/
def readElem (s : State) (q : CopyCtx) (x : Side) (c : Nat → Int) : Except CopyFail Nat × State :=
  let (u, n) := elemSpan x.e c
  match x.places s q.w q.asid .read u n with
  | (.error (cause, node), s) => (.error { cause := cause, lh := x.lh, node := node }, s)
  | (.ok ps, s) =>
    let ((bs, bad), s) := readBytes (engineSector q.w.core (keyRef s x.e) q.asid) s none ps
    (if bad then .error { cause := 0x1D, lh := x.lh }
      else .ok ((natLE bs >>> (elemBit x.e c % 8)) % 2 ^ entW x.e), s)

/-- An element's bits laid into the bytes formed so far; a part of a byte keeps the rest of it. -/
def formElem (s : State) (q : CopyCtx) (x : Side) (c : Nat → Int) (v : Nat) (out : OutBytes) : Except CopyFail OutBytes × State :=
  let (u, n) := elemSpan x.e c
  match x.places s q.w q.asid .write u n with
  | (.error (cause, node), s) => (.error { cause := cause, lh := x.lh, node := node }, s)
  | (.ok ps, s) =>
    let put : List Byte → OutBytes := fun bs => ((x.vplaces q.w u n).zip (ps.zip bs)).map fun y => ⟨y.1, y.2.1, y.2.2⟩
    if ps.any (fun p => p.tgt == .pst && (s.hub.pstacks[stackOf p.addr]).state == 3) then
      (.error { cause := 0x23, lh := x.lh, x1 := w32 (stackOf ((ps.head?.map (·.addr)).getD 0)).val }, s)
    else if 8 ≤ entW x.e then (.ok (out ++ put (bytesLE n v)), s)
    else
      let b := elemBit x.e c % 8
      let m := (2 ^ entW x.e - 1) <<< b
      match ps with
      | [] => (.ok out, s)
      | p :: _ =>
        let (old, s) := match out.reverse.find? fun y => y.p == p with
          | some y => (y.b, s)
          | none => let ((bs, _), s) := readBytes (engineSector q.w.core (keyRef s x.e) q.asid) s none [p]; (bs.getD 0 0, s)
        (.ok (out ++ put [(old &&& ~~~(BitVec.ofNat 8 m)) ||| BitVec.ofNat 8 (v <<< b)]), s)

/-- Element l of a command: its repeat, and its coordinates within the box. -/
def Cmd.elemAt (k : Cmd) (l : Nat) : Nat × (Nat → Nat) :=
  let r := l / k.n 0
  let a := k.n 1
  let b := k.n 2
  let m := k.n 3
  (r / (a * b * m), fun d => match d with | 0 => l % k.n 0 | 1 => r % a | 2 => r / a % b | 3 => r / (a * b) % m | _ => 0)
/-- Elements of a command. -/
def Cmd.elems (k : Cmd) : Nat := k.total * k.n 0

/-- R315 with R185: a source element combined into d. -/
def combineElem (k : Cmd) (d v : Nat) : Nat :=
  let sf := (entFmt k.src).toNat
  let df := (entFmt k.dst).toNat
  let r : Rnd := { rm := k.rm.toNat, sat := k.sat }
  match ffmt df with
  | some f =>
    if k.cop = 0 then
      let (x, bad) := Num.add (k.rm == 2) (f.num d) (numOf sf v)
      (f.arith r (if bad then .nan else x)).bits
    else f.select (k.cop == 2) d (convert sf df r false v).bits
  | none =>
    let a : W32 := w32 d
    let b : W32 := w32 (convert sf df r false v).bits
    if k.cop = 0 then (if k.sat then satS32 (a.toInt + b.toInt) else a + b).toNat
    else ((if k.cop = 1 then min a.toInt b.toInt else max a.toInt b.toInt) % (2 ^ 32 : Nat)).toNat

/-- A value put into a numeric format (R178). -/
def convertNum (dst : Nat) (r : Rnd) (v : Num) : Nat :=
  match ffmt dst with
  | some f => (f.ofNum r v).bits
  | none => if dst = 7 then (toE8 v).bits
    else match intFmt dst with
      | some (sgn, w) => (toInt sgn w r v).bits
      | none => toBin v

/-- Rounding of element l of a command (R175). -/
def CopyCtx.rnd (q : CopyCtx) (k : Cmd) (l : Nat) : Rnd :=
  { rm := k.rm.toNat, sat := k.sat, draw := srDraw q.seed q.team q.draws (l % 2 ^ 25) k.draw }

/-- The index that row j of R313 is gathered from or scattered to. -/
def readIndex (s : State) (q : CopyCtx) (k : Cmd) (j : Nat) : Except CopyFail Nat × State :=
  let e := if k.op == .g then k.src else k.dst
  let lh := if k.op == .g then k.ls else k.ldh
  match readElem s q ⟨k.h2, k.h2n, none⟩ (fun d => if d = 0 then ((vat k.blk 13).toNat + j : Nat) else 0) with
  | (.error f, s) => (.error f, s)
  | (.ok v, s) =>
    let i : Int := if (entFmt k.h2).toNat = 8 then (w32 v).toInt else v
    if i < 0 || (entExt e k.tdim : Int) ≤ i then
      (.error { cause := 0x0B, lh := lh, x1 := w32 (lh.toNat + 256 * k.tdim), x2 := trunc 32 i }, s)
    else (.ok i.toNat, s)

/-- The source bits of one element of the box, converted: repeat i, coordinates c within the box, element number l. -/
def sourceElem (s : State) (q : CopyCtx) (k : Cmd) (i : Nat) (c : Nat → Nat) (idx l : Nat) : Except CopyFail Nat × State :=
  let side := k.srcSide q.own
  let at' : Nat → Int := fun d =>
    if k.op == .g && d == k.tdim then idx
    else (if k.indexed then (k.so d : Int) else stepped k.src k.so k.sstep i d) + c d
  match readElem s q side at' with
  | (.error f, s) => (.error f, s)
  | (.ok v, s) =>
    if k.mxd then
      match readElem s q ⟨k.h2, k.h2n, none⟩ (scaleOrigin at') with
      | (.error f, s) => (.error f, s)
      | (.ok sc, s) => (.ok (convertNum (entFmt k.dst).toNat (q.rnd k l) (mxScaled (entFmt k.src).toNat (sc % 256) v)), s)
    else if k.op == .r || k.mxq then (.ok v, s)
    else if k.reduces && k.cop = 1 then (.ok v, s)
    else (.ok (convert (entFmt k.src).toNat (entFmt k.dst).toNat (q.rnd k l) false v).bits, s)

/-- The destination coordinates of one element; idx: its row in a scatter. -/
def destAt (k : Cmd) (i : Nat) (c : Nat → Nat) (idx : Nat) (d : Nat) : Int :=
  if k.op == .s && d == k.tdim then idx
  else (if k.op == .r || k.indexed then (k.dor d : Int) else stepped k.dst k.dor k.dstep i d) + c d
/-- Those of element l. -/
def Cmd.destOf (k : Cmd) (l : Nat) : Nat → Int :=
  let (i, c) := k.elemAt l
  destAt k i c (k.idxs.getD (c k.tdim) 0)
/-- Element l has a destination: a scatter's row whose index is known. -/
def Cmd.hasDest (k : Cmd) (l : Nat) : Bool := k.op != .s || (k.elemAt l).2 k.tdim < k.idxs.length

/-- The value of one destination element. -/
def elemValue (s : State) (q : CopyCtx) (k : Cmd) (l : Nat) : Except CopyFail Nat × State :=
  let (i, c) := k.elemAt l
  match k.op with
  | .f => (.ok (((vat k.blk 1).toNat <<< 32 + (vat k.blk 0).toNat) % 2 ^ entW k.dst), s)
  | .r => (List.range (k.rep + 1)).foldl (fun r j => match r with
      | (.error f, s) => (.error f, s)
      | (.ok d, s) => match sourceElem s q k j c 0 l with
        | (.error f, s) => (.error f, s)
        | (.ok v, s) => (.ok (combineElem k d v), s)) (.ok (k.old.getD l 0), s)
  | .g => match readIndex s q k (c k.tdim) with
    | (.error f, s) => (.error f, s)
    | (.ok idx, s) => sourceElem s q k i c idx l
  | _ => sourceElem s q k i c 0 l

/-- Elements formed in order. -/
def formElems (q : CopyCtx) (k : Cmd) : State → OutBytes → List Nat → Except CopyFail OutBytes × State
  | s, out, [] => (.ok out, s)
  | s, out, l :: rest =>
    match elemValue s q k l with
    | (.error f, s) => (.error f, s)
    | (.ok v, s) =>
      match formElem s q (k.dstSide q.own) (k.destOf l) v out with
      | (.error f, s) => (.error f, s)
      | (.ok out, s) => formElems q k s out rest

/-- Several values in turn; the first failure ends it. -/
def collect {α : Type} (f : State → Nat → Except CopyFail α × State) : State → List Nat → Except CopyFail (List α) × State
  | s, [] => (.ok [], s)
  | s, i :: r =>
    match f s i with
    | (.error e, s) => (.error e, s)
    | (.ok x, s) =>
      match collect f s r with
      | (.error e, s) => (.error e, s)
      | (.ok l, s) => (.ok (x :: l), s)

/-- Block b of 32 elements quantised (R170, R312): its elements, or its scale. -/
def formBlock (q : CopyCtx) (k : Cmd) (scale : Bool) (s : State) (out : OutBytes) (b : Nat) : Except CopyFail OutBytes × State :=
  let one : State → Nat → Except CopyFail (Nat × W32) × State := fun s j =>
    let l := 32 * b + j
    match sourceElem s q k (k.elemAt l).1 (k.elemAt l).2 0 0 with
    | (.error f, s) => (.error f, s)
    | (.ok v, s) => (.ok ((convert (entFmt k.src).toNat 1 rne false v).bits, (q.rnd k l).draw), s)
  match collect one s (List.range 32) with
  | (.error f, s) => (.error f, s)
  | (.ok xs, s) =>
    let (sc, es) := mxQuantise (entFmt k.dst).toNat k.rm.toNat xs
    if scale then formElem s q ⟨k.h2, k.h2n, none⟩ (scaleOrigin (k.destOf (32 * b))) sc out
    else es.zipIdx.foldl (fun (r : Except CopyFail OutBytes × State) e => match r with
      | (.error f, s) => (.error f, s)
      | (.ok out, s) => formElem s q (k.dstSide q.own) (k.destOf (32 * b + e.2)) e.1.bits out) (.ok out, s)
/-- Blocks in turn. -/
def formBlocks (q : CopyCtx) (k : Cmd) (scale : Bool) : State → OutBytes → List Nat → Except CopyFail OutBytes × State
  | s, out, [] => (.ok out, s)
  | s, out, b :: rest =>
    match formBlock q k scale s out b with
    | (.error f, s) => (.error f, s)
    | (.ok out, s) => formBlocks q k scale s out rest

/-! ## Destination sectors (R99, R101) -/

/-- The aligned 48-byte piece of a place that the engines write whole. -/
def VPlace.sector : VPlace → VPlace
  | .va a => .va (sectorBase a)
  | .scratch t o => .scratch t (48 * (o / 48))
/-- The places of element l, and of the scale of block b. -/
def Cmd.placesAt (q : CopyCtx) (k : Cmd) (l : Nat) : List VPlace :=
  let (u, n) := elemSpan k.dst (k.destOf l)
  (k.dstSide q.own).vplaces q.w u n
def Cmd.scaleAt (q : CopyCtx) (k : Cmd) (b : Nat) : List VPlace :=
  let (u, n) := elemSpan k.h2 (scaleOrigin (k.destOf (32 * b)))
  (⟨k.h2, k.h2n, none⟩ : Side).vplaces q.w u n
/-- Every place that the command writes; true: of scales. -/
def Cmd.allPlaces (q : CopyCtx) (k : Cmd) : List (Bool × VPlace) :=
  (((List.range k.elems).filter k.hasDest).flatMap fun l => (k.placesAt q l).map fun v => (false, v))
    ++ if k.mxq then (List.range (k.elems / 32)).flatMap fun b => (k.scaleAt q b).map fun v => (true, v) else []
/-- The sectors that are still to be written, in the order in which the elements reach them. -/
def Cmd.remaining (q : CopyCtx) (k : Cmd) : List (Bool × VPlace) :=
  ((k.allPlaces q).map fun x => (x.1, x.2.sector)).eraseDups.filter fun x => !k.landed.contains x

/-- The context of a command on a core. -/
def copyCtx (s : State) (c : CoreId) (k : Cmd) : CopyCtx :=
  let t := s.team c k.team
  { w := ⟨c, k.team, 0, 0⟩, asid := t.asid, own := s.hub.node.toNat, seed := LRec.seed t.lrec, team := Team.linear t
    src := k.ls, draws := match k.role with | none => k.gid.toNat | some .feeder => 64 | some .drain => 65 }

/-- The bytes of one destination sector, from every element that lies in it. -/
def formSector (s : State) (q : CopyCtx) (k : Cmd) (x : Bool × VPlace) : Except CopyFail OutBytes × State :=
  let inside : List VPlace → Bool := fun l => l.any fun v => v.sector == x.2
  let els := (List.range k.elems).filter fun l => k.hasDest l && inside (k.placesAt q l)
  let r := if !k.mxq then formElems q k s [] els
    else formBlocks q k x.1 s [] (if x.1 then (List.range (k.elems / 32)).filter fun b => inside (k.scaleAt q b)
      else (els.map (· / 32)).eraseDups)
  match r with
  | (.error f, s) => (.error f, s)
  | (.ok out, s) => (.ok (out.filter fun y => y.v.sector == x.2), s)

/-- The bytes of a command's future cell, or why they cannot be reached. -/
def cellPlaces (s : State) (q : CopyCtx) (t : Team) (k : Cmd) : Except CopyFail (List PLoc) :=
  match locate s t q.w .atomic k.fh.toNat k.cell [k.fc] 0 8 none with
  | .error t => .error { cause := t.cause, lh := k.fh }
  | .ok u => match resolveAll s q.w.core q.asid k.cell .write false (placesOf q.w 0 k.cell u 8) with
    | (.ok ps, _) => .ok ps
    | (.error (.page _ _), _) => .error { cause := 0x41, lh := k.fh }
    | (.error (.remote n), _) => .error { cause := 0x42, lh := k.fh, node := n }

/-- The completion objects that persists of a command are joined through (R103). -/
def joinKeys (s : State) (q : CopyCtx) (k : Cmd) : List JoinKey :=
  if k.remoteSignals then []
  else (if k.bi = 127 then [] else [.bar q.w.core k.team k.bi])
    ++ (if k.fut then (match cellPlaces s q (s.team q.w.core k.team) k with
      | .ok ps => ps.head?.toList.map .cell
      | .error _ => []) else [])

/-- Formed bytes written (R101), under the key and the step tag of the handle they go through (R109). -/
def writeOut (s : State) (q : CopyCtx) (k : Cmd) (scale : Bool) (out : OutBytes) : State :=
  let e := if scale then k.h2 else k.dst
  let key := keyRef s e
  let via := joinKeys s q k
  let tag := if entStg e then some k.step else none
  writeBytes (fun s w => engineStore q.w.core { w with owner := q.asid, key := key, tag := tag, sets := k.sets, via := via } s)
    s (out.map (·.p)) (out.map (·.b))

/-! ## The engines -/

/-- A command of a core's journal: numbers are the core's (R128). -/
def Core.cmd? (k : Core) (seq : W32) : Option Cmd := k.journal.find? fun q => q.seq == seq && k.run == some q.asid
def State.modCopy (s : State) (c : CoreId) (seq : W32) (f : Cmd → Cmd) : State :=
  s.modCore c fun x => { x with journal := updFirst (fun k => k.seq == seq && x.run == some k.asid) f x.journal }
/-- A command waits for an engine. -/
def Cmd.waiting (k : Cmd) : Bool := k.state == .queued || k.state == .discarded
/-- The engines take it next: of the running context's commands it is the first that waits, its fork is done, and one of the
two engines is free (R128). -/
def takes (x : Core) (k : Cmd) : Bool :=
  !k.held && (x.journal.find? fun j => j.waiting && x.run == some j.asid).any (fun j => j.seq == k.seq)
    && (x.journal.filter fun j => j.state == .inFlight).length < 2
/-- The context of a core runs, or its drain window is open (R132). -/
def enginesRun (k : Core) : Bool := k.run.isSome && k.stopping != .drained

/-- The indices of a scatter from row j on, up to the first that cannot be used. -/
def readIndices (q : CopyCtx) (k : Cmd) : State → List Nat → (List Nat × Option CopyFail) × State
  | s, [] => (([], none), s)
  | s, j :: r =>
    match readIndex s q k j with
    | (.error f, s) => (([], some f), s)
    | (.ok i, s) =>
      let ((l, f), s) := readIndices q k s r
      ((i :: l, f), s)
/-- An engine starts a command: the core's write-combining buffer drains (R100); a scatter's indices are read, and, once,
the destination of a copy-reduce. -/
def startCopy (s : State) (c : CoreId) (k : Cmd) : State :=
  let s := drainWcb (s.modCopy c k.seq fun k => { k with state := .inFlight, taken := true }) c
  let q := copyCtx s c k
  match k.op with
  | .s =>
    let ((l, f), s) := readIndices q k s (List.range (k.n k.tdim))
    s.modCopy c k.seq fun k => { k with idxs := l, stop := f.map CopyFail.state }
  | .r =>
    if !k.old.isEmpty then s
    else match collect (fun s l => readElem s q (k.dstSide q.own) (k.destOf l)) s (List.range k.elems) with
      | (.error f, s) => s.modCopy c k.seq fun k => { k with state := f.state }
      | (.ok l, s) => s.modCopy c k.seq fun k => { k with old := l }
  | _ => s

/-- Addresses of an element's bytes at the requester. -/
def Cmd.addrs (k : Cmd) (l : Nat) : List Nat := let (u, n) := elemSpan k.dst (k.destOf l); (List.range n).map fun j => pitch (entBase k.dst) (u + j)
/-- The cells of a reduction put in one destination sector (R440). -/
def putCells (s : State) (q : CopyCtx) (k : Cmd) (x : VPlace) : Except CopyFail (List (Nat × Byte)) × State :=
  let els := (List.range k.elems).filter fun l => (k.placesAt q l).any fun v => v.sector == x
  match collect (fun s l => match elemValue s q k l with
    | (.error f, s) => (.error f, s)
    | (.ok v, s) => (.ok (((k.addrs l).zip (k.placesAt q l)).zipIdx.filterMap fun y =>
        if y.1.2.sector == x then some (y.1.1, BitVec.ofNat 8 (v >>> (8 * y.2))) else none), s)) s els with
  | (.error f, s) => (.error f, s)
  | (.ok l, s) => (.ok l.flatten, s)
/-- A contribution with some of its cells. -/
def Cmd.contribution (k : Cmd) (s : State) (c : CoreId) (cells : List (Nat × Byte)) : Contribution :=
  { node := s.hub.node, put := k.seq.toNat + c.val <<< 32, op := k.cop, fmt := if k.cop = 1 then 0 else entFmt k.dst
    asid := k.asid, key := entKey k.dst, pst := entPst k.dst
    whole := ((List.range k.elems).flatMap k.addrs).eraseDups, cells := cells }
/-- Whether the switches have put a session into another package's slot, and whether it stands. -/
def farSession (s : State) (k : Cmd) : Option Bool :=
  (s.hub.far.sessions.find? fun x => x.1 == k.node && x.2.1 == (k.fv.toNat % 64)).map (·.2.2)
/-- Cells offered to the switches: an open session takes them; one that fails through them or has failed before fails the put;
without one the switches hold them. -/
def offerCells (s : State) (c : CoreId) (k : Cmd) (cells : List (Nat × Byte)) : Except Unit State :=
  let i : Fin 64 := Fin.ofNat 64 k.fv.toNat
  if k.node != s.hub.node then
    if farSession s k = some false || !reachable s k.node.toNat then .error () else .ok s
  else if (s.hub.sessions[i]).state = 1 then
    let t := contribute s i (k.contribution s c cells)
    if (t.hub.sessions[i]).state = 1 then .ok t else .error ()
  else .ok (s.modHub fun h => { h with early := h.early ++ [(i, k.contribution s c cells)] })
/-- Every sector of a put has left, and the switches hold none of it (R440). -/
def Cmd.accepted (k : Cmd) (s : State) (c : CoreId) : Bool :=
  (k.remaining (copyCtx s c k)).isEmpty
  && if k.node != s.hub.node then farSession s k == some true
     else !s.hub.early.any fun x => x.1.val == k.fv.toNat % 64 && x.2.node == k.node && x.2.put == k.seq.toNat + c.val <<< 32
/-- Puts into a slot that the switches have now accepted whole. -/
def acceptPuts (s : State) (i : Fin 64) : State :=
  let mark : CoreId → Cmd → Cmd := fun c k =>
    { k with handed := k.handed || (k.state == .inFlight && k.unaccepted s.hub.node i && k.accepted s c) }
  { s with cores := s.cores.mapFinIdx fun n (x : Core) h => { x with journal := x.journal.map (mark ⟨n, h⟩) } }
/-- One sector of a reduction put goes to the switches (R440). -/
def handSector (s : State) (c : CoreId) (k : Cmd) (x : Bool × VPlace) : State :=
  let stop : CopyFail → State → State := fun f s => s.modCopy c k.seq fun k => { k with state := f.state }
  match putCells s (copyCtx s c k) k x.2 with
  | (.error f, s) => stop f s
  | (.ok cells, s) => match offerCells s c k cells with
    | .error _ => stop { cause := 0x42, lh := k.ldh, node := k.node.toNat } s
    | .ok s => s.modCopy c k.seq fun k =>
      let k := { k with landed := k.landed ++ [x], sent := min (k.sent + cells.length) k.counted }
      { k with handed := k.accepted s c }

/-- One destination sector written and credited (R116, R129): short of the last byte, which completion credits (R311); in
deterministic mode completion credits all. -/
def landSector (s : State) (c : CoreId) (k : Cmd) (x : Bool × VPlace) : State :=
  let q := copyCtx s c k
  match formSector s q k x with
  | (.error f, s) => s.modCopy c k.seq fun k => { k with state := f.state }
  | (.ok out, s) =>
    let s := writeOut s q k x.1 out
    let all := k.sent + ((out.map (·.v)).eraseDups).length
    let sent := if k.remoteSignals then min all k.counted else if s.det c then k.sent else min all (k.counted - 1)
    let s := s.modCopy c k.seq fun k => { k with landed := k.landed ++ [x], sent := max k.sent sent }
    if k.bi = 127 || k.remoteSignals || sent ≤ k.sent then s else updateBar s c k.team k.bi (.deliver (sent - k.sent))

/-- COPY_DELIVERY: an engine starts the command if it waits, and writes the n-th of the destination sectors that remain; with
n beyond them a scatter meets the index that fails it (R313). -/
def execCopyDelivery (c : CoreId) (seq : W32) (n : Nat) (s : State) : Host.Outcome State Fault Refusal :=
  match s.cores[c].cmd? seq with
  | none => .next s
  | some k =>
    if !enginesRun s.cores[c] || !(s.team c k.team).tbHere || !(k.state == .inFlight || (k.waiting && takes s.cores[c] k)) then .next s
    else
      let s := if k.waiting then startCopy s c k else s
      match s.cores[c].cmd? seq with
      | none => .next s
      | some k =>
        if k.state != .inFlight then .next s
        else match (k.remaining (copyCtx s c k))[n]?, k.stop with
          | some x, _ => .next (if k.reduces then handSector s c k x else landSector s c k x)
          | none, some f => .next (s.modCopy c seq fun k => { k with state := f })
          | none, none => .next s

/-- In deterministic mode the commands of a context are credited in journal order (R129). -/
def creditable (s : State) (c : CoreId) (k : Cmd) : Bool :=
  !s.det c || (s.cores[c].journal.find? fun j => j.asid == k.asid).any fun j => j.seq == k.seq

/-- A command leaves the journal and its scoreboard entry completes. -/
def dropCopy (s : State) (c : CoreId) (k : Cmd) : State :=
  let s := s.modCore c fun x => { x with journal := delFirst (fun j => j.seq == k.seq && x.run == some j.asid) x.journal }
  if k.role.isSome then s
  else s.modGrp c k.idx fun g => { g with out := g.out.map fun o => if o.kind = .copy k.seq then { o with kind := .done } else o }

/-- A word filled into a future cell at the PKG point, unless the cell is full (R311, R120). -/
def fillAt (s : State) (q : CopyCtx) (k : Cmd) (ps : List PLoc) (w : W64) : State :=
  let key := keyRef s k.cell
  let ((bs, bad), s) := readBytes (fun s t b => atomSector s q.w.core t b key q.asid 3) s none ps
  if bad || (natLE bs).testBit 32 then s
  else writeBytes (fun s x => atomStore s q.w.core 3 { x with
    owner := q.asid, key := key, tag := if entStg k.cell then some k.step else none }) s ps (bytesLE 8 w.toNat)
/-- A word filled into the local future of a command; a cell that no longer translates keeps what it holds. -/
def fillLocal (s : State) (c : CoreId) (k : Cmd) (w : W64) : State :=
  if !k.fut || k.remoteSignals then s
  else
    let q := copyCtx s c k
    match cellPlaces s q (s.team c k.team) k with
    | .ok ps => fillAt s q k ps w
    | .error _ => s

/-- What a put still needs before it completes: nothing, an event of the switches, or it fails. -/
inductive PutEnd where
  | ready (s : State)
  | waits (s : State)
  | fails (f : CopyFail) (s : State)

/-- A reduction put completes when the switches have accepted all of it (R440). -/
def endReduction (s : State) (c : CoreId) (k : Cmd) : PutEnd :=
  if k.handed || k.accepted s c then .ready s
  else if k.node != s.hub.node && farSession s k == some false then .fails { cause := 0x42, lh := k.ldh, node := k.node.toNat } s
  else .waits s

/-- The end of a put (R316): its reduction, its future's fill at NODE, or its arrival at a barrier there. -/
def endPut (s : State) (c : CoreId) (k : Cmd) : PutEnd :=
  let q := copyCtx s c k
  let here := k.node == s.hub.node
  let gone : CopyFail := { cause := 0x42, lh := k.ldh, node := k.node.toNat }
  if !here && !reachable s k.node.toNat then .fails gone s
  else if k.reduces then endReduction s c k
  else if k.fut then
    if here then match cellPlaces s q (s.team c k.team) k with
      | .ok ps => .ready (fillAt s q k ps (cellValue k.fv))
      | .error f => .fails f s
    else
      let u := (elemSpan k.cell fun d => if d = 0 then (k.fc.toNat : Int) else 0).1
      let ps : List PLoc := (List.range 8).map fun j =>
        ⟨.fabric, fabricAddr (jobOf s q.asid) k.node.toNat (pitch (entBase k.cell) (u + j))⟩
      if ps.all fun p => farServes s true p.addr then .ready (fillAt s q k ps (cellValue k.fv)) else .fails gone s
  else if k.bi = 127 then .ready s
  else if here then match applySignal s (.arrive q.asid k.fv k.bi) with
    | .done s => .ready s
    | .held => .ready (s.modHub fun h => { h with puts := h.puts ++ [.arrive q.asid k.fv k.bi] })
    | .missing => .fails gone s
  else if s.hub.far.noSignal.contains (k.node, k.fv, k.bi) then .fails gone s
  else .ready (s.modHub fun h => { h with signals := (k.node, k.fv, k.bi) :: h.signals })

/-- The effects of completion in their order (R311). -/
def finishCopy (s : State) (c : CoreId) (k : Cmd) : State :=
  let s := if k.bi = 127 || k.remoteSignals then s else updateBar s c k.team k.bi (.deliver (k.counted - k.sent))
  let s := if k.rge then advanceRing s c k.team k.ring true 1 else s
  dropCopy (fillLocal s c k (cellValue k.fv)) c k

/-- COPY_COMPLETE: every sector has landed. A future cell that no longer translates fails the command (R130, R388). -/
def execCopyComplete (c : CoreId) (seq : W32) (s : State) : Host.Outcome State Fault Refusal :=
  match s.cores[c].cmd? seq with
  | none => .next s
  | some k =>
    let q := copyCtx s c k
    if !enginesRun s.cores[c] || !(s.team c k.team).tbHere || k.state != .inFlight || k.stop.isSome
        || !(k.remaining q).isEmpty || !creditable s c k || (k.rge && ((s.team c k.team).ring k.ring).free = 0) then .next s
    else
      let fail : CopyFail → State → Host.Outcome State Fault Refusal := fun f s =>
        .next (s.modCopy c seq fun k => { k with state := f.state })
      if k.op = .put then
        match endPut s c k with
        | .ready s => .next (finishCopy s c k)
        | .waits s => .next s
        | .fails f s => fail f s
      else match if k.fut then (cellPlaces s q (s.team c k.team) k).map (fun _ => ()) else .ok () with
        | .error f => fail f s
        | .ok _ => .next (finishCopy s c k)

/-- The report of R130: the record, the barrier and the future, the counter; the fault waits for the grid. The undelivered
bytes leave the barrier as a delivery does, so that R116's check runs before the failure is applied (log entry 104). -/
def reportFailure (s : State) (c : CoreId) (k : Cmd) (cause : BitVec 8) (lh : BitVec 6) (node : BitVec 14) (x1 x2 : W32) : State :=
  let t := s.team c k.team
  let (n, s) := faultLog s t.asid
    { kind := 1, cause := cause.toNat, info := trapInfo { cause := cause, x1 := x1, x2 := x2 }, aux := k.seq.toNat
      gid := if k.role.isSome then 0 else k.gid.toNat, core := c.val
      agent := match k.role with | none => 0 | some .feeder => 1 | some .drain => 2
      team := Team.linear t, node := node.toNat, lh := lh.toNat }
  let s := if k.bi = 127 || k.remoteSignals then s
    else updateBar (updateBar s c k.team k.bi (.deliver (k.counted - k.sent))) c k.team k.bi (.fail 0x03 n)
  let bar := if k.bi = 127 || k.remoteSignals then none else some (Team.linear t, k.bi)
  dropCopy (fillLocal (bindFault s t.grid cause n bar) c k (cellError 0x03 n)) c k

/-- ENGINE_OPERATION_FAULT. -/
def execEngineOperationFault (c : CoreId) (seq : W32) (s : State) : Host.Outcome State Fault Refusal :=
  match s.cores[c].cmd? seq with
  | none => .next s
  | some k =>
    match k.state with
    | .failed cause lh node x1 x2 =>
      if creditable s c k then .next (reportFailure s c k cause lh node x1 x2) else .next s
    | _ => .next s

/-! ## CPC and CPQ (R131, R317, R318) -/

/-- A command removed. -/
def cancelCopy (s : State) (c : CoreId) (k : Cmd) : State :=
  let s := if k.bi = 127 || k.remoteSignals then s else updateBar s c k.team k.bi (.deliver (k.counted - k.sent))
  dropCopy (fillLocal s c k (cellError 0x07 0)) c k

/-- The team's own command of a number. -/
def ownCmd (s : State) (c : CoreId) (team : Slot) (seq : W32) : Option Cmd :=
  (s.cores[c].cmd? seq).filter fun k => k.team == team

def execCpc (x : FmtR) (s : State) : Host.Outcome State Fault Refusal :=
  issue (.cpc x) s fun n _ g r =>
    let t := s.team s.core g.team
    if !producer t g then .trap (copyRights (r.words.getD r.idx 0)) false
    else match ownCmd s s.core g.team (g.rdS x.a.toNat) with
      | none => .short (s.modGrp s.core n fun g => g.wrQ x.d.toNat false)
      | some k => .short ((cancelCopy s s.core k).modGrp s.core n fun g => g.wrQ x.d.toNat true)

/-- STATE of R318. -/
def Cmd.stateCode (k : Cmd) : W32 :=
  match k.state with
  | .queued => 1
  | .inFlight | .failed .. => 2
  | .discarded => 3
/-- STATE and DONE of a team's command; zero when it is not in the journal. -/
def copyQuery (s : State) (c : CoreId) (team : Slot) (seq : W32) : W32 × W32 :=
  match ownCmd s c team seq with
  | none => (0, 0)
  | some k => (k.stateCode, w32 (min k.sent 0xFFFFFFFF))

def execCpq (x : FmtR) (s : State) : Host.Outcome State Fault Refusal :=
  issue (.cpq x) s fun n _ g _ =>
    let (a, b) := copyQuery s s.core g.team (g.rdS x.a.toNat)
    .short (s.modGrp s.core n fun g => (g.wrS x.d.toNat a).wrS (x.d.toNat + 1) b)

end Sys2Proof.Machine
end

