-- ==== Sys2Proof/Machine/Staging.lean ====
section
/-! DEFINITION. Last entries (R133, R134), where they land, and how they fail (R140). -/

namespace Sys2Proof.Machine
open Sys2Proof

/-! ## Fields (R133) -/

def stgLh (e : BitVec 512) : BitVec 6 := e.extractLsb' 0 6
def stgValid (e : BitVec 512) : Bool := e.getLsbD 7
def stgTgt (e : BitVec 512) : Nat := fieldN e 8 3
def stgToff (e : BitVec 512) : Nat := fieldN e 16 24
def stgSel (e : BitVec 512) (d : Nat) : Nat := fieldN e (40 + 2 * d) 2
def stgCrit (e : BitVec 512) : Bool := e.getLsbD 48
def stgBi (e : BitVec 512) : BitVec 7 := e.extractLsb' 49 7
def stgO (e : BitVec 512) (d : Nat) : Nat := fieldN e (128 + 64 * d) 32
def stgN (e : BitVec 512) (d : Nat) : Nat := fieldN e (160 + 64 * d) 32

/-- The origin of a team's box (R134). -/
def stgOrigin (e : BitVec 512) (t : Team) (d : Nat) : Int :=
  let k := match stgSel e d with | 1 => t.x.toNat | 2 => t.y.toNat | 3 => t.z.toNat | _ => 0
  (stgO e d + stgN e d * k : Nat)
/-- Bytes of the box. -/
def stgBytes (e h : BitVec 512) : Nat := stgN e 0 * entW h / 8 * (stgN e 1 * (stgN e 2 * stgN e 3))

/-- A barrier number that step 2 of R134 accepts. -/
def stgBiOk (e : BitVec 512) (t : Team) : Bool := stgBi e == 127 || t.hasBar (stgBi e)

/-- The cause of the first step of R134 that fails for a team; run: the entry was read by STAGE, which has judged step
2. -/
def stageCause (s : State) (c : CoreId) (t : Team) (e h : BitVec 512) (run : Bool) : Option (BitVec 8) :=
  let lh := (stgLh e)
  if fieldN e 384 128 ≠ 0 || fieldN e 56 72 ≠ 0 || fieldN e 11 5 ≠ 0 || e.getLsbD 6 || 3 < stgTgt e
      || (stgTgt e = 0 && stgToff e ≠ 0) then some 0x08
  else if !run && !stgBiOk e t then some 0x10
  else if !usable h || !keyOk s t.asid h then some 0x08
  else if !spaceAllows .stageSrc (entSpace h) || !(entRights h).getLsbD 3 then some 0x09
  else if (List.range 4).any fun d =>
      stgN e d == 0 || (entNdim h < d && (stgO e d != 0 || stgN e d != 1 || stgSel e d != 0)) then some 0x0A
  else match boxCheck s t ⟨c, 0, 0, 0⟩ .stageSrc ⟨h, lh, none⟩ (stgOrigin e t) (stgN e) with
    | some x => some x.cause
    | none =>
      if stgN e 0 * entW h % 8 ≠ 0 then some 0x0C
      else
        let room := match stgTgt e with
          | 1 => allocation t spShared
          | 2 => allocation t spWbuf
          | _ => allocation t spXbuf
        if stgTgt e ≠ 0 && room < stgToff e + stgBytes e h then some 0x0B else none

/-! ## Landing -/

/-- Coordinates of element i of a box. -/
def stageCoord (o : Nat → Int) (n : Nat → Nat) (i : Nat) (d : Nat) : Int :=
  match d with
  | 0 => o 0 + (i % n 0 : Nat)
  | 1 => o 1 + (i / n 0 % n 1 : Nat)
  | 2 => o 2 + (i / (n 0 * n 1) % n 2 : Nat)
  | _ => o 3 + (i / (n 0 * n 1 * n 2) : Nat)
/-- Elements of a box. -/
def stageCount (e : BitVec 512) : Nat := stgN e 0 * stgN e 1 * stgN e 2 * stgN e 3

/-- The bytes of a box, dimension 0 fastest, or the failure of the read. -/
def stageRead (s : State) (q : CopyCtx) (t : Team) (e h : BitVec 512) : Except CopyFail (List Byte) × State :=
  match collect (fun s i => readElem s q ⟨h, stgLh e, none⟩ (stageCoord (stgOrigin e t) (stgN e) i)) s (List.range (stageCount e)) with
  | (.error f, s) => (.error f, s)
  | (.ok l, s) => (.ok (bytesLE (stgBytes e h) (l.reverse.foldl (fun a v => a * 2 ^ entW h + v) 0)), s)

/-- The lines of a box placed in the staging ways (R76), or the failure of the read. -/
def stageLines (s : State) (c : CoreId) (t : Team) (e h : BitVec 512) : Option CopyFail × State :=
  let d := dieOf c
  (List.range (stageCount e)).foldl (fun (r : Option CopyFail × State) i =>
    match r.1 with
    | some f => (some f, r.2)
    | none =>
      let (u, m) := elemSpan h (stageCoord (stgOrigin e t) (stgN e) i)
      match resolveAll r.2 c t.asid h .read false (placesOf ⟨c, 0, 0, 0⟩ 0 h u m) with
      | (.error (.page _ _), s) => (some { cause := 0x41, lh := stgLh e }, s)
      | (.error (.remote n), s) => (some { cause := 0x42, lh := stgLh e, node := n }, s)
      | (.ok ps, s) => ps.foldl (fun (r : Option CopyFail × State) p =>
          let base := sectorBase p.addr
          let s := stageLine (drainPlace r.2 c p.tgt base) d p.tgt (lineOf base) (t.grid, Team.linear t)
          let (x, s) := l2Fetch s d p.tgt base (keyRef s h) t.asid
          (if x.poison then some { cause := 0x1D, lh := stgLh e } else r.1, s)) (none, s)) (none, s)

/-- The scratch memory that an entry names. -/
def stgMem (c : CoreId) (t : Slot) (e : BitVec 512) : MTgt :=
  match stgTgt e with
  | 1 => .shared c t
  | 2 => .wbuf c t
  | _ => .xbuf c t

/-- The failure of an entry reaches the log, its barrier if the team has been admitted, and the grid (R140). -/
def stageFail (s : State) (c : CoreId) (t : Team) (slot : Option Slot) (e : BitVec 512) (cause : BitVec 8) (node : Nat)
    (mark : W32 → State → State) : State :=
  let (n, s) := faultLog s t.asid { kind := 2, cause := cause.toNat, core := c.val, agent := 3, team := Team.linear t
                                    node := node, lh := (stgLh e).toNat }
  let s := bindFault (mark n s) t.grid cause n (if stgBi e = 127 then none else some (Team.linear t, stgBi e))
  match slot with
  | some k => if stgBi e != 127 && t.hasBar (stgBi e) then updateBar s c k (stgBi e) (.fail 0x04 n) else s
  | none => s

/-! ## The entries of a core -/

/-- Whose stage entry. -/
inductive StageOf where
  | team (t : Slot)
  | queued (n : Nat)
  deriving DecidableEq, Repr

/-- A team not yet admitted, with what its entries need of it. -/
def QTeam.stub (s : State) (q : QTeam) : Team :=
  match s.grid? q.grid with
  | none => { asid := q.asid, grid := q.grid }
  | some g =>
    { asid := q.asid, grid := q.grid, lrec := g.lrec
      x := BitVec.ofNat 16 (q.t % LRec.ex g.lrec)
      y := BitVec.ofNat 10 (q.t / LRec.ex g.lrec % LRec.ey g.lrec)
      z := BitVec.ofNat 6 (q.t / (LRec.ex g.lrec * LRec.ey g.lrec)) }

/-- The entry has landed, failed or has nothing to do. -/
def Stage.ended (x : Stage) : Bool := x.landed || x.fault.isSome
/-- The entries of a core that are still staging: admitted teams by slot, then queued teams, each in entry order. -/
def stagesOf (k : Core) : List (StageOf × Nat) :=
  let open' : List Stage → List Nat := fun l => (l.zipIdx.filter fun x => !x.1.ended).map (·.2)
  (List.finRange 64).flatMap (fun t => if (k.ctx.teams[t]).live then (open' (k.ctx.teams[t]).stages).map fun i => (.team t, i) else [])
  ++ (k.queued.zipIdx.filter fun q => !q.1.away).flatMap fun (q, n) => (open' q.stages).map fun i => (.queued n, i)

/-- The team of a stage entry, its slot when admitted, and the entry. -/
def stageAt (s : State) (c : CoreId) (x : StageOf × Nat) : Option (Team × Option Slot × Stage) :=
  match x.1 with
  | .team t => ((s.team c t).stages[x.2]?).map fun e => (s.team c t, some t, e)
  | .queued n => (s.cores[c].queued[n]?).bind fun q => (q.stages[x.2]?).map fun e => (q.stub s, none, e)
/-- A stage entry changed. -/
def modStage (s : State) (c : CoreId) (x : StageOf × Nat) (f : Stage → Stage) : State :=
  match x.1 with
  | .team t => s.modTeam c t fun y => { y with stages := modAt f x.2 y.stages }
  | .queued n => s.modCore c fun k => { k with queued := modAt (fun q => { q with stages := modAt f x.2 q.stages }) n k.queued }

/-! ## The stage engines (R135) -/

/-- The entries of a die that are still staging, with their core. -/
def dieStages (s : State) (d : Fin 4) : List (CoreId × (StageOf × Nat) × Stage) :=
  ((List.finRange 64).filter fun c => dieOf c = d).flatMap fun c =>
    (stagesOf s.cores[c]).filterMap fun x => (stageAt s c x).map fun y => (c, x, y.2.2)
/-- An engine may take the entry: one for the staging ways waits while a conversion is pending (R136). -/
def Stage.takeable (k : Die) (x : Stage) : Bool := stgTgt x.entry != 0 || k.blocked == 0
/-- The entry that a free engine takes: the first critical one of the earliest team; a speculative one only while no critical
one waits. -/
def nextStage (s : State) (d : Fin 4) : Option (CoreId × (StageOf × Nat) × Stage) :=
  let wait := sortBy (fun x => [x.2.2.no]) ((dieStages s d).filter fun x => !x.2.2.busy)
  let crit := wait.filter fun x => stgCrit x.2.2.entry
  (if crit.isEmpty then wait else crit).find? fun x => x.2.2.takeable s.dies[d]
/-- Free engines of a die's four take entries. -/
def engage (d : Fin 4) : Nat → State → State
  | 0, s => s
  | n + 1, s =>
    if 4 ≤ ((dieStages s d).filter fun x => x.2.2.busy).length then s
    else match nextStage s d with
      | none => s
      | some (c, x, _) => engage d n (modStage s c x fun y => { y with busy := true })

/-- The engine context of a stage entry. -/
def stageCtx (s : State) (c : CoreId) (t : Team) : CopyCtx :=
  { w := ⟨c, 0, 0, 0⟩, asid := t.asid, own := s.hub.node.toNat, seed := 0, team := 0, src := 0, draws := 0 }

/-- Bytes laid into the scratch of a team that is not admitted. -/
def QTeam.lay (e : BitVec 512) (bs : List Byte) (q : QTeam) : QTeam :=
  let put : Mem → Mem := fun m => putBytes (stgMem 0 0 e) m (stgToff e) bs
  match stgTgt e with
  | 1 => { q with shared := put q.shared }
  | 2 => { q with wbuf := put q.wbuf }
  | _ => { q with xbuf := put q.xbuf }
/-- Landed bytes put into a team's scratch. -/
def landBytes (s : State) (c : CoreId) (x : StageOf) (e : BitVec 512) (bs : List Byte) : State :=
  match x with
  | .team t => modMemOf s (fun m => putBytes (stgMem c t e) m (stgToff e) bs) (stgMem c t e)
  | .queued n => s.modCore c fun k => { k with queued := modAt (QTeam.lay e bs) n k.queued }

/-- The data of an entry moved: into its team's scratch, or its lines into the staging ways; or its failure. -/
def moveStage (s : State) (c : CoreId) (x : StageOf) (t : Team) (e : Stage) : Option CopyFail × State :=
  if stgTgt e.entry = 0 then
    (if (s.dies[dieOf c]).sways = 0 then (none, s) else stageLines s c t e.entry e.handle)
  else match stageRead s (stageCtx s c t) t e.entry e.handle with
    | (.error f, s) => (some f, s)
    | (.ok bs, s) => (none, landBytes s c x e.entry bs)

/-- The n-th entry still staging of a core, once free engines have taken entries: its place, team, slot and entry; none where
no engine serves it, or the engines do not run for its team. -/
def served (s : State) (c : CoreId) (n : Nat) : Option ((StageOf × Nat) × Team × Option Slot × Stage) :=
  ((stagesOf s.cores[c])[n]?).bind fun x => (stageAt s c x).bind fun y =>
    if y.2.2.busy && (y.2.1.isNone || (enginesRun s.cores[c] && y.1.tbHere)) then some (x, y) else none

/-- STAGE_ENTRY_LAND: the n-th entry still staging finishes its box. -/
def execStageEntryLand (c : CoreId) (n : Nat) (s : State) : Host.Outcome State Fault Refusal :=
  let s := engage (dieOf c) 4 s
  match served s c n with
  | none => .next s
  | some (x, t, slot, e) =>
    if (stageCause s c t e.entry e.handle (!e.launch)).isSome then .next s
    else match moveStage s c x.1 t e with
      | (some _, s) => .next s
      | (none, s) =>
        let s := modStage s c x fun y => { y with landed := true, busy := false }
        .next (match slot with
          | some k => if stgBi e.entry = 127 then s else updateBar s c k (stgBi e.entry) (.deliver e.total)
          | none => s)

/-- STAGE_ENTRY_FAULT: the n-th entry still staging is invalid, or its source cannot be read. -/
def execStageEntryFault (c : CoreId) (n : Nat) (s : State) : Host.Outcome State Fault Refusal :=
  let s := engage (dieOf c) 4 s
  match served s c n with
  | none => .next s
  | some (x, t, slot, e) =>
    let fail : BitVec 8 → Nat → State → State := fun cause node s =>
      stageFail s c t slot e.entry cause node fun k s => modStage s c x fun y => { y with fault := some k, busy := false }
    match stageCause s c t e.entry e.handle (!e.launch) with
    | some cause => .next (fail cause 0 s)
    | none => match moveStage s c x.1 t e with
      | (some f, s) => .next (fail f.cause f.node s)
      | (none, _) => .next s

end Sys2Proof.Machine
end

