-- ==== Sys2Proof/Machine/Control.lean ====
section
/-! DEFINITION. Control instructions (R220 to R230, R324): transfers, joins, exits, sleeps, traps, power hints. -/

namespace Sys2Proof.Machine
open Sys2Proof

/-! ## Transfers (R221) -/

/-- The outcome of the checks of a target. -/
inductive Target where
  | ok (s : State)
  | bad (t : Trap)
  | wait (s : State)

/-- BAD_TARGET with its code (R397). -/
def badTarget (lane : Option (Fin 32)) (x : W32) (code : Nat) : Trap :=
  { cause := 0x05, lane := lane, x1 := x, x2 := w32 code }

/-- The targets of the transferring lanes checked, lowest lane first; a page that cannot be read holds the issue. -/
def checkTargets (c : CoreId) (i : Slot) (t : Team) (f : Fin 32 → Int) : State → List (Fin 32) → Target
  | s, [] => .ok s
  | s, l :: r =>
    let x := trunc 32 (f l)
    if f l % 8 ≠ 0 then .bad (badTarget (some l) x 0)
    else if f l < 0 || (LRec.codeSize t.lrec : Int) ≤ f l then .bad (badTarget (some l) x 1)
    else match codeWord s c t x.toNat with
      | (.error (va, ty), s) => .wait (awaitFault s c i va ty 3)
      | (.ok w, s) => if hdrBrt w then checkTargets c i t f s r else .bad (badTarget (some l) x 2)

/-- Lanes leave the clause for their targets. -/
def Group.jump (g : Group) (m : Mask) (f : Fin 32 → W32) : Group :=
  { g with pc := Vector.ofFn fun l => if m.getLsbD l.val then f l else g.pc[l]
           run := g.run.map fun r => { r with lanes := r.lanes &&& ~~~m } }

/-- A transfer of the transferring lanes; link: the group with its link written. -/
def transfer (s : State) (n : Slot) (h : Hd) (g : Group) (r : Run) (f : Fin 32 → Int) (link : Group → Group) : Eff :=
  let m := takingLanes h g r
  match checkTargets s.core n (s.team s.core g.team) f s (lanesOf m) with
  | .bad t => .trap t false
  | .wait s => .stall s
  | .ok s => .short (s.modGrp s.core n fun _ => (link g).jump m fun l => trunc 32 (f l))

/-- The target of a C-format transfer. -/
def cTarget (r : Run) (off : BitVec 32) : Int := (r.pc.toNat : Int) + 8 * off.toInt
/-- The target a register gives a lane. -/
def rTarget (h : Hd) (g : Group) (a : Nat) (l : Fin 32) : Int := (g.src h.u a l).toNat
/-- The link of a call (R223). -/
def linkOf (r : Run) : W32 := nextHeader r.pc r.hdr

def execBra (x : FmtC) (s : State) : Host.Outcome State Fault Refusal :=
  issue (.bra x) s fun n h g r => transfer s n h g r (fun _ => cTarget r x.off) id
def execBrx (x : FmtR) (s : State) : Host.Outcome State Fault Refusal :=
  issue (.brx x) s fun n h g r => transfer s n h g r (rTarget h g x.a.toNat) id
def execCall (x : FmtC) (s : State) : Host.Outcome State Fault Refusal :=
  issue (.call x) s fun n h g r => transfer s n h g r (fun _ => cTarget r x.off)
    fun g => g.dst h.u x.d.toNat (acting h g r) fun _ => linkOf r
/-- The target is read before the link is written. -/
def execCallx (x : FmtR) (s : State) : Host.Outcome State Fault Refusal :=
  issue (.callx x) s fun n h g r => transfer s n h g r (rTarget h g x.a.toNat)
    fun g => g.dst h.u x.d.toNat (acting h g r) fun _ => linkOf r
/-- RET transfers as BRX does; its return predictor affects timing only. -/
def execRet (x : FmtR) (s : State) : Host.Outcome State Fault Refusal :=
  issue (.ret x) s fun n h g r => transfer s n h g r (rTarget h g x.a.toNat) id

/-! ## Divergence (R224 to R227) -/

/-- MEET (R224): the lane's MEET into D, then MEET := M. -/
def execMeet (x : FmtC) (s : State) : Host.Outcome State Fault Refusal :=
  issue (.meet x) s fun n h g r =>
    let m := acting h g r
    let t := cTarget r x.off
    if t < 0 || (LRec.codeSize (s.team s.core g.team).lrec : Int) ≤ t then .trap (badTarget (lowLane m) (trunc 32 t) 1) false
    else .short (s.modGrp s.core n fun _ =>
      { g.wrV x.d.toNat m (fun l => g.meet[l]) with
        meet := Vector.ofFn fun l => if m.getLsbD l.val then trunc 32 (t / 8) else g.meet[l] })

/-- JOIN (R225): the lanes whose MEET designates this clause arrive; the end of the clause holds or releases them. -/
def execJoin (x : FmtR) (s : State) : Host.Outcome State Fault Refusal :=
  issueRegs (.join x) s fun h g r =>
    let m := acting h g r &&& maskOf fun l => (g.meet[l]).toNat * 8 == r.pc.toNat
    { g with run := g.run.map fun r => { r with arrive := m, joinReg := x.a } }

/-- EXIT (R226): lanes held at a meeting point of an exited sibling are released at once (R42). -/
def execExitLanes (x : FmtR) (s : State) : Host.Outcome State Fault Refusal :=
  issueRegs (.exitLanes x) s fun h g r =>
    let m := takingLanes h g r
    Group.releaseHeld { g with
      lane := Vector.ofFn fun l => if m.getLsbD l.val then .exited else g.lane[l]
      run := g.run.map fun r => { r with lanes := r.lanes &&& ~~~m } } m

/-- YIELD (R227). -/
def execYieldTurn (x : FmtR) (s : State) : Host.Outcome State Fault Refusal :=
  issueRegs (.yieldTurn x) s fun h g r =>
    let m := takingLanes h g r
    { g with lane := Vector.ofFn fun l => if m.getLsbD l.val then .yielded else g.lane[l]
             run := g.run.map fun r => { r with yield := true } }

/-- SLEEP (R228): the block starts at the end of the clause. -/
def execSleep (x : FmtI24) (s : State) : Host.Outcome State Fault Refusal :=
  issueRegs (.sleep x) s fun _ g _ => { g with sleepReq := max g.sleepReq x.imm.toNat }

/-! ## Power hints (R141, R324) -/

/-- The window that a fifth hint replaces: the one that ends soonest, of two such the older. -/
def soonest (l : List Hint) : Option Hint :=
  l.foldl (fun a h => match a with
    | none => some h
    | some b => if h.ends < b.ends || (h.ends == b.ends && h.order < b.order) then some h else a) none
/-- A window opened at a cycle; a window that has ended no longer counts. -/
def addHint (x : CtxCore) (now cap : Nat) (imm : BitVec 24) : CtxCore :=
  let i := fieldN imm 4 4
  if i = 0 then { x with hints := [] }
  else
    let open' := now + 64 * fieldN imm 0 4
    let h : Hint := ⟨open', open' + 2 ^ (4 + fieldN imm 8 4), min i cap, x.hintNo⟩
    let live := x.hints.filter fun w => now < w.ends
    let live := if live.length < 4 then live else match soonest live with
      | some w => delFirst (· == w) live
      | none => live
    { x with hints := live ++ [h], hintNo := x.hintNo + 1 }

def execPhint (x : FmtI24) (s : State) : Host.Outcome State Fault Refusal :=
  issue (.phint x) s fun _ _ g _ =>
    .short (s.modCtx s.core fun y => addHint y (s.cycles s.core) (LRec.hintCap (s.team s.core g.team).lrec) x.imm)

/-! ## Traps by instruction (R229) -/

def execTrap (x : FmtI24) (s : State) : Host.Outcome State Fault Refusal :=
  issue (.trap x) s fun _ _ _ _ => .trap { cause := 0x30, x1 := x.imm.setWidth 32 } true
def execBkpt (x : FmtI24) (s : State) : Host.Outcome State Fault Refusal :=
  issue (.bkpt x) s fun _ _ _ _ => .trap { cause := 0x31, x1 := x.imm.setWidth 32 } true

end Sys2Proof.Machine
end

