-- ==== Sys2Proof/Machine/Tasks.lean ====
section
/-! DEFINITION. Tasks and child grids as instructions (R36, R37, R319 to R322), and STAGE (R323). -/

namespace Sys2Proof.Machine
open Sys2Proof

/-! ## TSPAWN (R36, R319) -/

/-- Tasks pending on the core. -/
def CtxCore.pending (x : CtxCore) : Nat := x.pool.length + x.bins.foldl (fun n b => n + b.tasks.length) 0

/-- One lane offered to the pool; a bin of 32 becomes a task group. -/
def offerTask (s : State) (c : CoreId) (t : Slot) (entry : W32) (arg : Vector W32 8) : Bool × State :=
  if 4096 ≤ (s.cores[c].ctx).pending then (false, s)
  else
    let k : Task := { num := (s.team c t).tnum, team := t, entry := entry, arg := arg, born := s.cycles c }
    let s := s.modTeam c t fun x => { x with tnum := x.tnum + 1 }
    (true, s.modCtx c fun x =>
      let x := { x with pool := x.pool ++ [k] }
      if 32 ≤ (x.bin t entry).length then x.formBin t entry else x)
/-- The lanes offered, lowest first; which were accepted. -/
def offerTasks (c : CoreId) (t : Slot) (entry : W32) (arg : Fin 32 → Vector W32 8) : State → List (Fin 32) → Mask × State
  | s, [] => (0, s)
  | s, l :: r =>
    let (ok, s) := offerTask s c t entry (arg l)
    let (m, s) := offerTasks c t entry arg s r
    (if ok then m ||| bitOf 32 l.val else m, s)

def execTspawn (x : FmtC) (s : State) : Host.Outcome State Fault Refusal :=
  issue (.tspawn x) s fun n h g r =>
    let t := s.team s.core g.team
    let entry := cTarget r x.off
    match checkTargets s.core n t (fun _ => entry) s ((lanesOf (takingLanes h g r)).take 1) with
    | .bad t => .trap t false
    | .wait s => .stall s
    | .ok s =>
      let m := acting h g r
      let (ok, s) := offerTasks s.core g.team (trunc 32 entry)
        (fun l => Vector.ofFn fun i => g.src h.u (x.d.toNat + i.val) l) s (lanesOf m)
      .short (s.modGrp s.core n fun g => g.pdst h.u x.lo.m.toNat m fun l => ok.getLsbD l.val)

/-- TARG (R322). -/
def execTarg (x : FmtR) (s : State) : Host.Outcome State Fault Refusal :=
  issueRegs (.targ x) s fun h g r =>
    (List.range 8).foldl (fun k i => k.wrV (x.d.toNat + i) (acting h g r) fun l => vat g.arg[l] i) g

/-! ## TCHILD (R33, R34, R320) -/

/-- CHILD_RIGHTS and CHILD_DEPTH name the opcode. -/
def childTrap (cause : BitVec 8) (w : W64) : Trap := { cause := cause, x1 := (w.extractLsb' 0 10).setWidth 32 }

def execTchild (x : FmtR) (s : State) : Host.Outcome State Fault Refusal :=
  issue (.tchild x) s fun n _ g r =>
    let t := s.team s.core g.team
    let w := r.words.getD r.idx 0
    let a := g.rdS x.a.toNat
    let e := t.ls[(a.extractLsb' 0 6).toFin]
    let deep := match s.grid? t.grid with | some k => k.depth.toNat == 16 | none => false
    if g.gid != 0 then .trap (childTrap 0x19 w) false
    else if deep then .trap (childTrap 0x1A w) false
    else if fieldN a 6 26 ≠ 0 then .trap (dataTrap r) false
    else match locate s t ⟨s.core, g.team, n, 0⟩ .load (fieldN a 0 6) e [g.rdS (x.a.toNat + 1)] 0 256 none with
      | .error t => .trap t false
      | .ok u => .long s { sb := 7, rel := some 3
                           kind := .mem [{ lane := 0, entry := e, u := u, lh := a.extractLsb' 0 6, size := 256, op := .child x.d x.b }] }

/-! ## TWAIT (R37, R321) -/

/-- What a wait for children comes to. -/
inductive ChildWait where
  | done
  | waits
  | faulted (id : W32) (slot : Fin 4096)

/-- One child by slot and generation; an identifier that no longer matches counts as completed. -/
def childState (s : State) (slot : BitVec 12) (gen : BitVec 20) : ChildWait :=
  let k := s.hub.childs[slot.toFin]
  if !k.held || k.gen != gen then .done
  else if !k.done then .waits
  else if k.fault && !k.told then .faulted (gen ++ slot) slot.toFin
  else .done
/-- Several children: a fault first, in order of launch. -/
def childrenState (s : State) (l : List (BitVec 12 × BitVec 20)) : ChildWait :=
  l.foldr (fun k r => match childState s k.1 k.2, r with
    | .faulted i f, _ => .faulted i f
    | _, .faulted i f => .faulted i f
    | .waits, _ => .waits
    | .done, r => r) .done

/-- Completed children that this team's wait has observed without fault give their slots back (R34). -/
def freeChildren (s : State) (c : CoreId) (t : Slot) (l : List (BitVec 12 × BitVec 20)) : State :=
  s.modHub fun h => { h with childs := l.foldl (fun v k => vmod v k.1.toFin fun x =>
    if x.held && x.gen == k.2 && x.done && !x.fault && x.core == c && x.team == t then { x with held := false } else x) h.childs }

/-- A child fault delivered: ASYNC_FAULT names the child and its fault-log record. -/
def childFault (s : State) (id : W32) (slot : Fin 4096) : Trap × State :=
  let k := s.hub.childs[slot]
  ({ cause := 0x1C, x1 := id, x3 := k.flog }, s.modHub fun h => { h with childs := vmod h.childs slot fun x => { x with told := true } })

/-- A task of a team below a number has not exited, outside a group. -/
def tasksOpen (x : CtxCore) (t : Slot) (below : Nat) (own : Slot) : Bool :=
  (x.pool.any fun k => k.team == t && k.num < below)
  || (x.bins.any fun b => b.team == t && b.tasks.any fun k => k.num < below)
  || (List.finRange 64).any fun i =>
    let g := x.groups[i]
    i != own && g.resident && g.team == t
      && (g.tasks.zipIdx.any fun k => k.1 < below && g.lane[Fin.ofNat 32 k.2] != .exited)

/-- The group has a TCHILD that has not launched. -/
def Group.launching (g : Group) : Bool :=
  g.out.any fun o => match o.kind with
    | .mem accs => accs.any fun a => (match a.op with | .child .. => true | _ => false)
    | _ => false

/-- TWAIT: it flushes the team's bins as it issues, and waits for what was launched or spawned before it. -/
def execTwait (x : FmtR) (s : State) : Host.Outcome State Fault Refusal :=
  issue (.twait x) s fun n _ g _ =>
    let t := s.team s.core g.team
    let s := if g.block == .polling then s else s.modCtx s.core fun y => y.flushTeam g.team
    let park : State → Eff := fun s => .ended (s.modGrp s.core n fun g => { g with block := .polling })
    let fin : Option (BitVec 3) → State → Eff := fun acq s => .long (acqWork s s.core acq) { sb := 7, kind := .done }
    if x.lo.b23 then
      let below := if g.block == .polling then g.waitTask else t.tnum
      let s := s.modGrp s.core n fun g => { g with waitTask := below }
      if tasksOpen s.cores[s.core].ctx g.team below n then park s else fin (some 1) s
    else
      let a := g.rdS x.a.toNat
      if x.lo.b22 && g.waitKids.isNone && g.launching then park s
      else
        let l := if x.lo.b22 then g.waitKids.getD t.children else [(a.extractLsb' 0 12, a.extractLsb' 12 20)]
        let s := s.modGrp s.core n fun g => { g with waitKids := some l }
        match childrenState s l with
        | .faulted id slot =>
          let (t, s) := childFault s id slot
          .async s t
        | .waits => park s
        | .done => fin (some 3) (freeChildren s s.core g.team l)

/-! ## STAGE (R138, R323) -/

/-- Entries of a team still staging. -/
def Team.staging (t : Team) : Nat := (t.stages.filter fun x => !x.ended).length

/-- The 64 bytes of an entry read for STAGE. -/
inductive StageRead where
  | got (e : BitVec 512) (s : State)
  | trap (t : Trap)
  | wait (s : State)

def stageFetch (s : State) (n : Slot) (g : Group) (lh : BitVec 6) (e : Ent) (u : Nat) : StageRead :=
  let t := s.team s.core g.team
  match resolveAll s s.core t.asid e .read true (placesOf ⟨s.core, g.team, n, 0⟩ (LRec.pb t.lrec) e u 64) with
  | (.error (.page va ty), s) => .wait (awaitFault s s.core n va ty 0)
  | (.error (.remote node), s) => .wait (contextFault s t.asid 0x10 { groupRec s s.core n 9 0x42 0 with node := node, lh := lh.toNat })
  | (.ok ps, s) =>
    let ((bs, bad), s) := readBytes (fun s t' b => loadSector s s.core 0 t' b (keyRef s e) t.asid (t.order + 1)) s none ps
    if bad then .trap { cause := 0x1D } else .got (BitVec.ofNat 512 (natLE bs)) s

/-- An entry that STAGE has read (R323). -/
def stageEntry (s : State) (g : Group) (d : BitVec 8) (e : BitVec 512) : Eff :=
  let t := s.team s.core g.team
  let answer : Bool → State → Eff := fun b s => .long s { sb := 7, kind := .done, writes := [.q (d.setWidth 2) b] }
  let bi := stgBi e
  if !stgValid e then answer true s
  else if !stgBiOk e t then .trap (barRange bi) false
  else if bi != 127 && (t.bar bi).mode != 1 then .trap (barTrap 0x12 bi (t.bar bi)) false
  else if 8 ≤ t.staging then answer false s
  else
    let h := t.ls[(stgLh e).toFin]
    let total := if (stageCause s s.core t e h true).isSome then 0 else stgBytes e h
    let s := s.modTeam s.core g.team fun t => { t with
      stages := t.stages ++ [{ entry := e, handle := h, launch := false, total := total, no := t.stageNo }] }
    answer true (if bi = 127 then s else updateBar s s.core g.team bi (.issue total))

def execStage (x : FmtM) (s : State) : Host.Outcome State Fault Refusal :=
  issue (.stage x) s fun n h g r =>
    let t := s.team s.core g.team
    if 32 ≤ g.gid.toNat then .trap (copyRights (r.words.getD r.idx 0)) false
    else
      let e := g.cap.getD (t.ls[x.lh.toFin])
      match laneVia s n h g .load (mref x 64) e 0 with
      | .error t => .trap t false
      | .ok u =>
        let s := s.modGrp s.core n fun g => { g with cap := some e }
        if g.memPending then .ended (s.modGrp s.core n fun g => { g with block := .polling })
        else match stageFetch s n g x.lh e u with
          | .wait s => .stall s
          | .trap t => .trap t false
          | .got e s => stageEntry s g x.d e

end Sys2Proof.Machine
end

