-- ==== Sys2Proof/Machine/Teams.lean ====
section
/-! DEFINITION. Teams: their staging and admission (R29 to R31, R49, R74, R135, R136, R340), task groups (R37, R38),
retirement and the completion of grids (R32, R34, R379, R459). -/

namespace Sys2Proof.Machine
open Sys2Proof

/-! ## Queued teams -/

/-- The record of a queued team's grid. -/
def QTeam.lrec (s : State) (q : QTeam) : LRec := ((s.grid? q.grid).map (·.lrec)).getD (.replicate 32 0)
/-- Its effective class (R49). -/
def QTeam.effClass (s : State) (q : QTeam) : Nat := min 7 ((LRec.prio (q.lrec s)).toNat + q.risen.toNat)
/-- The context is stopped for a debugger (R399): nothing of it is admitted or runs. -/
def debugged (s : State) (a : Asid) : Bool := (s.ctxRec a).debug

/-- A context that waits for a core: its best effective class, and when that class was first offered. -/
structure Contender where
  asid    : Asid
  cls     : Nat
  prio    : Nat
  offered : Nat
  deriving DecidableEq, Repr

/-- A staged entry holds space of the core. -/
def Stage.holds (x : Stage) : Bool := stgValid x.entry && stgTgt x.entry != 0
/-- The team holds no scratch of a core: with no entry, or with entries for the staging ways alone, it is bound to a die and
may be admitted by any of its cores (R135); in deterministic mode to its core alone (R30). -/
def QTeam.floats (q : QTeam) (g : Grid) (c : CoreId) : Bool :=
  !q.stages.any Stage.holds && !LRec.det g.lrec && g.cmask.getLsbD c.val
/-- The teams that a core may admit: core and place of each; those queued for it first. -/
def waitingFor (s : State) (c : CoreId) : List (CoreId × Nat × QTeam) :=
  let own := (s.cores[c].queued.zipIdx.filter fun x => !x.1.away).map fun x => (c, x.2, x.1)
  own ++ ((List.finRange 64).filter fun d => d != c && dieOf d == dieOf c).flatMap fun d =>
    (s.cores[d].queued.zipIdx.filter fun x => !x.1.away && (s.grid? x.1.grid).any fun g => x.1.floats g c).map fun x => (d, x.2, x.1)

/-- The teams that wait for a core: those it may admit, and those of a context that has been pre-empted there, which
stand first among equals. -/
def contenders (s : State) (c : CoreId) : List Contender :=
  let k := s.cores[c]
  let away : List Contender := k.saved.flatMap fun (x : Asid × CtxCore) => (x.2.teams.toList.filter fun t => t.live).map fun t =>
    ⟨x.1, (LRec.prio t.lrec).toNat, (LRec.prio t.lrec).toNat, 0⟩
  let here : List Contender := (waitingFor s c).map fun (_, _, q) => ⟨q.asid, q.effClass s, (LRec.prio (q.lrec s)).toNat, q.offered⟩
  (away ++ here).filter fun x => !debugged s x.asid

/-- The contender with the highest effective class, the first offered among equals. -/
def bestContender (l : List Contender) : Option Contender :=
  l.foldl (fun b x => match b with
    | none => some x
    | some y => if y.cls < x.cls || (y.cls == x.cls && x.offered < y.offered) then some x else some y) none

/-- The highest class among the running context's resident teams on a core; none without one. -/
def residentClass (x : CtxCore) : Option Nat :=
  (x.teams.toList.filter (·.live)).foldl (fun m t =>
    let p := (LRec.prio t.lrec).toNat
    some (match m with | some y => max y p | none => p)) none

/-! ## Staging start (R135) -/

/-- Bytes still to be staged on a die: in flight or reserved. -/
def stagingBytes (s : State) (d : Fin 4) : Nat :=
  let sum : List Stage → Nat := fun l => (l.filter fun x => !x.ended).foldl (fun n x => n + x.total) 0
  (List.finRange 64).foldl (fun n c =>
    if dieOf c != d then n
    else
      let k := s.cores[c]
      n + k.ctx.teams.toList.foldl (fun m t => m + sum t.stages) 0 + (k.queued.filter fun q => !q.away).foldl (fun m q => m + sum q.stages) 0) 0

/-- The cores of deterministic mode in increasing index (R30, R375). -/
def maskCores (m : W64) : List CoreId := (List.finRange 64).filter fun c => m.getLsbD c.val
/-- The core may be taken for team t of a grid. -/
def coreFits (g : Grid) (t : Nat) (c : CoreId) : Bool :=
  let cs := maskCores g.cmask
  if LRec.det g.lrec then cs[t % cs.length]? == some c else g.cmask.getLsbD c.val

/-- Space reserved on a core for the queued teams of a context with staged data, one of them left out. -/
def reserved (s : State) (k : Core) (a : Asid) (sp : Nat) (but : Nat) : Nat :=
  k.queued.zipIdx.foldl (fun n q =>
    if q.1.asid == a && !q.1.away && q.2 != but && q.1.stages.any Stage.holds then n + allocation { lrec := q.1.lrec s } sp else n) 0
/-- Space held by the resident teams of a context (R32). -/
def held (x : CtxCore) (sp : Nat) : Nat :=
  (List.finRange 64).foldl (fun n t => if (x.teams[t]).live && x.busyTeam t then n + allocation x.teams[t] sp else n) 0
/-- Barriers of the core's 96 that its resident teams hold (R32, R113). -/
def heldBars (x : CtxCore) : Nat :=
  (List.finRange 64).foldl (fun n t => if (x.teams[t]).live && x.busyTeam t then n + LRec.nbars (x.teams[t]).lrec else n) 0
/-- Bytes of a space on a core (R74, R13): SHARED at its largest carve. -/
def spaceBytes (sp : Nat) : Nat := if sp = spShared then 393216 else if sp = spYbuf then 8388608 else 4194304

/-- The launch entries of a team (R133): critical before speculative; with no staging ways an entry for them has
landed. -/
def launchStages (s : State) (c : CoreId) (t : Team) : List Stage :=
  let r := t.lrec
  let lays := layoutTable s t.asid r
  let es := (List.range (LRec.nlast r)).map fun i =>
    BitVec.ofNat 512 (natLE ((contextBytes s t.asid (LRec.lastTable r) (64 * i) 64 .read).getD []))
  let used := es.filter stgValid
  ((used.filter stgCrit) ++ used.filter fun e => !stgCrit e).map fun e =>
    let h := lays.getD (stgLh e).toNat 0
    let bad := (stageCause s c t e h false).isSome
    { entry := e, handle := h, launch := true, total := if bad then 0 else stgBytes e h, no := (s.dies[dieOf c]).stageNo
      landed := !bad && stgTgt e == 0 && (s.dies[dieOf c]).sways == 0 && (s.dies[dieOf c]).blocked == 0 }

/-- The descriptor of a context read (R385). -/
def readDesc (s : State) (a : Asid) : State :=
  let base := s.hub.ctxbase.toNat + 64 * a.toNat
  let bs := (List.range 64).map fun i => dramByte s (densePa (base + i))
  s.modCtxRec a fun x => { x with desc := BitVec.ofNat 512 (natLE bs) }
/-- A context is bound to a core. -/
def boundTo (k : Core) (a : Asid) : Bool := k.run == some a || k.saved.any (·.1 == a) || k.queued.any (·.asid == a)

/-- A grid takes the next number when its first team is offered (R27). -/
def numberGrid (s : State) (g : Nat) : State :=
  match (s.grid? g).bind (·.number) with
  | some _ => s
  | none => (s.modGrid g fun x => { x with number := some s.hub.gridNo }).modHub fun h => { h with gridNo := h.gridNo + 1 }

/-- The staging budget of the die and the space of the core have room for a team's entries (R135); i: its place among the
core's queued teams. -/
def stagingRoom (s : State) (c : CoreId) (g : Grid) (i : Nat) (st : List Stage) : Bool :=
  let k := s.cores[c]
  let need := (st.filter fun x => !x.ended).foldl (fun n x => n + x.total) 0
  stagingBytes s (dieOf c) + need ≤ (s.dies[dieOf c]).stgbud.toNat * 65536
  && (!st.any Stage.holds || [spShared, spWbuf, spXbuf, spYbuf].all fun sp =>
    held k.ctx sp + reserved s k g.asid sp i + allocation { lrec := g.lrec } sp ≤ spaceBytes sp)
/-- The staging of a team takes its place in the die's queue. -/
def countStage (s : State) (c : CoreId) : State := s.modDie (dieOf c) fun d => { d with stageNo := d.stageNo + 1 }

/-- STAGING_START: the next team of a grid is bound to a core, its entries queued; before it one that the core holds and whose
context had been pre-empted is offered again (R139). -/
def execStagingStart (c : CoreId) (grid : Nat) (s : State) : Host.Outcome State Fault Refusal :=
  match s.grid? grid with
  | none => .next s
  | some g =>
    let k := s.cores[c]
    if g.killed || g.done then .next s
    else match k.queued.zipIdx.find? fun x => x.1.away && x.1.grid == grid with
      | some (q, i) =>
        let st := launchStages s c (q.stub s)
        if !stagingRoom s c g i st then .next s
        else .next (countStage (s.modCore c fun k => { k with queued := modAt (fun q =>
          { q with away := false, stages := st, no := (s.dies[dieOf c]).stageNo }) i k.queued }) c)
      | none =>
        if LRec.teams g.lrec ≤ g.next || !coreFits g g.next c then .next s
        else
          let s := if boundTo k g.asid then s else readDesc s g.asid
          let q : QTeam := { grid := grid, t := g.next, asid := g.asid, offered := s.cycles c, no := (s.dies[dieOf c]).stageNo }
          let st := launchStages s c (q.stub s)
          if !stagingRoom s c g k.queued.length st then .next s
          else
            let s := countStage (numberGrid s grid) c
            let s := s.modGrid grid fun g => { g with next := g.next + 1 }
            .next (s.modCore c fun k => { k with queued := k.queued ++ [{ q with stages := st }] })

/-- ADMISSION_DEADLINE: the n-th queued team of a core has waited as long as its record allows (R136). -/
def execAdmissionDeadline (c : CoreId) (n : Nat) (s : State) : Host.Outcome State Fault Refusal :=
  match s.cores[c].queued[n]? with
  | none => .next s
  | some q =>
    if s.cycles c < q.offered + 1024 * LRec.deadline (q.lrec s) then .next s
    else .next (s.modCore c fun k => { k with queued := modAt (fun q => { q with late := true }) n k.queued })

/-- SLEXP of SCHEDCFG as it acts; none when there is no rise (R55). -/
def riseExp (cfg : W32) : Option Nat :=
  let e := fieldN cfg 15 5
  if e = 0 then none else some (max e 10)

/-- CLASS_RISE (R49): the rise is for a team of another context than the running one, as SLEXP says (R55; log entry 95). -/
def execClassRise (c : CoreId) (n : Nat) (s : State) : Host.Outcome State Fault Refusal :=
  let k := s.cores[c]
  match k.queued[n]?, riseExp k.schedcfg with
  | some q, some e =>
    if q.risen || k.run == some q.asid || s.cycles c < q.offered + 2 ^ e then .next s
    else .next (s.modCore c fun k => { k with queued := modAt (fun q => { q with risen := true }) n k.queued })
  | _, _ => .next s

/-! ## Admission -/

/-- Free group slots of a core from an index up. -/
def freeFrom (x : CtxCore) (f : Nat) : List Slot :=
  (List.finRange 64).filter fun i => f ≤ i.val && !(x.groups[i]).resident
/-- The residence indexes of a team's launch groups: the lowest names a free team record (R402). -/
def pickSlots (x : CtxCore) (n : Nat) : Option (List Slot) :=
  ((freeFrom x 0).find? fun f => !(x.teams[f]).live && n ≤ (freeFrom x f.val).length).map fun f => (freeFrom x f.val).take n
/-- The schedulers of a team's groups (R31), or none when one would hold more than 16. -/
def pickScheds (x : CtxCore) (det : Bool) : Vector Nat 4 → List Nat → Option (List (Fin 4))
  | _, [] => some []
  | load, g :: r =>
    let k : Fin 4 := if det then Fin.ofNat 4 g
      else (List.finRange 4).foldl (fun b j => if load[j] < load[b] then j else b) 0
    if 16 ≤ load[k] then none else (pickScheds x det (vset load k (load[k] + 1)) r).map fun l => k :: l
/-- Resident groups per scheduler. -/
def schedLoad (x : CtxCore) : Vector Nat 4 := x.order.map List.length
/-- Vector slots reserved by a group of a record (R149). -/
def vecSlots (r : LRec) : Nat := 8 * LRec.na r + 8
def vecUsed (x : CtxCore) : Nat :=
  x.groups.toList.foldl (fun n g => if g.resident then n + vecSlots (x.teams[g.team]).lrec else n) 0

/-- The first place from 0 up where a partition of n bytes fits between those held (R401). -/
def placePart (heldParts : List (Nat × Nat)) (n cap : Nat) : Option Nat :=
  (0 :: heldParts.map fun x => x.1 + x.2).foldl (fun b p =>
    if n ≤ cap - p && p ≤ cap && heldParts.all (fun y => p + n ≤ y.1 || y.1 + y.2 ≤ p || n == 0 || y.2 == 0) then
      some (match b with | some q => min p q | none => p)
    else b) none
/-- The partitions of a context's teams in one buffer. -/
def partsOf (x : CtxCore) (sp : Nat) : List (Nat × Nat) :=
  ((List.finRange 64).filter fun t => (x.teams[t]).live && x.busyTeam t).map fun t =>
    let m := x.teams[t]
    ((if sp = spWbuf then m.tbw else if sp = spXbuf then m.tbx else m.tby), allocation m sp)
/-- Places for a team's three partitions. -/
def placeParts (x : CtxCore) (t : Team) : Option (Nat × Nat × Nat) :=
  match [spWbuf, spXbuf, spYbuf].map fun sp => placePart (partsOf x sp) (allocation t sp) (spaceBytes sp) with
  | [some w, some y, some z] => some (w, y, z)
  | _ => none
/-- Two teams' partitions share bytes of a buffer. -/
def partsMeet (a b : Team) : Bool :=
  let meet : Nat → Nat → Nat → Nat → Bool := fun p n q m => n != 0 && m != 0 && p < q + m && q < p + n
  meet a.tbw (allocation a spWbuf) b.tbw (allocation b spWbuf) || meet a.tbx (allocation a spXbuf) b.tbx (allocation b spXbuf)
    || meet a.tby (allocation a spYbuf) b.tby (allocation b spYbuf)
/-- A partition of another context still holds bytes that a team needs (R401). -/
def blockedParts (k : Core) (t : Team) : Bool :=
  k.saved.any fun x => x.2.teams.toList.any fun m => m.live && m.tbHere && partsMeet m t

/-- The smallest carve that holds n bytes of SHARED (R74). -/
def carveFor (n : Nat) : Nat := ([0, 98304, 196608, 294912, 393216].find? fun c => n ≤ c).getD 393216
/-- The carve may change: the context was switched in in this cycle, or every team that holds its space was admitted in
it. -/
def carveOpen (s : State) (c : CoreId) : Bool :=
  let x := s.cores[c].ctx
  s.cores[c].switchAt == some (s.cycles c)
  || (List.finRange 64).all fun t => !(x.teams[t]).live || !x.busyTeam t || (x.teams[t]).born == s.cycles c

/-- An entry that no longer keeps its team from admission (R136). -/
def Stage.idle (x : Stage) : Bool := x.ended || !stgCrit x.entry

/-- The barriers of a team at admission (R115, R136, R140). -/
def admitBars (r : LRec) (st : List Stage) : Vector Bar 96 :=
  Vector.ofFn fun i =>
    let b : Bar := { exp := BitVec.ofNat 12 (LRec.ngroups r) }
    let mine := st.filter fun x => stgBi x.entry == BitVec.ofNat 7 i.val
    if LRec.nbars r ≤ i.val || mine.isEmpty then b
    else
      let b := (mine.filter fun x => !x.ended).foldl (fun b x => b.update (.issue x.total)) { b with mode := 1 }
      match mine.findSome? (·.fault) with
      | some k => b.update (.fail 0x04 k)
      | none => b

/-- n bytes whose value the spec leaves open. -/
def takeBytes : Nat → State → List Byte × State
  | 0, s => ([], s)
  | n + 1, s => let (b, s) := s.takeByte; let (l, s) := takeBytes n s; (b :: l, s)

/-- An entry of which admission cancels the copy: its target bytes are undefined (R136). -/
def Stage.cancels (x : Stage) : Bool := !x.ended && stgBi x.entry == 127 && stgTgt x.entry != 0
/-- One such entry: open bytes in its target. -/
def openTarget (r : QTeam × State) (x : Stage) : QTeam × State :=
  let (bs, s) := takeBytes x.total r.2
  (QTeam.lay x.entry bs r.1, s)
/-- Entries in flight that count in no barrier are cancelled (R136). -/
def cancelEntries (q : QTeam) (s : State) : QTeam × State :=
  let rest := q.stages.filter fun x => !x.cancels
  (q.stages.filter Stage.cancels).foldl openTarget ({ q with stages := rest }, s)

/-- A group as it is dispatched (R38, R144). -/
def newGroup (uid : Nat) (team : Slot) (gid : BitVec 6) (k : Fin 4) (entry : W32) (now : Nat) (lanes : Mask) : Group :=
  { resident := true, uid := uid, team := team, gid := gid, sched := k, bornAt := now, readyAt := now
    pc := .replicate 32 entry
    lane := Vector.ofFn fun l => if lanes.getLsbD l.val then .ready else .exited }

/-- A group takes its slot and its place; it is active where its scheduler has room (R45; log entry 96). -/
def enter (s : State) (c : CoreId) (i : Slot) (g : Group) (p : Slot → Bool) : State :=
  let act := ((s.cores[c].ctx.order)[g.sched]).filter fun j => (s.grp c j).active
  let s := s.modCtx c fun x => { x with groups := vset x.groups i { g with active := act.length < 8 } }
  { s.modCtx c (fun x => x.enterOrder g.sched i p) with uid := s.uid + 1 }

/-- The image of a companion core loaded, the core started (R340). -/
def loadCompanion (s : State) (a : Asid) (t : Slot) (base : Nat) : Companion :=
  if base = 0 then { team := t }
  else match imageSizes s a base with
    | none => { team := t }
    | some (n, d) =>
      { running := true, team := t
        imem := Memory.write [] 0 ((contextBytes s a base 192 n .read).getD [])
        dmem := Memory.write [] 0x10000 ((contextBytes s a base (imageDataAt n) d .read).getD []) }

/-- The record that a grid's command has started has persisted (R378). -/
def startPersisted (s : State) (g : Grid) : Bool :=
  match (commandOf s 17 g.id).bind s.cmd? with | some q => q.kept | none => true
/-- Nothing but resources keeps a queued team from admission to a core (R30, R49, R136). -/
def mayAdmit (s : State) (c : CoreId) (q : QTeam) (g : Grid) : Bool :=
  let k := s.cores[c]
  let others := (contenders s c).filter fun x => x.asid != q.asid
  k.run == some q.asid && k.stopping == .no && !g.killed && !debugged s q.asid && startPersisted s g
  && (match residentClass k.ctx with
    | some m => !others.any fun x => m ≤ x.cls
    | none => (bestContender (contenders s c)).all fun x => x.asid == q.asid)
  && (q.stages.all Stage.idle || q.late || LRec.deadline g.lrec == 0)
  && (!LRec.det g.lrec || s.cores.toList.all fun k => !k.queued.any fun y => y.grid == q.grid && y.t < q.t)

/-- A team admitted whole (R29, R136): its record, barriers, groups and companion cores; it stood n-th at core d. -/
def admitTeam (s : State) (c d : CoreId) (n : Nat) (q : QTeam) (g : Grid) (slots : List Slot) (scheds : List (Fin 4))
    (parts : Nat × Nat × Nat) : State :=
  match slots with
  | [] => s
  | f :: _ =>
    let r := g.lrec
    let (q, s) := cancelEntries q s
    let lays := layoutTable s q.asid r
    let named := LRec.feederImg r != 0 || LRec.drainImg r != 0
    let t : Team := { q.stub s with
      live := true, order := s.cores[c].ctx.admits, born := s.cycles c, node := s.hub.node, stageNo := q.no
      ls := Vector.ofFn fun i => lays.getD i.val 0
      bars := admitBars r q.stages
      step := LRec.step0 r
      shared := q.shared, wbuf := q.wbuf, xbuf := q.xbuf
      stages := q.stages.filter fun x => !x.ended
      free0 := s.fresh
      companions := named, tbw := parts.1, tbx := parts.2.1, tby := parts.2.2 }
    let s := ({ s with fresh := s.fresh + 2 ^ 26 } : State).modCore d fun k => { k with queued := delAt n k.queued }
    let s := s.modCtx c fun x => { x with teams := vset x.teams f t, admits := x.admits + 1 }
    let s := (slots.zip scheds).zipIdx.foldl (fun s x =>
      enter s c x.1.1 (newGroup (s.uid + 1) f (BitVec.ofNat 6 x.2) x.1.2 (LRec.entry r) (s.cycles c) (BitVec.allOnes 32))
        fun j => (s.grp c j).gid.toNat < 32) s
    let s := if named then
        s.modCtx c fun x => { x with
          feeder := loadCompanion s q.asid f (LRec.feederImg r), drain := loadCompanion s q.asid f (LRec.drainImg r) }
      else s
    flushSignals s

/-- TEAM_ADMIT: the n-th team that a core may admit, when it may be admitted and every resource is there. -/
def execTeamAdmit (c : CoreId) (n : Nat) (s : State) : Host.Outcome State Fault Refusal :=
  let k := s.cores[c]
  match (waitingFor s c)[n]? with
  | none => .next s
  | some (d, n, q) => match s.grid? q.grid with
    | none => .next s
    | some g =>
      let but := if d = c then n else k.queued.length
      let r := g.lrec
      let x := k.ctx
      let stub := q.stub s
      let ng := LRec.ngroups r
      let shared := held x spShared + allocation stub spShared
      let named := LRec.feederImg r != 0 || LRec.drainImg r != 0
      if !mayAdmit s c q g || 8192 < vecUsed x + ng * vecSlots r || 96 < heldBars x + LRec.nbars r
          || (if carveOpen s c then spaceBytes spShared else k.carve) < shared + reserved s k q.asid spShared but
          || [spWbuf, spXbuf, spYbuf].any (fun sp => spaceBytes sp < held x sp + allocation stub sp + reserved s k q.asid sp but)
          || (named && x.teams.toList.any fun t => t.live && t.companions) then .next s
      else match pickSlots x ng, pickScheds x (LRec.det r || x.det) (schedLoad x) (List.range ng), placeParts x stub with
        | some sl, some sc, some ps =>
          if blockedParts k { stub with tbw := ps.1, tbx := ps.2.1, tby := ps.2.2 } then .next s
          else
            let cv := carveFor shared
            let s := if carveOpen s c && cv != k.carve then s.modCore c fun k => { k with carve := cv, l1 := [] } else s
            .next (admitTeam s c d n q g sl sc ps)
        | _, _, _ => .next s

/-! ## Task groups (R37, R38) -/

/-- TFEXP of SCHEDCFG; none when it is off. -/
def flushExp (cfg : W32) : Option Nat := let e := fieldN cfg 20 4; if e = 0 then none else some e

/-- TASK_BIN_TIMEOUT: the oldest task of a bin has waited 2^TFEXP cycles. -/
def execTaskBinTimeout (c : CoreId) (t : Slot) (entry : W32) (s : State) : Host.Outcome State Fault Refusal :=
  let k := s.cores[c]
  match k.ctx.bin t entry, flushExp k.schedcfg with
  | o :: _, some e =>
    if s.det c || k.run.isNone || s.cycles c < o.born + 2 ^ e then .next s
    else .next (s.modCtx c fun x => x.formBin t entry)
  | _, _ => .next s

/-- The GROUPIDs of a team's resident task groups. -/
def taskIds (x : CtxCore) (t : Slot) : List Nat :=
  (x.groups.toList.filter fun g => g.resident && g.team == t && 32 ≤ g.gid.toNat).map (·.gid.toNat)
/-- Where a formed bin would become resident: slot, GROUPID, scheduler. -/
def taskRoom (x : CtxCore) (b : FBin) : Option (Slot × Nat × Fin 4) :=
  let m := x.teams[b.team]
  let ids := taskIds x b.team
  match (freeFrom x 0).head?, ((List.range 32).map (· + 32)).find? fun k => !ids.contains k with
  | some i, some id =>
    if 8192 < vecUsed x + vecSlots m.lrec then none
    else (pickScheds x x.det (schedLoad x) [id]).bind fun l => l.head?.map fun k => (i, id, k)
  | _, _ => none

/-- TASK_GROUP_RESIDENT: the n-th formed bin; in deterministic mode the first one with room. -/
def execTaskGroupResident (c : CoreId) (n : Nat) (s : State) : Host.Outcome State Fault Refusal :=
  let k := s.cores[c]
  let x := k.ctx
  match x.bins[n]? with
  | none => .next s
  | some b =>
    let m := x.teams[b.team]
    if k.run.isNone || k.stopping != .no || gridKilled s m
        || (x.det && (x.bins.take n).any fun y => (taskRoom x y).isSome) then .next s
    else match taskRoom x b with
      | none => .next s
      | some (i, id, j) =>
        let lanes := maskOf fun l => l.val < b.tasks.length
        let g := newGroup (s.uid + 1) b.team (BitVec.ofNat 6 id) j b.entry (s.cycles c) lanes
        let g := { g with
          formed := b.no
          arg := Vector.ofFn fun l => ((b.tasks[l.val]?).map (·.arg)).getD (.replicate 8 0)
          tasks := b.tasks.map (·.num) }
        let s := s.modCtx c fun x => { x with bins := delAt n x.bins }
        .next (enter s c i g fun j => (s.grp c j).gid.toNat < 32 || (s.grp c j).formed < b.no)

/-! ## Retirement -/

/-- Every child grid of a team has completed. -/
def childrenDone (s : State) (t : Team) : Bool :=
  t.children.all fun k => let x := s.hub.childs[k.1.toFin]; !x.held || x.gen != k.2 || x.done
/-- Nothing of a team is left (R32). -/
def mayRetire (s : State) (c : CoreId) (t : Slot) : Bool :=
  let x := s.cores[c].ctx
  let m := x.teams[t]
  m.live && !x.busyTeam t && !s.cores[c].journal.any (fun q => q.asid == m.asid && q.team == t) && !x.arrq.any (·.team == t)
  && (gridKilled s m || childrenDone s m)

/-- Child faults that no wait has delivered bind the parent grid (R35, R459); the slots are freed (R34). -/
def closeChildren (s : State) (m : Team) : State :=
  m.children.foldl (fun s k =>
    let x := s.hub.childs[k.1.toFin]
    if !x.held || x.gen != k.2 then s
    else
      let s := if x.done && x.fault && !x.told then bindFault s m.grid x.cause x.flog else s
      s.modHub fun h => { h with childs := vmod h.childs k.1.toFin fun y => { y with held := false } }) s

/-- A release at SYS scope of every write of a context (R379). -/
def releaseAll (s : State) (a : Asid) : State := (List.finRange 64).foldl (fun s c => releaseWork s c a 4) s

/-- The first eviction error that waits for a release of the context (R403); it binds the first grid to complete. -/
def takeDeferred (s : State) (g : Grid) : State :=
  match (s.ctxRec g.asid).deferL2 ++ (s.ctxRec g.asid).deferMsc with
  | [] => s
  | k :: r =>
    let low := r.foldl (fun m x => if x.toNat < m.toNat then x else m) k
    (bindFault s g.id 0x47 low).modCtxRec g.asid fun x => { x with deferL2 := [], deferMsc := [] }

/-- A grid whose last team has retired completes: its writes are released, its command or its child slot ends. -/
def completeGrid (s : State) (id : Nat) : State :=
  match s.grid? id with
  | none => s
  | some g =>
    if g.done || g.retired < g.next || (!g.killed && g.next < LRec.teams g.lrec) then s
    else
      let s := s.modGrid id fun g => { g with done := true }
      if g.killed then
        match g.parent with
        | some (_, _, k) => s.modHub fun h => { h with childs := vmod h.childs k.toFin fun x =>
            if x.held && x.grid == id then { x with done := true } else x }
        | none => s
      else
        let s := takeDeferred (releaseAll s g.asid) g
        let f := (s.grid? id).bind (firstFault ·.faults)
        match g.parent, g.cmd with
        | some (_, _, k), _ => s.modHub fun h => { h with childs := vmod h.childs k.toFin fun x =>
            if x.held && x.grid == id then { x with
              done := true, fault := f.isSome, cause := (f.map (·.cause)).getD 0, flog := (f.map (·.flog)).getD 0 } else x }
        | none, some q => match f with
          | some x => endCommand s q 4 0x10 (x.cause.setWidth 32) x.flog
          | none => endCommand s q 3 0x00 0 0xFFFFFFFF
        | none, none => s

/-- TEAM_RETIRE. -/
def execTeamRetire (c : CoreId) (t : Slot) (s : State) : Host.Outcome State Fault Refusal :=
  if !mayRetire s c t then .next s
  else
    let m := s.team c t
    let s := closeChildren s m
    let last := (List.finRange 64).all fun j => j == t || !(s.team c j).live
    let s := if last then drainContribs s c (fun _ => true) s.cores[c].ctx.pos else s
    let s := unstage s fun o => o == (m.grid, Team.linear m)
    let stop : Companion → Companion := fun k => if k.team == t then {} else k
    let s := s.modCtx c fun x => { x with
      teams := vset x.teams t {}
      feeder := if m.companions then stop x.feeder else x.feeder
      drain := if m.companions then stop x.drain else x.drain }
    let s := s.modGrid m.grid fun g => { g with retired := g.retired + 1 }
    let s := match (s.grid? m.grid).bind (·.cmd) with
      | some q => s.modCmd q fun x => { x with teams := if x.teams = 0xFFFFFFFF then x.teams else x.teams + 1 }
      | none => s
    .next (completeGrid s m.grid)

end Sys2Proof.Machine
end

