-- ==== Sys2Proof/Machine/Host.lean ====
section
/-! DEFINITION. The host side: launch queues, acceptance and commands (R371 to R383), the context table (R386), the
host link and the host-block cache (R79, R370). -/

namespace Sys2Proof.Machine
open Sys2Proof

/-! ## Memory as the hub names it -/

/-- A byte at a DWIN offset under the system key; none where there is no memory or the sector is poisoned. -/
def dwinByte (s : State) (h : Nat) : Option Byte :=
  let pa := densePa h
  if homePoison s .dram (sectorBase pa) || !paExists 0 pa then none else some (dramByte s pa)
/-- n bytes in the space that LOC names. -/
def hubRead (s : State) (loc : Bool) (a : Nat) : Nat → Option (List Byte) × State
  | 0 => (some [], s)
  | n + 1 =>
    let (b, s) := if loc then (dwinByte s a, s) else let (b, s) := hostByte s a; (some b, s)
    let (r, s) := hubRead s loc (a + 1) n
    (match b, r with | some b, some r => some (b :: r) | _, _ => none, s)
/-- Bytes written there. -/
def hubWrite (s : State) (loc : Bool) (a : Nat) (bs : List Byte) : State :=
  if loc then
    (sectorSplit (bs.zipIdx.map fun x => (⟨.dram, densePa (a + x.2)⟩, x.1))).foldl homeWrite s
  else hostWriteBytes s a bs

/-! ## Queues (R372, R373) -/

def State.modQueue (s : State) (q : Fin 256) (f : Queue → Queue) : State :=
  s.modHub fun h => { h with queues := vmod h.queues q f }
/-- Firmware disables a queue. -/
def Queue.disable (x : Queue) (err : BitVec 4) : Queue := { x with en := false, dis := true, qerr := err }
/-- Address of the tail word. -/
def Queue.tailAt (x : Queue) : Nat := 128 * fieldN x.qtaila 7 57
/-- Records pending: published and not yet taken. -/
def Queue.pending (x : Queue) : Nat := (x.tail - x.head).toNat - x.taken
/-- HEAD written to the head word. -/
def putHead (s : State) (q : Fin 256) : State :=
  let x := s.hub.queues[q]
  hubWrite s x.loc (x.tailAt + 64) (bytesLE 8 x.head.toNat)
/-- The tail word read: an unreadable one, or one too far ahead, disables the queue. -/
def readTail (s : State) (q : Fin 256) : State :=
  let x := s.hub.queues[q]
  match hubRead s x.loc x.tailAt 8 with
  | (none, s) => s.modQueue q fun x => x.disable 3
  | (some bs, s) =>
    let t := wordLE (bs.take 4)
    if 2 ^ x.lsize.toNat < (t - x.head).toNat then s.modQueue q fun x => { x.disable 1 with tail := x.head }
    else s.modQueue q fun x => { x with tail := t }

/-- QCFG as read. -/
def Queue.cfg (x : Queue) : W64 :=
  0#32 ++ BitVec.ofBool x.en ++ BitVec.ofBool x.loc ++ x.lsize ++ x.pmax ++ BitVec.ofBool x.vecen ++ x.vec ++ 0#4 ++ x.asid
/-- A write of QCFG: fields other than EN stay while EN = 1; EN = 1 clears the errors, publishes HEAD and reads the tail. -/
def qcfgPut (src : Nat) (q : Fin 256) (v : W64) (s : State) : State :=
  let x := s.hub.queues[q]
  let en := v.getLsbD 31
  let other : W64 := ~~~(bits 31 31)
  let view : RegView := { off := 0x1000 + 0x20 * q.val + 0x10, src := src, cur := x.cfg, rsv := bits 63 32 ||| bits 15 12 }
  fullWrite s view v (x.en && (v ^^^ x.cfg) &&& other != 0) (4 ≤ fieldN v 26 4) fun s =>
    let s := s.modQueue q fun x => { x with
      en := en, loc := v.getLsbD 30, lsize := v.extractLsb' 26 4, pmax := v.extractLsb' 23 3
      vecen := v.getLsbD 22, vec := v.extractLsb' 16 6, asid := v.extractLsb' 0 12 }
    if en then readTail (putHead (s.modQueue q fun x => { x with dis := false, qerr := 0 }) q) q else s
/-- QCFG_WRITE. -/
def execQcfgWrite (q : Fin 256) (v : W64) (s : State) : Host.Outcome State Fault Refusal := .next (qcfgPut 0 q v s)

/-- TAIL_WATCH. -/
def execTailWatch (q : Fin 256) (s : State) : Host.Outcome State Fault Refusal :=
  if (s.hub.queues[q]).en then .next (readTail s q) else .next s

/-! ## Acceptance (R374 to R378) -/

/-- JSEQ − JLOW = 2^LJ: acceptance waits for journal space (R382). -/
def journalSpent (s : State) : Bool := (s.hub.jseq - s.hub.jlow).toNat == 2 ^ s.hub.boot.lj.toNat
/-- The sequence number a valid dependence names (R375); idx: the record's own index. -/
def depSeq (s : State) (q : Fin 256) (idx : W32) (d : W64) : Option W64 :=
  if !d.getLsbD 63 then some d
  else if fieldN d 32 31 ≠ 0 then none
  else
    let want := idx - d.setWidth 32
    ((s.hub.cmds.reverse.find? fun c => c.queue == q && c.slot == want).map (·.seq))
/-- Step 4 of R376: the sequence numbers, or none where one does not resolve. -/
def depSeqs (s : State) (q : Fin 256) (idx : W32) (seq : W64) (r : LRec) : Option (List W64) :=
  ((List.range 4).filter fun i => (LRec.depv r).getLsbD i).foldr (fun i l => match l, depSeq s q idx (LRec.dep r i) with
    | some l, some d => if s.hub.jlow.toNat ≤ d.toNat && d.toNat < seq.toNat then some (d :: l) else none
    | _, _ => none) (some [])
/-- A dependence in [62:32] of a relative form that is not zero fails the format check. -/
def depForm (r : LRec) : Bool :=
  (List.range 4).all fun i => !(LRec.depv r).getLsbD i || !(LRec.dep r i).getLsbD 63 || fieldN (LRec.dep r i) 32 31 == 0

/-- One record of a queue accepted or refused: journaled with the next sequence number. -/
def acceptRecord (s : State) (q : Fin 256) : State :=
  let x := s.hub.queues[q]
  let idx : W32 := x.head + w32 x.taken
  let slot := idx.toNat % 2 ^ x.lsize.toNat
  match hubRead s x.loc (256 * fieldN x.qbase 8 56 + 256 * slot) 256 with
  | (none, s) => s.modQueue q fun x => x.disable 3
  | (some bs, s) =>
    let r := recordOf bs
    let seq := s.hub.jseq
    let deps := depSeqs s q idx seq r
    let s := readDesc s x.asid
    let st := if !depForm r then 1 else recordStatus s x.asid r false x.pmax.toNat deps.isSome
    let st := if !(s.ctxRec x.asid).desc.getLsbD 144 && !(1 ≤ st.toNat && st.toNat ≤ 5) then 7 else st
    let c : Command :=
      { seq := seq, queue := q, slot := idx, asid := x.asid, state := if st = 0 then 1 else 4, status := st
        utag := LRec.utag r, lrec := r, deps := deps.getD []
        kept := tierWrites s (journalPa s.hub.boot seq.toNat) }
    let s := journalWrite (s.modHub fun h => { h with cmds := h.cmds ++ [c], jseq := h.jseq + 1 }) c
    let s := s.modQueue q fun x => { x with taken := x.taken + 1 }
    if st = 0 || !c.kept then s else raiseQueue s q

/-- One round over the queues in order; the first record taken moves the starting point. -/
def roundOver : List Nat → Bool → State → State
  | [], _, s => s
  | k :: r, took, s =>
    let q : Fin 256 := Fin.ofNat 256 k
    let x := s.hub.queues[q]
    if !x.en || x.pending = 0 || journalSpent s then roundOver r took s
    else
      let s' := acceptRecord s q
      if s'.hub.jseq = s.hub.jseq then roundOver r took s'
      else roundOver r true (if took then s' else s'.modHub fun h => { h with rrFrom := (k + 1) % 256 })

/-- ACCEPTANCE_ROUND: the command cores run once the package is ready (R418, R423). -/
def execAcceptanceRound (s : State) : Host.Outcome State Fault Refusal :=
  if !s.hub.boot.ready || s.hub.boot.minimal then .next s
  else .next (roundOver ((List.range 256).map fun i => (s.hub.rrFrom + i) % 256) false s)

/-- The journal record of the command from the slot that HEAD names has persisted (R373). -/
def headKept (s : State) (q : Fin 256) : Bool :=
  (s.hub.cmds.reverse.find? fun c => c.queue == q && c.slot == (s.hub.queues[q]).head).all (·.kept)
/-- HEAD_ADVANCE: past one slot whose record is journaled and has persisted. -/
def execHeadAdvance (q : Fin 256) (s : State) : Host.Outcome State Fault Refusal :=
  if (s.hub.queues[q]).taken = 0 || !headKept s q then .next s
  else .next (putHead (s.modQueue q fun x => { x with head := x.head + 1, taken := x.taken - 1 }) q)

/-! ## Commands (R378 to R380) -/

/-- State of a dependence: a record that is no longer held completed before; a final state counts once its record has
persisted (R378). -/
def depState (s : State) (q : W64) : BitVec 4 :=
  match s.cmd? q with
  | some c => if c.final && !c.kept then 2 else c.state
  | none => 3

/-- COMMAND_START: its dependences have completed and its grid may offer its first team; or one of them was faulted or
cancelled. A command known only from a journal record of before a start has no launch record to start. -/
def execCommandStart (seq : W64) (s : State) : Host.Outcome State Fault Refusal :=
  match s.cmd? seq with
  | none => .next s
  | some c =>
    if c.state != 1 || !c.kept || LRec.ver c.lrec != 1 then .next s
    else if c.deps.any fun d => depState s d == 4 || depState s d == 5 then .next (endCommand s seq 5 0x13 0 0xFFFFFFFF)
    else if !(c.deps.all fun d => depState s d == 3) || (s.ctxRec c.asid).hold then .next s
    else
      let id := s.hub.gridId
      let s := addGrid s { id := 0, cmd := some seq, parent := none, asid := c.asid, lrec := c.lrec
                           prio := LRec.prio c.lrec, cmask := LRec.cmask c.lrec, depth := 0, number := some s.hub.gridNo }
      let s := setCommand (s.modHub fun h => { h with gridNo := h.gridNo + 1 }) seq fun c => { c with state := 2, grid := some id }
      .next (if c.deps.isEmpty then s else (List.finRange 64).foldl (fun s k => acquireWork s k 3) s)

/-- The grid of a command is stopped, and it ends as cancelled. -/
def cancelCommand (s : State) (c : Command) (status : BitVec 8) : State :=
  let s := match c.grid with | some g => killGrids s [g] | none => s
  endCommand s c.seq 5 status 0 0xFFFFFFFF

/-- A write of CANCEL. -/
def cancelPut (v : W64) (s : State) : State :=
  let stat : BitVec 2 → State → State := fun x s => s.modHub fun h => { h with cstat := x }
  if s.hub.boot.minimal then s
  else if v.toNat < s.hub.jlow.toNat || s.hub.jseq.toNat ≤ v.toNat then stat 3 s
  else match s.cmd? v with
    | none => stat 2 s
    | some c => if c.final then stat 2 s else stat 1 (cancelCommand s c 0x12)
/-- CANCEL. -/
def execCancel (v : W64) (s : State) : Host.Outcome State Fault Refusal := .next (cancelPut v s)

/-- A write of JLOW: it only rises, past final commands. -/
def jlowPut (src : Nat) (v : W64) (s : State) : State :=
  let open' := s.hub.cmds.any fun c => !c.final && c.seq.toNat < v.toNat
  fullWrite s { off := 0x0008, src := src, cur := s.hub.jlow } v false
    (s.hub.jlow.toNat ≤ v.toNat && v.toNat ≤ s.hub.jseq.toNat && !open') fun s => s.modHub fun h => { h with jlow := v }
/-- JLOW_WRITE. -/
def execJlowWrite (v : W64) (s : State) : Host.Outcome State Fault Refusal := .next (jlowPut 0 v s)

/-- A write of CTXBASE (R386). -/
def ctxbasePut (src : Nat) (v : W64) (s : State) : State :=
  let base := fieldN v 0 40
  regWrite s { off := 0x0200, src := src, rsv := bits 63 40 } v (s.hub.cmds.any fun c => !c.final)
    (base % 192 == 0 && base + 262144 ≤ 2 ^ 39) fun s => s.modHub fun h => { h with ctxbase := BitVec.ofNat 40 base }
/-- CTXBASE_WRITE. -/
def execCtxbaseWrite (v : W64) (s : State) : Host.Outcome State Fault Refusal := .next (ctxbasePut 0 v s)

/-! ## The host link (R370, R383) and snoops (R79) -/

/-- HOST_LINK_LOSS: every queue is disabled; commands accepted or started run on. -/
def execHostLinkLoss (s : State) : Host.Outcome State Fault Refusal :=
  .next (s.modHub fun h => { h with link := none, queues := h.queues.map fun x => x.disable 2 })
/-- The link is up. -/
def Hub.linkUp (h : Hub) : Bool := h.link.isSome
/-- A mode that R370 lists. -/
def modeListed (m : LinkMode) : Bool :=
  (m.lanes == 16 || m.lanes == 8) && (m.rate == 64 || m.rate == 32) && m.flit == 256
/-- HOST_LINK_TRAIN: the link comes up in a listed mode; an unlisted one is refused, and the link stays down. -/
def execHostLinkTrain (mode : Option LinkMode) (s : State) : Host.Outcome State Fault Refusal :=
  .next (s.modHub fun h => { h with link := mode.filter modeListed })
/-- HOST_SNOOP. -/
def execHostSnoop (addr : Nat) (own : Bool) (s : State) : Host.Outcome State Fault Refusal :=
  .next (snoopBlock s (addr / 64 * 64) own)

/-! ## CXL.mem windows (R371) -/

/-- The memory and the size of a window. -/
def winMem (pwin : Bool) : MTgt := if pwin then .pst else .dram
def winSize (pwin : Bool) : Nat := if pwin then 2 ^ 40 else 2 ^ 39
/-- The place of a window's byte. -/
def winPlace (pwin : Bool) (h : Nat) : PLoc := ⟨winMem pwin, densePa h⟩
/-- A byte's 64 KiB page holds a sector under a tenant key. -/
def tenantPage (s : State) (p : PLoc) : Bool :=
  s.mem.keys.any fun x => x.2.slot != 0 && x.1.tgt == p.tgt && x.1.addr / 65536 == p.addr / 65536
/-- The window serves the host: the link is up, in no minimal mode, and CXL.mem runs under its IDE key (R370, R423). -/
def winOpen (s : State) : Bool := s.hub.linkUp && !s.hub.boot.minimal && s.hub.mgmt.ide[2].isSome

/-- CXL_MEM_READ: 64 bytes at the PKG coherence point; no bytes for poison. -/
def execCxlMemRead (pwin : Bool) (off : Nat) (s : State) : Host.Outcome State Fault Refusal :=
  let ps := (List.range 64).map fun i => winPlace pwin (off / 64 * 64 + i)
  if !winOpen s then .next s
  else if winSize pwin ≤ off || ps.any (tenantPage s) then .next (s.modHub fun h => { h with remote := [] })
  else
    let ((bs, bad), s) := readBytes (fun s t b => (homeSector s t b {}, s)) s none ps
    .next (s.modHub fun h => { h with remote := if bad then [] else bs })

/-- A place lies in one of some regions. -/
def inRegions (l : List (Nat × Nat)) (a : Nat) : Bool := l.any fun r => r.1 ≤ a && a < r.1 + r.2
/-- A byte of the journal region (R381). -/
def inJournal (s : State) (h : Nat) : Bool :=
  s.hub.boot.formatted && s.hub.boot.jbase.toNat ≤ h && h < s.hub.boot.jbase.toNat + 48 * 2 ^ s.hub.boot.lj.toNat

/-- The queue of a persistent stack moved to the media, in its order. -/
def drainStack (s : State) (k : Fin 4) : State :=
  s.modMem fun m => { m with
    media := Memory.writeCells m.media ((m.queues[k]).flatMap (·.bytes))
    queues := vset m.queues k [] }
/-- A host store to the persistent tier persists when it is acknowledged: in its queue inside the domain, on the media
otherwise, behind the entries ahead of it (R405). -/
def hostPersist (s : State) (w : Sector) : State :=
  let s := homeWrite s w
  if s.hub.pdconf then s else drainStack s (stackOf w.base)
/-- The write has persisted: nothing of it waits for a queue. One that cannot is not acknowledged. -/
def ackedOr (s t : State) : State := if s.pfail || s.mem.pwait.length < t.mem.pwait.length then s else t

/-- CXL_MEM_WRITE: up to 64 bytes of one block; discarded and logged in a tenant's page, the journal or a firmware
region. -/
def execCxlMemWrite (pwin : Bool) (off : Nat) (bytes : List Byte) (s : State) : Host.Outcome State Fault Refusal :=
  let n := min bytes.length (64 - off % 64)
  let hs := (List.range n).map (off + ·)
  if !winOpen s || winSize pwin ≤ off then .next s
  else if hs.any (fun h => tenantPage s (winPlace pwin h) || (pwin && (inJournal s h || inRegions s.hub.boot.fwTier h))) then
    .next (logRefusal s (off / 65536) 5 3 (natLE (bytes.take 4)))
  else
    let t := writeBytes (fun s w => if pwin then hostPersist s w else homeWrite s w) s (hs.map (winPlace pwin)) bytes
    .next (if pwin then ackedOr s t else t)

end Sys2Proof.Machine
end

