-- ==== Sys2Proof/Machine/Persist.lean ====
section
/-! DEFINITION. The persistent tier's queues (R404, R405, R407), dead DRAM (R408, R409), step snapshots from capture to
protection (R412 to R416), their restore (R446). -/

namespace Sys2Proof.Machine
open Sys2Proof

/-! ## Stacks and queues -/

def State.modStack (s : State) (k : Fin 4) (f : PStack → PStack) : State :=
  s.modHub fun h => { h with pstacks := vmod h.pstacks k f }

/-- PERSISTENT_STACK_FAIL: writes that are not in the queue stay out of it, reads are poisoned (R404). -/
def execPersistentStackFail (k : Fin 4) (s : State) : Host.Outcome State Fault Refusal :=
  .next (s.modStack k fun p => { p with state := 3 })

/-- After PFAIL_N the package stops when nothing is left that can reach the media (R407). -/
def stopDrained (s : State) : State :=
  if s.pfail && (List.finRange 4).all fun k => (s.mem.queues[k]).isEmpty || (s.hub.pstacks[k]).state == 3 then
    { s with off := true } else s

/-- WRITE_BACK_QUEUE_DRAIN: the oldest entry of a queue reaches the media. -/
def execWriteBackQueueDrain (k : Fin 4) (s : State) : Host.Outcome State Fault Refusal :=
  match s.mem.queues[k] with
  | [] => .next s
  | w :: r =>
    if (s.hub.pstacks[k]).state = 3 then .next s
    else .next (stopDrained (admitPersists (s.modMem fun m => { m with
      media := Memory.writeCells m.media w.bytes, queues := vset m.queues k r })))

/-- PFAIL: every write that is not in a queue is lost. -/
def execPfail (s : State) : Host.Outcome State Fault Refusal :=
  .next (stopDrained { s.modMem fun m => { m with pwait := [] } with pfail := true })

/-- A stack degrades: writes go on (R404). -/
def degradeStack (s : State) (k : Fin 4) : State := s.modStack k fun p => if p.state = 1 then { p with state := 2 } else p
/-- Bytes of an entry that the units at some places of it bring to the media (R99). -/
def PWrite.torn (w : PWrite) (units : List Nat) : List Host.Cell :=
  let starts : List Nat := (List.range 48).filter fun i => !w.joint.getLsbD i
  w.bytes.filter fun x => units.contains ((starts.filter (· ≤ x.1 - w.base)).foldl max 0)
/-- The power ends while a queue outside the persistence domain drains: its oldest entry reaches the media in part, in units
of R99, and the rest is lost (R407). -/
def tearQueue (s : State) (k : Fin 4) (units : List Nat) : State :=
  if !s.pfail || s.hub.pdconf || (s.hub.pstacks[k]).state = 3 then s
  else stopDrained (s.modMem fun m => { m with
    media := match m.queues[k] with
      | w :: _ => Memory.writeCells m.media (w.torn units)
      | [] => m.media
    queues := vset m.queues k [] })

/-! ## Dead granules (R408, R409) -/

/-- A granule holds DRAM. -/
def granuleOk (g : Nat) : Bool := paExists 0 (65536 * g)
/-- First granule, and granules, of a DEADOP value. -/
def deadPa (v : W64) : Nat := fieldN v 16 24
def deadCnt (v : W64) : Nat := fieldN v 48 14 + 1
/-- The range reaches into a region of the firmware. -/
def deadBars (s : State) (v : W64) : Bool :=
  s.hub.boot.fwDram.any fun r => r.1 < 65536 * (deadPa v + deadCnt v) && 65536 * deadPa v < r.1 + r.2
/-- OP, CNT and PA of a DEADOP value are ones that the package takes. -/
def deadRange (s : State) (v : W64) : Bool :=
  (fieldN v 62 2 == 1 || (fieldN v 62 2 == 2 && deadCnt v == 1))
  && granuleOk (deadPa v) && granuleOk (deadPa v + deadCnt v - 1) && !deadBars s v
/-- A write of DEADOP; REFUSED tells whether it was refused. -/
def deadPut (src : Nat) (v : W64) (s : State) : State :=
  let rsv := bits 47 40 ||| bits 15 0
  let ok := v &&& rsv == 0 && s.hub.deadOp.isNone && deadRange s v
  fullWrite (s.modHub fun h => { h with deadRef := !ok }) { off := 0x0350, src := src, rsv := rsv } v s.hub.deadOp.isSome
    (deadRange s v) fun s =>
      if fieldN v 62 2 = 1 then s.modHub fun h => { h with deadOp := some (deadPa v, deadCnt v) }
      else s.modHub fun h => { h with deadRes := s.mem.dead.contains (deadPa v) }
/-- DEAD_MARK. -/
def execDeadMark (v : BitVec 62) (s : State) : Host.Outcome State Fault Refusal := .next (deadPut 0 (1#2 ++ v) s)
/-- DEAD_QUERY. -/
def execDeadQuery (v : BitVec 62) (s : State) : Host.Outcome State Fault Refusal := .next (deadPut 0 (2#2 ++ v) s)

/-- Cached copies that satisfy p dropped at every level, dirty ones with them. -/
def dropCopies (s : State) (p : MTgt → Nat → Bool) : State :=
  let keep : List Sector → List Sector := fun l => l.filter fun x => !p x.tgt x.base
  let s := { s with
    cores := s.cores.map fun (k : Core) => { k with l1 := keep k.l1, wcb := keep k.wcb }
    dies := s.dies.map fun (d : Die) => { d with l2 := keep d.l2 } }
  s.modMem fun m => { m with
    mscRemote := keep m.mscRemote, mscDirty := m.mscDirty.filter fun x => !p .dram x.1 }

/-- One granule dead: every byte of it zero. -/
def killGranule (s : State) (g : Nat) : State :=
  let here : Nat → Bool := fun a => a / 65536 == g
  let s := dropCopies s fun t b => t == .dram && here b
  s.modMem fun m => { m with
    dram := m.dram.filter fun x => !here x.1
    keys := m.keys.filter fun x => !(x.1.tgt == .dram && here x.1.addr)
    poison := m.poison.filter fun x => !(x.tgt == .dram && here x.addr)
    dead := g :: m.dead.filter (· != g) }
/-- DEAD_MARK_DONE: the next granule of the range is marked; with the last one the operation ends. -/
def execDeadMarkDone (s : State) : Host.Outcome State Fault Refusal :=
  match s.hub.deadOp with
  | none => .next s
  | some (g, n) => .next ((killGranule s g).modHub fun h => { h with deadOp := if n ≤ 1 then none else some (g + 1, n - 1) })

/-! ## Capture (R412, R413) -/

/-- A frame's place in the order of copying. -/
def frameKey (p : PLoc) : List Nat := [if p.tgt = .dram then 0 else 1, p.addr]
/-- Frames still to be copied, in increasing address. -/
def framesLeft (c : Capture) : List PLoc :=
  sortBy frameKey (((c.place.map frameOf).eraseDups).filter fun f => !c.frames.contains f)

/-- SNAPSHOT_FRAME_COPY. -/
def execSnapshotFrameCopy (s : State) : Host.Outcome State Fault Refusal :=
  match s.hub.capture with
  | none => .next s
  | some c => match c.armed, framesLeft c with
    | true, f :: _ => .next (copyFrame s c f)
    | _, _ => .next s

/-- CLOSE_NOTICE. -/
def execCloseNotice (node : BitVec 14) (step : W32) (s : State) : Host.Outcome State Fault Refusal :=
  if !s.hub.nodeEn || s.hub.notices.contains (node, step) then .next s
  else .next (s.modHub fun h => { h with notices := h.notices ++ [(node, step)] })

/-! ## Slots as the tier holds them -/

/-- Bytes of firmware written into a slot, under the system key, and persisted (log entry 10); false where one of them
cannot be. -/
def slotPut (s : State) (c : Capture) (u : Nat) (bs : List Byte) : Bool × State :=
  let cells := bs.zipIdx.filterMap fun x =>
    match walkTranslate s c.asid (captureVa c (u + x.2)) .read 1 with
    | .ok pa => if tierWrites s pa then some (pa, x.1) else none
    | .error _ => none
  let s := cells.foldl (fun s x => setKey s ⟨.pst, sectorBase x.1⟩ {}) s
  (cells.length == bs.length, s.modMem fun m => { m with
    pst := Memory.writeCells m.pst cells, media := Memory.writeCells m.media cells })
/-- Image chunks of a capture, and data offsets of a region, of the padding and of the parity. -/
def Capture.chunks (c : Capture) : Nat := imageChunks (cfgTotal c.cfg)
def Capture.regionAt (c : Capture) (i : Nat) : Nat := 192 + (List.range i).foldl (fun a j => a + cfgLen c.cfg j) 0
def Capture.parityAt (c : Capture) : Nat := 192 + 196608 * c.chunks
def Capture.parityBytes (c : Capture) : Nat := 196608 * (c.chunks / 7)
/-- RCRC of region i, and PCRC, from the slot; none where it cannot be read. -/
def regionCrc (s : State) (c : Capture) (i : Nat) : Option W32 := (slotBytesAt s c (c.regionAt i) (cfgLen c.cfg i)).map crc32c
def parityCrc (s : State) (c : Capture) : Option W32 := (slotBytesAt s c c.parityAt c.parityBytes).map crc32c
/-- The eight RCRC fields. -/
def regionCrcs (s : State) (c : Capture) : Option (List W32) :=
  (List.range 8).foldr (fun i l => match l, if i < cfgNreg c.cfg then regionCrc s c i else some 0 with
    | some l, some x => some (x :: l)
    | _, _ => none) (some [])

/-- The 192 bytes of a manifest (R414). -/
def manifest (c : Capture) (state : Nat) (rcrc : List W32) (pcrc : W32) : List Byte :=
  let b := bytesLE 8 c.step.toNat ++ bytesLE 8 0 ++ bytesLE 4 (state ||| cfgNreg c.cfg <<< 4)
    ++ bytesLE 4 c.chunks ++ (rcrc.flatMap fun x => bytesLE 4 x.toNat) ++ bytesLE 4 pcrc.toNat
    ++ bytesLE 128 (cfgBits c.cfg 512 1024)
  b ++ bytesLE 4 (crc32c b).toNat
/-- A manifest written; false where the image cannot be read or the manifest does not persist. -/
def putManifest (s : State) (c : Capture) (state : Nat) (pcrc : Option W32) : Bool × State :=
  match regionCrcs s c, pcrc with
  | some r, some p => slotPut s c 0 (manifest c state r p)
  | _, _ => (false, s)
/-- The image padded with zeros to its chunks (R411). -/
def padImage (s : State) (c : Capture) : Bool × State :=
  slotPut s c (192 + cfgTotal c.cfg) (List.replicate (196608 * c.chunks - cfgTotal c.cfg) 0)
/-- The higher of two steps. -/
def maxStep (a b : W32) : W32 := if a.toNat < b.toNat then b else a

/-- Every stripe member but this one has sent its notice. -/
def noticesIn (s : State) (c : Capture) : Bool :=
  (List.range 16).all fun i => i == cfgSelf c.cfg || s.hub.notices.contains (BitVec.ofNat 14 (cfgMember c.cfg i), c.step)
/-- Every team of the grid has closed the step. -/
def allClosed (s : State) (c : Capture) : Bool :=
  (s.grid? c.grid).any (·.allClosed c.step)
/-- No image write is on its way. -/
def imageSettled (s : State) : Bool := !persistOpen s s.mem.pwait imageSet.1 (imageSet.2 + 1)

/-- SNAPSHOT_COMPLETE: the manifest with STATE = 1 has persisted; the parity CRC has no stated value yet. -/
def execSnapshotComplete (s : State) : Host.Outcome State Fault Refusal :=
  match s.hub.capture with
  | none => .next s
  | some c =>
    if !c.armed || !(framesLeft c).isEmpty || !allClosed s c || !noticesIn s c || !imageSettled s then .next s
    else
      let (p, t) := s.takeWord
      match padImage t c with
      | (false, _) => .next s
      | (true, t) => match putManifest t c 1 (some (p.setWidth 32)) with
        | (false, _) => .next s
        | (true, t) => .next (t.modHub fun h => { h with
            comp := maxStep h.comp c.step, capture := some { c with armed := false, complete := true } })

/-- A record for a snapshot that could not be protected. -/
def protectFault (s : State) (c : Capture) : State :=
  let (_, s) := faultLog s c.asid { kind := 1, cause := 0x25, agent := 3 }
  s.modHub fun h => { h with capture := none }

/-- PARITY_COMPUTE: with D equal on every member this package's parity chunks arrive from the other members. -/
def execParityCompute (slotEqual : Bool) (s : State) : Host.Outcome State Fault Refusal :=
  match s.hub.capture with
  | none => .next s
  | some c =>
    if !c.complete || c.parity then .next s
    else if !slotEqual then .next (protectFault s c)
    else
      let (bs, s) := takeBytes c.parityBytes s
      match slotPut s c c.parityAt bs with
      | (true, s) => .next (s.modHub fun h => { h with capture := some { c with parity := true } })
      | (false, s) => .next (protectFault s c)

/-- SNAPSHOT_PROTECTED: the manifest with STATE = 2; a contribution or a parity holder that failed leaves it at 1. -/
def execSnapshotProtected (acked : Bool) (s : State) : Host.Outcome State Fault Refusal :=
  match s.hub.capture with
  | none => .next s
  | some c =>
    if !c.parity then .next s
    else if !acked then .next (protectFault s c)
    else match putManifest s c 2 (parityCrc s c) with
      | (true, s) => .next (s.modHub fun h => { h with prot := maxStep h.prot c.step, capture := none })
      | (false, s) => .next (protectFault s c)

/-! ## Restore (R446) -/

/-- A configuration block as the restore reads it. -/
def restBlock (s : State) (asid : Asid) : Option (Vector W64 24) :=
  (contextBytes s asid s.hub.restcfg.toNat 0 192 .read).map fun bs =>
    Vector.ofFn fun i => BitVec.ofNat 64 (natLE ((bs.drop (8 * i.val)).take 8))
/-- A slot of a block's area, with the places of its image. -/
def restSlot (s : State) (asid : Asid) (cfg : Vector W64 24) (step : W32) (slot : Nat) : Capture :=
  { step := step, grid := 0, asid := asid, cfg := cfg, slot := slot, armed := false
    place := (List.range (cfgNreg cfg)).flatMap fun i => (regionLines s asid cfg i).getD [] }

/-- RESTCTL as read. -/
def restWord (h : Hub) : W64 := 0#1 ++ h.restState ++ BitVec.ofBool h.reb ++ 0#16 ++ h.restStep ++ h.restAsid
/-- A write of RESTCTL; with GO = 1 a restore, or the manifest of a rebuilt slot, begins. -/
def restPut (src : Nat) (v : W64) (s : State) : State :=
  let a : Asid := v.setWidth 12
  let block := restBlock s a
  let valid := match block with | none => false | some c => (cfgFault s a c).isNone
  let go := v.getLsbD 63
  let set : State → State := fun s => s.modHub fun h => { h with
    reb := v.getLsbD 60, restStep := v.extractLsb' 12 32, restAsid := a }
  fullWrite s { off := 0x0720, src := src, rsv := bits 59 44, cur := restWord s.hub, ro := bits 62 61 } v
    (go && (s.hub.restState == 1 || !(s.ctxRec a).hold)) (!go || valid) fun s =>
      if go then (set s).modHub fun h => { h with
        restState := 1, restJob := block.map fun c => (v.getLsbD 60, v.extractLsb' 12 32, a, c) }
      else set s
/-- RESTORE_SNAPSHOT and REBUILD_MANIFEST: GO with REB as written. -/
def execRestoreSnapshot (v : W64) (s : State) : Host.Outcome State Fault Refusal :=
  .next (restPut 0 (setBit (setBit v 63 true) 60 false) s)
def execRebuildManifest (v : W64) (s : State) : Host.Outcome State Fault Refusal :=
  .next (restPut 0 (setBit (setBit v 63 true) 60 true) s)

/-- The restore ends. -/
def restEnd (s : State) (a : Asid) (ok : Bool) : State :=
  let s := if ok then s else (faultLog s a { kind := 11, cause := 0x46, agent := 3 }).2
  s.modHub fun h => { h with restState := if ok then 2 else 3, restJob := none }
/-- A slot holds protected step R, and its image checks. -/
def slotGood (s : State) (c : Capture) : Bool :=
  match manifestBytes s c with
  | none => false
  | some b => natLE (b.take 8) == c.step.toNat && natLE (b.drop 16) % 16 == 2
    && (List.range (cfgNreg c.cfg)).all fun i => regionCrc s c i == some (wordLE ((b.drop (24 + 4 * i)).take 4))
/-- One sector of a region from the image, its ciphertext unchanged. -/
def restoreSector (s : State) (c : Capture) (p : PLoc) (u : Nat) : State :=
  let key := match walkTranslate s c.asid (captureVa c u) .read 1 with
    | .ok pa => (keyAt s ⟨.pst, sectorBase pa⟩).getD {}
    | .error _ => {}
  let cells := ((slotBytesAt s c u 48).getD []).zipIdx.map fun x => (p.addr + x.2, x.1)
  homeWrite s { sectorOf p.tgt p.addr cells with owner := c.asid, key := key }
/-- The image copied back over the regions. -/
def restoreImage (s : State) (c : Capture) : State :=
  let s := dropCopies s fun t b => c.place.contains ⟨t, b / 256 * 256⟩
  c.place.zipIdx.foldl (fun s p => (List.range 4).foldl (fun s i =>
    restoreSector s c ⟨p.1.tgt, p.1.addr + 48 * i⟩ (192 + 192 * p.2 + 48 * i)) s) s

/-- RESTORE_DONE. -/
def execRestoreDone (s : State) : Host.Outcome State Fault Refusal :=
  match s.hub.restJob with
  | none => .next s
  | some (reb, step, a, cfg) =>
    let slot := restSlot s a cfg step
    if reb then
      let k := match manifestStep s (slot 0), manifestStep s (slot 1) with
        | none, _ => 0
        | some _, none => 1
        | some x, some y => if y < x then 1 else 0
      match putManifest s (slot k) 2 (parityCrc s (slot k)) with
      | (true, s) => .next (restEnd (s.modHub fun h => { h with comp := maxStep h.comp step, prot := maxStep h.prot step }) a true)
      | (false, s) => .next (restEnd s a false)
    else match [slot 0, slot 1].find? (slotGood s) with
      | none => .next (restEnd s a false)
      | some c => .next (restEnd (restoreImage s c) a true)

end Sys2Proof.Machine
end

