-- ==== Sys2Proof/Machine/Boot.lean ====
section
/-! DEFINITION. Start-up (R406, R418, R421, R423, R453, R455, R456). -/

namespace Sys2Proof.Machine
open Sys2Proof

/-! ## The journal at a start (R374, R381, R382) -/

/-- The command that a valid record of index n holds. -/
def journalCommand (m : Mem) (jbase lj n : Nat) : Option Command :=
  let b := Memory.read m (densePa (jbase + 48 * n)) 48
  let v := natLE b
  if crc32c (b.take 44) != wordLE (b.drop 44) || v % 2 ^ 64 % 2 ^ lj ≠ n || v % 2 ^ 64 = 0 then none
  else
    let r : BitVec 384 := BitVec.ofNat 384 v
    some { seq := r.extractLsb' 0 64, queue := Fin.ofNat 256 (fieldN r 140 8), slot := r.extractLsb' 160 32
           asid := r.extractLsb' 148 12, state := r.extractLsb' 128 4, status := r.extractLsb' 132 8
           exit := r.extractLsb' 192 32, flog := r.extractLsb' 224 32, teams := r.extractLsb' 256 32
           utag := r.extractLsb' 64 64, lrec := .replicate 32 0 }
/-- The valid records from JLOW on, by sequence number. -/
def journalCommands (m : Mem) (jbase lj : Nat) (jlow : W64) : List Command :=
  sortBy (fun c => [c.seq.toNat])
    (((List.range (2 ^ lj)).filterMap (journalCommand m jbase lj)).filter fun c => jlow.toNat ≤ c.seq.toNat)

/-! ## Stages -/

/-- REASON and STAGE of a start that fails (R456); none when it reaches READY. -/
def startFailure (b : Boot) (e : BootEnv) : Option (BitVec 8 × BitVec 3) :=
  if b.badA && b.badB then some (0x01, 2)
  else if !(!b.badA && e.secA) && !(!b.badB && e.secB) then some (0x02, 2)
  else if !e.diesOk then some (0x03, 4)
  else if !e.stacksOk then some (0x04, 4)
  else if !e.tierOk then some (0x05, 5)
  else if !signedOk e.cmdCore then some (0x06, 6)
  else if !(e.linkOk && modeListed e.link) then some (0x07, 7)
  else if !e.inTime then some (0x08, 7)
  else none

/-- Stage 2 checks the signatures of both slots (R22, R418): a slot that fails is bad until an update replaces its image. -/
def Boot.verify (b : Boot) (e : BootEnv) : Boot :=
  { b with badA := b.badA || !signedOk e.slotA, badB := b.badB || !signedOk e.slotB }
/-- Slot B is the one that a start loads: it verifies and is not too old, and A does not or holds a lower version (R418). -/
def loadsB (b : Boot) (e : BootEnv) : Bool :=
  !b.badB && e.secB && (b.badA || !e.secA || b.verA < b.verB)

/-- What stands through a reset: host and fabric memory, the media, the keys and poison of their sectors. -/
def keptMemory (s : State) : MemSys :=
  { pst := s.mem.media, media := s.mem.media, host := s.mem.host, fabric := s.mem.fabric
    keys := s.mem.keys.filter fun x => x.1.tgt != .dram && x.1.tgt != .host
    poison := s.mem.poison.filter fun x => x.tgt != .dram && x.tgt != .host }
/-- The package reset: the journal's place and numbers, the firmware slots and the start counter stand. Queues inside
the persistence domain reach the media first. -/
def resetPackage (s : State) : State :=
  let s := if s.hub.pdconf then ((List.finRange 4).filter fun k => (s.hub.pstacks[k]).state != 3).foldl (fun s k => drainStack s k) s
    else s
  { State.reset with
    agenda := s.agenda, fresh := s.fresh, uid := s.uid
    mem := keptMemory s
    hub := { boot := { s.hub.boot with ready := false, minimal := false }
             jseq := s.hub.jseq, jlow := s.hub.jlow } }
/-- What a failed start and minimal mode leave standing besides: the error log, the counters of R453, the key slots. -/
def keepCounters (s n : State) : State :=
  let n := n.modHub fun h => { h with
    kslots := s.hub.kslots, mscerr := s.hub.mscerr
    mgmt := { errs := s.hub.mgmt.errs, errNo := s.hub.mgmt.errNo } }
  { n with
    cores := n.cores.mapFinIdx fun i (k : Core) h =>
      { k with poisonc := (s.cores[i]'h).poisonc, hangs := (s.cores[i]'h).hangs }
    dies := n.dies.mapFinIdx fun i (d : Die) h => { d with l2err := (s.dies[i]'h).l2err } }

/-- The journal restored, or the tier formatted when it is blank. -/
def openTier (s : State) (e : BootEnv) : State :=
  if e.tierBlank || !s.hub.boot.formatted then
    (s.modBoot fun b => { b with
      formatted := true, lj := BitVec.ofNat 5 (max 16 (min 24 e.lj.toNat)), jbase := e.jbase }).modHub fun h =>
        { h with jseq := 1, jlow := 1 }
  else
    let b := s.hub.boot
    let cs := journalCommands s.mem.media b.jbase.toNat b.lj.toNat s.hub.jlow
    s.modHub fun h => { h with
      cmds := cs
      jseq := match cs.getLast? with | some c => c.seq + 1 | none => h.jlow }

/-- The start reaches READY. -/
def startReady (s n : State) (e : BootEnv) : State :=
  let n := openTier n e
  let hold := min 65535 (e.holdup.getD 0)
  let n := n.modBoot fun b => { b with
    startcnt := 0, stage := 0, reason := 0, ready := true, fwDram := e.fwDram, fwTier := e.fwTier
    fw := if loadsB b e then b.imgB else b.imgA }
  let n := n.modMgmt fun m => { m with ide := e.ide.map some }
  n.modHub fun h => { h with
    kslots := s.hub.kslots.map fun k => { gen := k.gen, key := k.key }
    pstacks := .replicate 4 { state := 1 }
    holdup := BitVec.ofNat 16 hold, pdconf := 70 ≤ hold, link := some e.link }

/-- STARTUP. -/
def execStartup (e : BootEnv) (s : State) : Host.Outcome State Fault Refusal :=
  let n := (resetPackage s).modBoot fun b => { b with startcnt := min 15 (b.startcnt + 1) }
  if 4 ≤ n.hub.boot.startcnt then
    .next (keepCounters s ((n.modBoot fun b => { b with minimal := true }).modHub fun h =>
      { h with link := (some e.link).filter modeListed }))
  else
  let n := n.modBoot fun b => b.verify e
  if e.pfailed then
    -- R456 gives no stage for this reason: the stage it came at stays open
    let (b, n) := n.takeByte
    .next (keepCounters s (n.modBoot fun x => { x with reason := 0x09, stage := BitVec.ofNat 3 (1 + b.toNat % 7) }))
  else match startFailure n.hub.boot e with
    | some (r, g) => .next (keepCounters s (n.modBoot fun b => { b with reason := r, stage := g }))
    | none => .next (startReady s n e)

end Sys2Proof.Machine
end

