-- ==== Sys2Proof/Machine/CompOps.lean ====
section
/-! DEFINITION. The shared operations of companion cores: registers, the instruction and data stores (R333), faults
(R341), and the issue of one instruction. -/

namespace Sys2Proof.Machine
open Sys2Proof

/-- Register x of a companion core; x0 reads zero. -/
def Companion.rd (k : Companion) (r : XReg) : W32 := if r = 0 then 0 else k.x[r.toFin]
/-- A register written; a write to x0 is discarded. -/
def Companion.wr (k : Companion) (r : XReg) (x : W32) : Companion :=
  if r = 0 then k else { k with x := vset k.x r.toFin x }

/-- AGENT of a fault-log record (R394) and of a fault-ring entry. -/
def roleAgent : Role → Nat
  | .feeder => 1
  | .drain => 2

/-- A companion fault (R341): the core stops at the instruction, a kind 4 record is entered, the context faults. -/
def companionFault (s : State) (c : CoreId) (r : Role) (t : Trap) : State :=
  let k := s.comp c r
  let tm := s.team c k.team
  let s := if t.cause = 0x1E then dropDeferred s tm.asid t.x1 else s
  contextFault (s.modComp c r fun k => { k with running := false, block := .free }) tm.asid 0x10
    { kind := 4, cause := t.cause.toNat, info := trapInfo t, hdr := k.pc.toNat, core := c.val, agent := roleAgent r
      team := Team.linear tm }

/-- The trap of a COMPANION_ACCESS at an address. -/
def accessTrap (a : W32) : Trap := { cause := 0x43, x1 := a }

/-- The four bytes of the instruction store from the pc up, or COMPANION_ACCESS (R333): an odd address, or an
instruction that does not lie in the store. -/
def Companion.fetchWord (k : Companion) : Except Trap W32 :=
  let a := k.pc.toNat
  if a % 2 ≠ 0 || 0x10000 ≤ a then .error (accessTrap k.pc)
  else
    let w := wordLE (Memory.read k.imem a 4)
    if w.extractLsb' 0 2 = 3#2 && 0x10000 < a + 4 then .error (accessTrap k.pc) else .ok w

/-- A load or store of the data store lies there and is aligned. -/
def dataOk (a : W32) (n : Nat) : Bool :=
  a.toNat % n == 0 && 0x10000 ≤ a.toNat && a.toNat + n ≤ 0x18000

/-- What a companion instruction does. -/
inductive KEff where
  /-- It executed: the changed state, the register it writes, the next pc when it is not the following one. -/
  | done (s : State) (rd : Option (XReg × W32)) (pc : Option W32)
  | fault (t : Trap)
  /-- It has not executed and executes again at the next turn (R342). -/
  | stall (s : State)
  /-- The core ends by it (R340). -/
  | exit (s : State)

/-- A companion core may run its next instruction. -/
def Companion.ready (k : Companion) : Bool :=
  k.running && k.fault.isNone && (match k.block with | .parked | .sleeping _ => false | _ => true)

/-- The instruction retires: register, pc, instret. -/
def Companion.retire (k : Companion) (len : Nat) (rd : Option (XReg × W32)) (pc : Option W32) : Companion :=
  let k := match rd with | some (r, x) => k.wr r x | none => k
  { k with pc := pc.getD (k.pc + w32 len), minstret := k.minstret + 1, block := .free, cap := none }

/-- A companion instruction issued: its effect f on the core, its role and its team. -/
def kissue (s : State) (f : Role → Companion → Team → KEff) : Host.Outcome State Fault Refusal :=
  match s.agent with
  | .group _ => .next s
  | .companion r =>
    let k := s.comp s.core r
    if !k.ready then .next s
    else match f r k (s.team s.core k.team) with
      | .done s' rd pc => .next (s'.modComp s.core r fun k => k.retire s.ilen rd pc)
      | .fault t => .next (companionFault s s.core r t)
      | .stall s => .next s
      | .exit s' => .next (s'.modComp s.core r fun k => { k with running := false, block := .free, minstret := k.minstret + 1 })

end Sys2Proof.Machine
end

