-- ==== Sys2Proof/Machine/Companion.lean ====
section
/-! DEFINITION. The companion cores' own instructions: copy commands and KCPQ (R337, R338), synchronisation and KLT
(R339), FENCE, ECALL, EBREAK and WFI (R334, R340). -/

namespace Sys2Proof.Machine
open Sys2Proof

/-- The word a companion core runs. -/
def Companion.word (k : Companion) : W32 :=
  match k.fetchWord with
  | .ok w => if w.extractLsb' 0 2 = 3#2 then w else w &&& 0xFFFF
  | .error _ => 0
/-- A fault that carries the word (R397). -/
def Companion.wordFault (k : Companion) (cause : BitVec 8) : Trap := { cause := cause, x1 := k.word }

/-! ## Copy commands (R337, R338) -/

/-- Words 0 to 18 of a command block. -/
def Companion.cmdBlock (k : Companion) (a : W32) : Vector W32 19 :=
  Vector.ofFn fun i => wordLE (Memory.read k.dmem (a.toNat + 4 * i.val) 4)
/-- The command word of the group form with a control word's fields: its checks are those of R309. -/
def blockFields (w : W32) : FmtRE :=
  { hd := { sb := 7, u := true, gn := false, g := 3 }, spec := w.extractLsb' 26 3, rm := w.extractLsb' 29 3
    rge := w.getLsbD 24, fut := w.getLsbD 25, ds := 0, lsz := 0, ls := w.extractLsb' 0 6, ldz := 0
    ldh := w.extractLsb' 6 6, ring := w.extractLsb' 21 3, sa := 0, bi := w.extractLsb' 14 7 }
/-- The command uses words 15 to 17 of its block. -/
def usesTail (op : CopyOp) (x : FmtRE) : Bool :=
  match op with
  | .t => x.fut || x.spec.getLsbD 2 || x.spec.getLsbD 1
  | .f | .r => x.fut
  | _ => true

/-- A copy command of a companion core. -/
def companionCopy (s : State) (op : CopyOp) (form : FmtRE → Instr) (x : K2) : Host.Outcome State Fault Refusal :=
  kissue s fun r k t =>
    let a := k.rd x.rs1
    let bad := k.wordFault 0x02
    if a.toNat % 4 ≠ 0 || a.toNat < 0x10000 || 0x18000 < a.toNat + 76 then .fault (accessTrap a)
    else
      let b := k.cmdBlock a
      let f := blockFields b[18]
      if (b[18]).extractLsb' 12 2 != 0 || !((form f).form.any Form.ok) then .fault bad
      else
        let blk : Vector W32 18 := Vector.ofFn fun i => if i.val < 15 || usesTail op f then vat b i.val else 0
        let c := { mkCmd s s.core k.team op blk f.spec f.rm f.fut f.rge f.ring f.bi f.ls f.ldh k.ksrcnt with role := some r }
        match copyCheck s s.core c bad with
        | some y => .fault y
        | none =>
          if journalFull s s.core then .stall s
          else
            let s := acceptCopy (relWork s s.core t.asid (some 1)) s.core c
            let s := s.modComp s.core r fun k => if f.rm = 4 then { k with ksrcnt := k.ksrcnt + 1 } else k
            .done s (some (x.rd, c.seq)) none

def execKcpt (x : K2) (s : State) : Host.Outcome State Fault Refusal := companionCopy s .t .cpt x
def execKcpg (x : K2) (s : State) : Host.Outcome State Fault Refusal := companionCopy s .g .cpg x
def execKcps (x : K2) (s : State) : Host.Outcome State Fault Refusal := companionCopy s .s .cps x
def execKcpf (x : K2) (s : State) : Host.Outcome State Fault Refusal := companionCopy s .f .cpf x
def execKcpr (x : K2) (s : State) : Host.Outcome State Fault Refusal := companionCopy s .r .cpr x
def execKcpput (x : K2) (s : State) : Host.Outcome State Fault Refusal := companionCopy s .put .cpput x
def execKcpget (x : K2) (s : State) : Host.Outcome State Fault Refusal := companionCopy s .get .cpget x

def execKcpqState (x : K2) (s : State) : Host.Outcome State Fault Refusal :=
  kissue s fun _ k _ => .done s (some (x.rd, (copyQuery s s.core k.team (k.rd x.rs1)).1)) none
def execKcpqDone (x : K2) (s : State) : Host.Outcome State Fault Refusal :=
  kissue s fun _ k _ => .done s (some (x.rd, (copyQuery s s.core k.team (k.rd x.rs1)).2)) none

/-! ## Barriers and rings (R339) -/

/-- An eviction error waits for a release of the core (R403). -/
def lateError (s : State) (a : Asid) : Option Trap :=
  match (s.ctxRec a).deferL2 ++ (s.ctxRec a).deferMsc with
  | n :: _ => some { cause := 0x1E, x1 := n }
  | [] => none

def execKbara (x : KArr) (s : State) : Host.Outcome State Fault Refusal :=
  kissue s fun _ k t =>
    let n : BitVec 7 := (k.rd x.rs1).extractLsb' 0 7
    let bytes : BitVec 24 := (k.rd x.rs2).extractLsb' 0 24
    if !t.hasBar n then .fault (barRange n)
    else if bytes != 0 && (t.bar n).mode != 1 then .fault (barTrap 0x12 n (t.bar n))
    else match lateError s t.asid with
      | some y => .fault y
      | none => .done (updateBar (relWork s s.core t.asid (some 1)) s.core k.team n (.arrive 1 bytes)) none none

/-- What a KBARW needs. -/
def kwaitNeed (x : KWait) (k : Companion) : BarNeed :=
  let v : BitVec 12 := (k.rd x.rs2).extractLsb' 0 12
  match x.form with
  | 0 => .phase x.par
  | 1 => .thr v x.par
  | _ => .count v

/-- KBARW: the core stalls, parked at the barrier, until its wait is satisfied. -/
def execKbarw (x : KWait) (s : State) : Host.Outcome State Fault Refusal :=
  kissue s fun r k t =>
    let n : BitVec 7 := (k.rd x.rs1).extractLsb' 0 7
    let b := t.bar n
    let fin : State → KEff := fun s => .done (acqWork s s.core (some 1)) none none
    if !x.form.ult 3 then .fault (k.wordFault 0x01)
    else if !t.hasBar n then .fault (barRange n)
    else match k.block with
      | .released _ => fin s
      | .failed x1 x2 x3 => .fault { cause := 0x1C, x1 := x1, x2 := x2, x3 := x3 }
      | _ => match b.check (kwaitNeed x k) with
        | .mode => .fault (barTrap 0x12 n b)
        | .failed => .fault (barAsync n b)
        | .met b' => fin (s.modBar s.core k.team n fun _ => b')
        | .park =>
          let s := s.modBar s.core k.team n fun b => { b with waiters := b.waiters ++ [(.comp r, kwaitNeed x k)] }
          .stall (s.modComp s.core r fun k => { k with block := .parked })

/-- KRGPUT and KRGGET: put names the side. -/
def companionRing (s : State) (put : Bool) (x : KRing) : Host.Outcome State Fault Refusal :=
  kissue s fun _ k t =>
    let ring : BitVec 3 := (k.rd x.rs1).extractLsb' 0 3
    let n := (k.rd x.rs2).toNat
    let order : State → State := fun s => if put then relWork s s.core t.asid (some 1) else acqWork s s.core (some 1)
    if 64 < n then .fault (k.wordFault 0x02)
    else match ringCheck t ring n put (!x.wait) with
      | some y => .fault y
      | none =>
        if !x.wait then .done (advanceRing (order s) s.core k.team ring put n) none none
        else if (t.ring ring).waitMet put n then .done (order s) none none
        else .stall s

def execKrgput (x : KRing) (s : State) : Host.Outcome State Fault Refusal := companionRing s true x
def execKrgget (x : KRing) (s : State) : Host.Outcome State Fault Refusal := companionRing s false x

/-! ## KLT (R339) -/

/-- The entry of a KLT: the one it captured while it waits, else its handle's (R70). -/
def kltEntry (t : Team) (k : Companion) (x : KLt) : Ent := k.cap.getD t.ls[x.h.toFin]
/-- The byte offset of a KLT through its handle, or its fault. -/
def kltOffset (s : State) (t : Team) (k : Companion) (a : AccKind) (x : KLt) : Except Trap Nat :=
  let e := kltEntry t k x
  let cs := k.rd x.rs1 :: if x.rs2 = 0 then [] else [k.rd x.rs2]
  if usable e && keyOk s t.asid e && entSpace e == spPrivate then .error (layTrap 0x09 x.h.toNat)
  else locate s t ⟨s.core, k.team, 0, 0⟩ a x.h.toNat e cs 0 4 none

/-- One access of a companion core: the places of its word are handed on, or the core waits for its driver, or a
remote home fails it. -/
def kltAccess (s : State) (r : Role) (k : Companion) (t : Team) (a : AccKind) (x : KLt)
    (f : Ent → List PLoc → State → KEff) : KEff :=
  let e := kltEntry t k x
  match kltOffset s t k a x with
  | .error y => .fault y
  | .ok u =>
    let need := if a == .store then Need.write else Need.read
    match resolveAll s s.core t.asid e need true (placesOf ⟨s.core, k.team, 0, 0⟩ (LRec.pb t.lrec) e u 4) with
    | (.error (.page va ty), s) =>
      let (id, s) := ringFault s s.core 0 (BitVec.ofNat 2 (roleAgent r)) t.asid va ty 5
      .stall (s.modComp s.core r fun k => { k with fault := some id, cap := some e })
    | (.error (.remote node), s) => .exit (contextFault s t.asid 0x10
        { kind := 9, cause := 0x42, hdr := k.pc.toNat, core := s.core.val, agent := roleAgent r, team := Team.linear t
          node := node, lh := x.h.toNat })
    | (.ok ps, s) => f e ps s

def execKltLw (x : KLt) (s : State) : Host.Outcome State Fault Refusal :=
  kissue s fun r k t => kltAccess s r k t .load x fun e ps s =>
    let ((bs, bad), s) := readBytes (fun s t' b => loadSector s s.core 0 t' b (keyRef s e) t.asid (t.order + 1)) s none ps
    if bad then .fault { cause := 0x1D } else .done s (some (x.rd, wordLE bs)) none
def execKltSw (x : KLt) (s : State) : Host.Outcome State Fault Refusal :=
  kissue s fun r k t => kltAccess s r k t .store x fun e ps s =>
    .done (writeBytes (fun s y => coreStore s s.core { y with owner := t.asid, tag := tagOf t e, key := keyRef s e, team := t.order + 1 })
      s ps (bytesLE 4 (k.rd x.rd).toNat)) none none

/-! ## FENCE, ECALL, EBREAK, WFI -/

/-- FENCE.AR at PKG scope whatever its fields; an eviction error waits at its release (R403). -/
def execCompanionFence (_fm _pred _succ : BitVec 4) (_rs1 _rd : XReg) (s : State) : Host.Outcome State Fault Refusal :=
  kissue s fun _ _ t =>
    match lateError s t.asid with
    | some y => .fault y
    | none => .done (acquireWork (releaseWork s s.core t.asid 3) s.core 3) none none

def execEcall (s : State) : Host.Outcome State Fault Refusal := kissue s fun _ _ _ => .exit s
def execEbreak (_compressed : Bool) (s : State) : Host.Outcome State Fault Refusal :=
  kissue s fun _ _ _ => .fault { cause := 0x31 }
def execWfi (s : State) : Host.Outcome State Fault Refusal := kissue s fun _ _ _ => .done s none none

end Sys2Proof.Machine
end

