-- ==== Sys2Proof/Machine/Convert.lean ====
section
/-! DEFINITION. Conversion instructions (R246 to R251). -/

namespace Sys2Proof.Machine
open Sys2Proof

/-- SFMT and DFMT of a conversion. -/
def sfmtOf (x : FmtR) : Nat := (x.c.extractLsb' 0 5).toNat
def dfmtOf (x : FmtR) : Nat := (hiFmt x.h).toNat
/-- Width of a format code. -/
def codeWidth (c : Nat) : Nat := (fmtWidth (BitVec.ofNat 5 c)).getD 32
/-- Element k of a register under R172. -/
def elemOf (c : Nat) (a : Nat) (k : Nat) : Nat := a / 2 ^ (codeWidth c * k) % 2 ^ codeWidth c
/-- A converted element in a 32-bit register: signed integers are sign-extended (R247). -/
def extendTo (c : Nat) (bits : Nat) : W32 :=
  match intFmt c with
  | some (true, w) => trunc 32 (readInt true w bits)
  | _ => w32 bits

/-- CVT of one element: value and flags. FP32 to FP32 keeps the pattern, infinities in every mode, and makes a NaN the
canonical one (R247; log entry 86). -/
def cvtVal (x : FmtR) (r : Rnd) (wrap : Bool) (a : Nat) : W32 × BitVec 5 :=
  let e := elemOf (sfmtOf x) a (hiSpec x.h).toNat
  if sfmtOf x = 1 ∧ dfmtOf x = 1 then (w32 (if (fp32.num e).isNaN then fp32.nan else e), 0)
  else
    let y := convert (sfmtOf x) (dfmtOf x) r wrap e
    (extendTo (dfmtOf x) y.bits, y.flags)

def execCvtF2f (x : FmtR) (s : State) : Host.Outcome State Fault Refusal :=
  issue (.cvtF2f x) s fun n h g r => fltShort s n h g r x.lo x.d fun l =>
    cvtVal x (rndOf x.lo (teamOf s g) g l 0) false (rawOf h g x.a l)
def execCvtF2i (x : FmtR) (s : State) : Host.Outcome State Fault Refusal :=
  issue (.cvtF2i x) s fun n h g r => fltShort s n h g r x.lo x.d fun l =>
    cvtVal x (rndOf x.lo (teamOf s g) g l 0) false (rawOf h g x.a l)
def execCvtI2f (x : FmtR) (s : State) : Host.Outcome State Fault Refusal :=
  issue (.cvtI2f x) s fun n h g r => fltShort s n h g r x.lo x.d fun l =>
    cvtVal x (rndOf x.lo (teamOf s g) g l 0) false (rawOf h g x.a l)
/-- SAT saturates, otherwise an integer pair keeps its low bits; no flag (R235). -/
def execCvtI2i (x : FmtR) (s : State) : Host.Outcome State Fault Refusal :=
  issueRegs (.cvtI2i x) s fun h g r => g.dst h.u x.d.toNat (acting h g r) fun l =>
    (cvtVal x rne (!x.lo.b22) (rawOf h g x.a l)).1

/-- PACK of a lane (R248): element i takes register A + i; HI selects the half that a 4-bit destination writes. Log
entry 14. -/
def packVal (x : FmtR) (r : Nat → Rnd) (src : Nat → Nat) (d : W32) : W32 × BitVec 5 :=
  let w := codeWidth (dfmtOf x)
  let n := packN (hiFmt x.h)
  let ys := (List.range n).map fun i => convert (sfmtOf x) (dfmtOf x) (r i) false (src i)
  let v := ys.zipIdx.foldl (fun a y => a + (y.1.bits % 2 ^ w) * 2 ^ (w * y.2)) 0
  let fl := ys.foldl (fun a y => a ||| y.flags) 0
  (if w = 4 then (if x.h.getLsbD 5 then putField d 16 16 v else putField d 0 16 v) else w32 v, fl)
def execPack (x : FmtR) (s : State) : Host.Outcome State Fault Refusal :=
  issue (.pack x) s fun n h g r => fltShort s n h g r x.lo x.d fun l =>
    packVal x (rndOf x.lo (teamOf s g) g l) (fun i => (g.src h.u (x.a.toNat + i) l).toNat) (g.src h.u x.d.toNat l)

/-- UNPACK (R249): exact, no flag. -/
def unpackVal (x : FmtR) (a i : Nat) : W32 :=
  let k := if x.h.getLsbD 5 && codeWidth (sfmtOf x) = 4 then i + 4 else i
  extendTo (dfmtOf x) (convert (sfmtOf x) (dfmtOf x) rne false (elemOf (sfmtOf x) a k)).bits
def execUnpack (x : FmtR) (s : State) : Host.Outcome State Fault Refusal :=
  issueRegs (.unpack x) s fun h g r =>
    let m := acting h g r
    (List.range (packN (x.c.extractLsb' 0 5))).foldl (fun g' i =>
      g'.dst h.u (x.d.toNat + i) m fun l => unpackVal x (rawOf h g x.a l) i) g

/-- QNT (R250): inactive lanes enter the block as +0. -/
def execQnt (x : FmtR) (s : State) : Host.Outcome State Fault Refusal :=
  issue (.qnt x) s fun n h g r =>
    let m := acting h g r
    let t := teamOf s g
    let (scale, rs) := mxQuantise (dfmtOf x) x.lo.m.toNat (allLanes.map fun l =>
      (if m.getLsbD l.val then (g.rdV x.a.toNat l).toNat else 0, laneDraw t g l 0))
    let g' := (g.wrV x.d.toNat m fun l => w32 ((rs.getD l.val ⟨0, 0⟩).bits)).wrS x.c.toNat (w32 scale)
    floatEff s n g (g'.countSr x.lo.m) true ((lanesOf m).map fun l => (l, (rs.getD l.val ⟨0, 0⟩).flags))

/-- DQNT (R251): C names an S register whose low byte is the scale. -/
def execDqnt (x : FmtR) (s : State) : Host.Outcome State Fault Refusal :=
  issue (.dqnt x) s fun n h g r => fltShort s n h g r x.lo x.d fun l =>
    resOf (fp32.arith { rm := x.lo.m.toNat, sat := x.lo.b22 }
      (mxScaled (dfmtOf x) ((g.rdS x.c.toNat).toNat % 256) (rawOf h g x.a l)))

end Sys2Proof.Machine
end

