-- ==== Sys2Proof/Machine/Sched.lean ====
section
/-! DEFINITION. Issue of clauses and retirement: R40, R45 to R47, R52, R56, R153, R154, R228, R270. -/

namespace Sys2Proof.Machine
open Sys2Proof

/-! ## Readiness -/

/-- The pc and the lanes of what a group issues next: the rest of an interrupted clause, or its issue set. -/
def Group.nextIssue (g : Group) : Option (W32 × Nat × Mask) :=
  match g.resume with
  | some x => some x
  | none => let (m, pc) := g.issueSet; if m = 0 then none else some (pc, 0, m)

/-- Ready (R46): at a clause boundary, not blocked, with an issue set and a header whose waits are met (or which traps). -/
def groupReady (s : State) (c : CoreId) (i : Slot) : Bool :=
  let g := s.grp c i
  g.resident && g.run.isNone && g.block == .free && g.fetch.isNone && g.hangAct == 0
  && match g.nextIssue with
    | none => false
    | some (pc, _, _) =>
      match (codeWord s c (s.team c g.team) pc.toNat).1 with
      | .error _ => true
      | .ok h => !hdrOk h || g.met h

/-- The choice of R47 as a list compared from the front. -/
def chooseKey (s : State) (c : CoreId) (i : Slot) : List Nat :=
  let g := s.grp c i
  let t := s.team c g.team
  let rest := [7 - (LRec.prio t.lrec).toNat, g.young.toNat, g.bornAt, t.order, g.gid.toNat]
  if 4096 ≤ s.cycles c - g.readyAt then 0 :: g.readyAt :: rest else 1 :: rest
/-- No group of a list is chosen before i. -/
def chosen (s : State) (c : CoreId) (i : Slot) (l : List Slot) : Bool :=
  l.all fun j => !lexLt (chooseKey s c j) (chooseKey s c i)

/-- A group of the scheduler is inside a clause (R45). -/
def schedBusy (s : State) (c : CoreId) (k : Fin 4) : Bool :=
  ((s.cores[c].ctx.order)[k]).any fun j => let g := s.grp c j; g.run.isSome && !g.atBoundary

/-- A group enters the active set: where it has room, or for an active group that p lets go. Of several the first in resident
order goes, which the spec leaves open (log entry 96). -/
def activate (s : State) (c : CoreId) (i : Slot) (k : Fin 4) (p : Slot → Bool) : State :=
  let act := ((s.cores[c].ctx.order)[k]).filter fun j => (s.grp c j).active
  if (s.grp c i).active then s
  else if act.length < 8 then s.modGrp c i fun g => { g with active := true }
  else match act.find? fun j => p j && (s.grp c j).atBoundary with
    | some j => (s.modGrp c j fun g => { g with active := false }).modGrp c i fun g => { g with active := true }
    | none => s
/-- The swap of R46: the best ready pending group for a waiting active one; without a ready one nothing moves. -/
def swapIn (s : State) (c : CoreId) (i : Slot) (k : Fin 4) : State :=
  let pend := ((s.cores[c].ctx.order)[k]).filter fun j => !(s.grp c j).active && groupReady s c j
  if !pend.contains i || !chosen s c i pend then s else activate s c i k fun j => !groupReady s c j

/-! ## Stopping for a pre-emption (R50, R162, R366) -/

/-- The key of an outstanding keyed operation, without the lane (R270). -/
def outKey (s : State) (c : CoreId) (j : Slot) (o : Out) : List Nat :=
  let g := s.grp c j
  [o.count, (s.team c g.team).order, g.gid.toNat]
/-- An atomic that has been issued and not performed (R366). -/
def Out.atomOpen (o : Out) : Bool := o.rmw && o.pending
/-- The group has stopped: at a clause boundary; in deterministic mode not before the keys of R366 allow it. -/
def groupStopped (s : State) (c : CoreId) (i : Slot) : Bool :=
  let g := s.grp c i
  !g.resident
  || if !s.det c then g.atBoundary
    else g.block.waits || g.liveLanes == 0 || (g.run.isNone && !g.out.any (·.rmw)
      && (List.finRange 64).all fun j => !(s.grp c j).resident || (s.grp c j).out.all fun o =>
        !o.atomOpen || lexLt (outKey s c j o) [g.retired, (s.team c g.team).order, g.gid.toNat])

/-- The maximal run of completed entries at the head of a counter; without a counter, the first completed entry (R153). -/
def retiring (out : List Out) (ctr : BitVec 3) : List Out :=
  let mine := out.filter fun o => o.sb == ctr
  let done : Out → Bool := fun o => o.kind == .done
  if ctr = 7 then (mine.filter done).take 1 else mine.takeWhile done
/-- Nothing of a group has to complete or retire before it is saved: what is left are commands, array operations and ring
waits, with what stands behind them on their counters (R162, R252, R393). -/
def Group.settled (g : Group) : Bool :=
  !g.out.any Out.pending && (List.range 8).all (fun k => (retiring g.out (BitVec.ofNat 3 k)).isEmpty)
    && g.spills.isEmpty && g.fetch.isNone
/-- No access of a companion core is outstanding (R342). -/
def Companion.settled (k : Companion) : Bool := k.fault.isNone && k.cap.isNone
/-- Every group of the core has stopped, and what R162 completes has completed and retired; every replayable fault is
answered (R393). -/
def coreStopped (s : State) (c : CoreId) : Bool :=
  s.cores[c].ctx.feeder.settled && s.cores[c].ctx.drain.settled
  && (List.finRange 64).all fun i => groupStopped s c i && (!(s.grp c i).resident || (s.grp c i).settled)
/-- A pre-emption keeps the group from issuing. -/
def stopHolds (s : State) (c : CoreId) (i : Slot) : Bool :=
  match s.cores[c].stopping with
  | .no => false
  | .groups => !s.det c || groupStopped s c i
  | .drained => true

/-! ## The rotation (R52) -/

/-- A position that the rotation skips. -/
def Group.skipped (g : Group) : Bool :=
  g.block.still || (g.run.isNone && g.nextIssue.isNone)
/-- One pass over a sleeping group (R228). -/
def Group.pass (g : Group) : Group :=
  { g with block := match g.block with | .sleeping k => if k ≤ 1 then .free else .sleeping (k - 1) | b => b }
/-- The rotation goes on to the first position that is not skipped: the group there, if any, and its position. -/
def rotateTo (s : State) (c : CoreId) (k : Fin 4) : Option (Slot × Nat) × State :=
  let x := s.cores[c].ctx
  let l := x.order[k]
  let r := x.rot[k]
  let seen := (l.drop r ++ l.take r).takeWhile fun j => (s.grp c j).skipped || stopHolds s c j
  let s := seen.foldl (fun s j => s.modGrp c j Group.pass) s
  match (l.drop r ++ l.take r).drop seen.length with
  | [] => (none, s)
  | j :: _ =>
    let p := (r + seen.length) % l.length
    (some (j, p), s.modCtx c fun x => { x with rot := vset x.rot k p })

/-! ## Issue of a clause -/

/-- The clause at a pc opens for some lanes at an index (R154, R157, R160); the header's waits come first, and every
yield mark clears (R39, R40). after: what the scheduler does when it issues. -/
def openClause (s : State) (c : CoreId) (i : Slot) (pc : W32) (idx : Nat) (lanes : Mask) (after : State → State) : State :=
  let g := s.grp c i
  let t := s.team c g.team
  match codeWord s c t pc.toNat with
  | (.error (va, ty), s) => awaitFault s c i va ty 3
  | (.ok h, s) =>
    if !hdrOk h then takeTrap s c i pc 0 lanes (wordTrap 0x04 h)
    else if hdrN h < idx then
      s.modGrp c i fun g => { g with
        resume := none, pc := Vector.ofFn fun l => if lanes.getLsbD l.val then nextHeader pc h else g.pc[l] }
    else if !g.met h then s
    else match codeWords c t s (pc.toNat + 8) (hdrN h + 1) with
      | (.error (va, ty), s) => awaitFault s c i va ty 3
      | (.ok ws, s) =>
        after (s.modGrp c i fun g => { g with
          run := some { pc := pc, hdr := h, words := ws, idx := idx, lanes := lanes, yield := g.resume.isSome && g.keptYield }
          -- SLEEP and YIELD that a resumed clause executed before its trap take effect at its end (R159)
          sleepReq := if g.resume.isSome then g.keptSleep else 0
          keptSleep := if g.resume.isSome then 0 else g.keptSleep
          keptYield := g.resume.isNone && g.keptYield
          resume := none, readyAt := s.cycles c
          lane := Vector.ofFn fun l => if g.lane[l] == .yielded && !g.frozen.getLsbD l.val then .ready else g.lane[l] })

/-- Another group of its class has issued: no group of the class counts as youngest any more (R47). -/
def clearYoung (s : State) (c : CoreId) (i : Slot) (k : Fin 4) : State :=
  let class' : Slot → BitVec 3 := fun j => LRec.prio (s.team c (s.grp c j).team).lrec
  (((s.cores[c].ctx.order)[k]).filter fun j => j != i && class' j == class' i).foldl
    (fun s j => s.modGrp c j fun g => { g with young := false }) s

/-- CLAUSE_ISSUE (R154). In deterministic mode the clock of the cluster is the pinned one first (R20), and the group that the
rotation reaches is in the active set (R52). -/
def execClauseIssue (c : CoreId) (i : Slot) (s : State) : Host.Outcome State Fault Refusal :=
  let g := s.grp c i
  let t := s.team c g.team
  if !g.resident || g.run.isSome || s.cores[c].run.isNone || stopHolds s c i || !t.tbHere || g.hangAct != 0 || g.fetch.isSome
      || (s.det c && (s.hub.clusters[clusterOf c]).fcur != 44) then
    .next s
  else if gridKilled s t then .next (leave s c i)
  else if schedBusy s c g.sched then .next s
  else if s.det c then
    match rotateTo s c g.sched with
    | (some (j, p), s) =>
      if j != i then .next s
      else match (s.grp c i).nextIssue with
        | none => .next s
        | some (pc, idx, lanes) => .next (openClause (activate s c i g.sched fun _ => true) c i pc idx lanes fun s =>
            s.modCtx c fun x => { x with rot := vset x.rot g.sched ((p + 1) % (x.order[g.sched]).length) })
    | (none, s) => .next s
  else
    let s := if g.active then s else swapIn s c i g.sched
    let ready := ((s.cores[c].ctx.order)[g.sched]).filter fun j => (s.grp c j).active && groupReady s c j
    if !(s.grp c i).active || !ready.contains i || !chosen s c i ready then .next s
    else match (s.grp c i).nextIssue with
      | none => .next s
      | some (pc, idx, lanes) => .next (openClause s c i pc idx lanes fun s => clearYoung s c i g.sched)

/-! ## Retirement (R153) -/

/-- A held result of an exited lane has no visible effect (R226). -/
def Group.shows (g : Group) : RegWrite → Bool
  | .v _ l _ _ | .p _ l _ | .a _ l _ _ => g.lane[l] != .exited
  | _ => true

/-- The results of retired entries written, their flags ORed (R235). -/
def Group.retire (g : Group) (os : List Out) : Group :=
  let g := { g with out := os.foldl (fun l o => delFirst (· == o) l) g.out, hang := 0 }
  os.foldl (fun g o => (o.writes.foldl (fun g w => if g.shows w then g.apply w else g) g).orFlags o.flags) g

/-- An issued keyed operation may be performed (R270). -/
def keyedMay (s : State) (c : CoreId) (i : Slot) (o : Out) : Bool :=
  let k := outKey s c i o
  (List.finRange 64).all fun j =>
    let g := s.grp c j
    !g.resident
    || (g.out.all (fun p => !p.keyed || !lexLt (outKey s c j p) k)
      && (j == i || lexLt k [g.retired, (s.team c g.team).order, g.gid.toNat] || g.quiet))
/-- The first access of a group that is held back for its key and whose turn has come is performed, then those behind it. -/
def runKeyed (s : State) (c : CoreId) (i : Slot) : State :=
  match (s.grp c i).out.zipIdx.find? fun x => x.1.keyed && entryMay s c i x.2 x.1 && keyedMay s c i x.1 with
  | some (_, n) => runOut s c i n true id
  | none => s

/-- A group that has become ready notes when (R47). -/
def noteReady (s : State) (c : CoreId) (i : Slot) (was : Bool) : State :=
  if !was && groupReady s c i then s.modGrp c i fun g => { g with readyAt := s.cycles c } else s

/-- A spilled vector register that a result is to be written to. -/
def spilledDest (g : Group) (os : List Out) : Option Nat :=
  (os.flatMap (·.writes)).findSome? fun w => match w with
    | .v r _ _ _ => if g.spilled.getLsbD r.toNat then some r.toNat else none
    | _ => none
/-- INSTRUCTION_RETIRE: what has completed at the head of a counter retires together; a keyed operation whose turn has come,
and every access that nothing holds, is performed first. A spilled destination is filled before (R149). -/
def execInstructionRetire (c : CoreId) (i : Slot) (ctr : BitVec 3) (s : State) : Host.Outcome State Fault Refusal :=
  if !(s.grp c i).resident then .next s
  else
    let was := groupReady s c i
    let s := runMem (if s.det c then runKeyed s c i else s) c i
    let os := retiring (s.grp c i).out ctr
    if os.isEmpty then .next s
    else match spilledDest (s.grp c i) os with
      | some n => .next (fillReg s c i n)
      | none => .next (leave (noteReady (s.modGrp c i fun g => g.retire os) c i was) c i)

/-! ## Sleep and hangs -/

/-- SLEEP_EXPIRY (R228). -/
def execSleepExpiry (c : CoreId) (i : Slot) (s : State) : Host.Outcome State Fault Refusal :=
  if (s.grp c i).resident && (s.grp c i).block == .sleeping 0 then
    .next (s.modGrp c i fun g => { g with block := .free, readyAt := s.cycles c })
  else .next s

/-- HEXP of SCHEDCFG as it acts; none when the detector is off (R55). -/
def hangExp (cfg : W32) : Option Nat :=
  let h := fieldN cfg 24 5
  if h = 0 then none else some (max h 16)
/-- XINFO1 and XINFO2 of a hang: held and yielded lanes. -/
def hangTrapOf (g : Group) : Trap :=
  { cause := 0x29, x1 := maskOf fun l => g.lane[l] == .held, x2 := maskOf fun l => g.lane[l] == .yielded }

/-- HANG_REPORT (R56): the record, the counter cleared, the HACT action: a trap that waits for its delivery, or the fault of the
context, at once or at the end of the clause. -/
def execHangReport (c : CoreId) (i : Slot) (s : State) : Host.Outcome State Fault Refusal :=
  let g := s.grp c i
  let k := s.cores[c]
  match hangExp k.schedcfg with
  | none => .next s
  | some e =>
    if !g.resident || k.run.isNone || g.hang < 2 ^ e then .next s
    else
      let t := s.team c g.team
      let r := { groupRec s c i 0 0x44 (trapInfo (hangTrapOf g)) with
        hdr := (minOver g.liveLanes fun l => g.pc[l]).toNat, cidx := 0 }
      let s := s.modCore c fun k => { k with hangs := if k.hangs = 0xFFFFFFFF then k.hangs else k.hangs + 1 }
      let (n, s) := faultLog s t.asid r
      let act : BitVec 2 := match fieldN k.schedcfg 30 2 with | 1 => 1 | 2 => 2 | _ => g.hangAct
      .next (hangEnd (s.modGrp c i fun g => { g with hang := 0, hangAct := act, hangLog := n }) c i)

/-- A barrier has let the group go, and its wave has not come yet (R119). -/
def inWave (s : State) (c : CoreId) (i : Slot) : Bool :=
  ((s.team c (s.grp c i).team).bars).toList.any fun b => b.waves.contains (.grp i)
/-- A group no longer waits at the barriers of its team. -/
def leaveBars (s : State) (c : CoreId) (i : Slot) : State :=
  s.modTeam c (s.grp c i).team fun t => { t with bars := t.bars.map fun b =>
    { b with waiters := b.waiters.filter fun w => w.1 != .grp i } }
/-- GROUP_HANG_DELIVERY (R56): at the clause boundary, with XPC at the header the group would issue next. A group that is
blocked at a wait is at one (R46): it would issue that wait again, and resumes at it (log entry 32). -/
def execGroupHangDelivery (c : CoreId) (i : Slot) (s : State) : Host.Outcome State Fault Refusal :=
  let g := s.grp c i
  if !g.resident || g.hangAct != 1 || !g.atBoundary || inWave s c i then .next s
  else
    let s := (leaveBars s c i).modGrp c i fun g => { g with hangAct := 0 }
    match (g.run.map fun r => (r.pc, r.idx, r.lanes)).orElse fun _ => g.nextIssue with
    | some (pc, idx, lanes) => .next (takeTrap s c i pc idx lanes (hangTrapOf g))
    | none =>
      match lowLane g.liveLanes with
      | some l => .next (takeTrap s c i g.pc[l] 0 (bitOf 32 l.val) (hangTrapOf g))
      | none => .next s

end Sys2Proof.Machine
end

