-- ==== Sys2Proof/Machine/Faults.lean ====
section
/-! DEFINITION. The driver's answers: TLB invalidations (R391), the fault ring (R393), a debugger's restore (R399). -/

namespace Sys2Proof.Machine
open Sys2Proof

/-! ## TLBINV (R391) -/

/-- A write of TLBINV. -/
def tlbInvalidate (src : Nat) (v : W64) (s : State) : State :=
  let sz : BitVec 2 := v.extractLsb' 21 2
  fullWrite s { off := 0x0208, src := src, rsv := bits 20 12 } v s.hub.tlbBusy.isSome (sz != 3) fun s =>
    s.modHub fun h => { h with tlbBusy := some (sz, v.extractLsb' 23 41, v.setWidth 12) }
def execTlbinvPage (va : BitVec 41) (rsv : BitVec 9) (asid : Asid) (s : State) : Host.Outcome State Fault Refusal :=
  .next (tlbInvalidate 0 (va ++ 0#2 ++ rsv ++ asid) s)
def execTlbinvAsid (va : BitVec 41) (rsv : BitVec 9) (asid : Asid) (s : State) : Host.Outcome State Fault Refusal :=
  .next (tlbInvalidate 0 (va ++ 1#2 ++ rsv ++ asid) s)
def execTlbinvAll (va : BitVec 41) (rsv : BitVec 9) (asid : Asid) (s : State) : Host.Outcome State Fault Refusal :=
  .next (tlbInvalidate 0 (va ++ 2#2 ++ rsv ++ asid) s)

/-- An entry that an invalidation names. -/
def tlbMatches (sz : BitVec 2) (va : BitVec 41) (asid : Asid) (e : TlbEntry) : Bool :=
  if sz = 2 then true
  else e.asid == asid && (sz == 1 || e.va / pageSize e.size == va.toNat * 65536 / pageSize e.size)
/-- A store of a context that an invalidation names, in a write-combining buffer or dirty in an L2, is not performed at PKG
scope yet. Log entry 97. -/
def tlbOpen (s : State) (sz : BitVec 2) (asid : Asid) : Bool :=
  let mine : Sector → Bool := fun x => x.dirty != 0 && (sz == 2 || x.owner == asid)
  s.cores.toList.any (fun k => k.wcb.any mine) || s.dies.toList.any fun d => d.l2.any mine
/-- TLBINV_DONE: no TLB of the package holds a matching entry any more, and what was translated by one has been performed at
PKG scope. -/
def execTlbinvDone (s : State) : Host.Outcome State Fault Refusal :=
  match s.hub.tlbBusy with
  | none => .next s
  | some (sz, va, asid) =>
    if tlbOpen s sz asid then .next s
    else
    let keep : List TlbEntry → List TlbEntry := fun l => l.filter fun e => !tlbMatches sz va asid e
    let s := { s with
      cores := s.cores.map fun (k : Core) => { k with tlb := keep k.tlb }
      dies := s.dies.map fun (d : Die) => { d with tlb := keep d.tlb } }
    .next (s.modHub fun h => { h with tlbBusy := none })

/-! ## FRRESP (R393) -/

/-- An outstanding access that waits for an entry goes on. -/
def Out.unwait (id : W32) (o : Out) : Out :=
  { o with kind := match o.kind with
      | .mem accs => .mem (accs.map fun a => { a with wait := a.wait.filter fun w => w.2 != id })
      | k => k }
/-- A group, and a companion core, that waits for an entry goes on. -/
def Group.unwait (id : W32) (g : Group) : Group :=
  { g with fetch := if g.fetch = some id then none else g.fetch, out := g.out.map (Out.unwait id)
           spills := g.spills.filter fun w => w.2 != id }
def Companion.unwait (id : W32) (k : Companion) : Companion := { k with fault := if k.fault = some id then none else k.fault }
/-- An outstanding instruction waits for an entry. -/
def Out.waitsFor (id : W32) (o : Out) : Bool := match o.kind with | .mem accs => accs.any fun a => a.wait.any (·.2 == id) | _ => false
/-- A group waits for an entry. -/
def Group.waitsFor (id : W32) (g : Group) : Bool :=
  g.resident && (g.fetch == some id || g.spills.any (·.2 == id) || g.out.any (Out.waitsFor id))
/-- Each context of a core changed: the running one, and the saved ones, of which one may be streamed out. -/
def Core.eachCtx (f : CtxCore → CtxCore) (k : Core) : Core := { k with ctx := f k.ctx, saved := k.saved.map fun x => (x.1, f x.2) }
/-- Everything that waits for an entry goes on. -/
def unwaitAll (id : W32) (s : State) : State := { s with cores := s.cores.map fun k => Core.eachCtx (k := k) fun x =>
  { x with groups := x.groups.map (Group.unwait id), feeder := x.feeder.unwait id, drain := x.drain.unwait id } }

/-- RETRY: every access of the entry walks again. -/
def faultRetry (id : W32) (s : State) : State :=
  let who := (List.finRange 64).flatMap fun c => ((List.finRange 64).filter fun i => (s.grp c i).waitsFor id).map fun i =>
    (c, i, (s.grp c i).fetch != some id, ((s.grp c i).spills.filter fun w => w.2 == id).map (·.1))
  who.foldl (fun s (c, i, was, rs) => noteReady (runMem (rs.foldl (fun s n => spillStore s c i n) s) c i) c i was) (unwaitAll id s)

/-- The record of an aborted entry (R394): who raised it, and for a group the clause, the index and the layout slot of the
instruction whose access waits. -/
def abortRec (s : State) (f : RingFault) : LogRec :=
  let g := s.grp f.core f.idx
  let r : LogRec := { kind := 8, cause := 0x41, core := f.core.val, agent := f.agent.toNat }
  if f.agent = 0 then
    let r := { groupRec s f.core f.idx 8 0x41 0 with agent := 0 }
    match g.out.find? (Out.waitsFor f.id) with
    | none => r
    | some o =>
      let lh := match o.kind with
        | .mem accs => ((accs.find? fun a => a.wait.any (·.2 == f.id)).map fun a => a.lh.toNat).getD 0
        | _ => 0
      { r with hdr := o.pc.toNat, cidx := o.idx, lh := lh }
  else { r with team := Team.linear (s.team f.core (s.comp f.core (if f.agent = 1 then .feeder else .drain)).team) }
/-- A waiting instruction of a faulted context: its accesses never complete. -/
def Group.abort (id : W32) (g : Group) : Group :=
  if g.waitsFor id then
    { g with run := none, fetch := none, spills := g.spills.filter fun w => w.2 != id, out := g.out.filter fun o => !o.pending }
  else g
/-- ABORT: the accesses never complete and the context faults with PAGE_FAULT. -/
def faultAbort (f : RingFault) (s : State) : State :=
  let r := abortRec s f
  contextFault { s with cores := s.cores.map fun k => Core.eachCtx (k := k) fun x =>
    { x with groups := x.groups.map (Group.abort f.id), feeder := x.feeder.unwait f.id, drain := x.drain.unwait f.id } } f.asid 0x10 r

/-- A write of FRRESP: reserved bits and a wrong ACT refuse it; one for an entry that is not pending is logged and has no
effect. -/
def frrespPut (src : Nat) (v : W64) (s : State) : State :=
  let act := fieldN v 0 2
  let id : W32 := v.extractLsb' 32 32
  fullWrite s { off := 0x0240, src := src, rsv := bits 31 2 } v false (act == 1 || act == 2) fun s =>
    match s.hub.faults.find? fun f => f.id == id && f.logged with
    | none => logRefusal s 0x0240 3 src v.toNat
    | some x =>
      let s := logFaults (s.modHub fun h => { h with faults := h.faults.filter fun f => f.id != id })
      if act = 1 then faultRetry id s else faultAbort x s
/-- FRRESP_RETRY. -/
def execFrrespRetry (id : W32) (rsv : BitVec 30) (s : State) : Host.Outcome State Fault Refusal :=
  .next (frrespPut 0 (id ++ rsv ++ 1#2) s)
/-- FRRESP_ABORT. -/
def execFrrespAbort (id : W32) (rsv : BitVec 30) (s : State) : Host.Outcome State Fault Refusal :=
  .next (frrespPut 0 (id ++ rsv ++ 2#2) s)

/-! ## DBGRES (R399) -/

/-- A write of DBGRES: a context that BKPT stopped may run again. -/
def dbgresPut (src : Nat) (v : W64) (s : State) : State :=
  let a : Asid := v.setWidth 12
  fullWrite s { off := 0x0248, src := src, rsv := bits 63 12 } v (!debugged s a) true fun s =>
    s.modCtxRec a fun c => { c with debug := false }
/-- DBGRES. -/
def execDbgres (v : W64) (s : State) : Host.Outcome State Fault Refusal := .next (dbgresPut 0 v s)

end Sys2Proof.Machine
end

