-- ==== Sys2Proof/Machine/Integer.lean ====
section
/-! DEFINITION. Integer and logic instructions (R201 to R211): the value each computes, and its meaning. -/

namespace Sys2Proof.Machine
open Sys2Proof

/-! ## Values (R204) -/

/-- Fit of the operation's exact result. -/
def fitOf (x : Low) (t : Int) : W32 := fit32 x.b22 x.b21 t
/-- v(x) of R204. -/
def vOf (x : Low) (a : W32) : Int := asInt x.b21 a

def iaddVal (x : Low) (a b : W32) : W32 := fitOf x (vOf x a + vOf x b)
def isubVal (x : Low) (a b : W32) : W32 := fitOf x (vOf x a - vOf x b)
def imulVal (x : Low) (a b : W32) : W32 := fitOf x (vOf x a * vOf x b)
def imulhVal (x : Low) (a b : W32) : W32 := (trunc 64 (vOf x a * vOf x b)).extractLsb' 32 32
def imadVal (x : Low) (a b c : W32) : W32 := fitOf x (vOf x a * vOf x b + vOf x c)
/-- IMADW: the 64-bit result; hi ++ lo is the 64-bit addend. -/
def imadwVal (x : Low) (a b lo hi : W32) : W64 := trunc 64 (vOf x a * vOf x b + asInt x.b21 (hi ++ lo))
def iminVal (x : Low) (a b : W32) : W32 := if vOf x a ≤ vOf x b then a else b
def imaxVal (x : Low) (a b : W32) : W32 := if vOf x b ≤ vOf x a then a else b
def iabsVal (sat : Bool) (a : W32) : W32 := if sat then satS32 a.toInt.natAbs else trunc 32 a.toInt.natAbs
def inegVal (sat : Bool) (a : W32) : W32 := if sat then satS32 (-a.toInt) else trunc 32 (-a.toInt)

/-- Element i of 32 / n bits of x. -/
def dotElem (n : Nat) (sgn : Bool) (x : W32) (i : Nat) : Int :=
  let w := 32 / n
  asInt sgn (x.extractLsb' (w * i) w)
def idot4Val (m : BitVec 3) (sat : Bool) (a b c : W32) : W32 :=
  let n := if m.getLsbD 2 then 8 else 4
  let t := (List.range n).foldl (fun t i => t + dotElem n (m.getLsbD 0) a i * dotElem n (m.getLsbD 1) b i) c.toInt
  if sat then satS32 t else trunc 32 t

/-- A truth table applied to three bits (R206). -/
def lutBit (lut : BitVec 8) (x y z : Bool) : Bool := lut.getLsbD (x.toNat + 2 * y.toNat + 4 * z.toNat)
def lopVal (lut : BitVec 8) (a b c : W32) : W32 := maskOf fun i => lutBit lut (a.getLsbD i) (b.getLsbD i) (c.getLsbD i)

/-- The shift count of SHL, SHR and SAR. -/
def shCount (w : Bool) (b : W32) : Nat := if w then b.toNat % 32 else b.toNat
def shlVal (w : Bool) (a b : W32) : W32 := let n := shCount w b; if 32 ≤ n then 0 else a <<< n
def shrVal (w : Bool) (a b : W32) : W32 := let n := shCount w b; if 32 ≤ n then 0 else a >>> n
def sarVal (w : Bool) (a b : W32) : W32 := a.sshiftRight (min 31 (shCount w b))
def shfVal (m : BitVec 3) (a b c : W32) : W32 :=
  let p : W64 := b ++ a
  let n := c.toNat % 64
  let q : W64 := match (m.extractLsb' 0 2).toNat with
    | 0 => p <<< n
    | 1 => p >>> n
    | 2 => p.sshiftRight n
    | _ => p.rotateRight n
  if m.getLsbD 2 then q.extractLsb' 32 32 else q.extractLsb' 0 32

/-- The field a descriptor names: its lowest bit and length; none when it names no field (R207). -/
def fieldOf (x : W32) : Option (Nat × Nat) :=
  let lo := fieldN x 0 6
  let hi := fieldN x 8 6
  if 32 ≤ lo || hi < lo then none else some (lo, min hi 31 - lo + 1)
def bfxVal (sgn : Bool) (a x : W32) : W32 :=
  match fieldOf x with
  | none => 0
  | some (lo, n) =>
    let f := fieldN a lo n
    if sgn && f.testBit (n - 1) then trunc 32 ((f : Int) - (2 ^ n : Nat)) else w32 f
def bfiVal (a b x : W32) : W32 :=
  match fieldOf x with
  | none => a
  | some (lo, n) => putField a lo n b.toNat

def popcVal (a : W32) : W32 := w32 (popCount a)
def clzVal (a : W32) : W32 := w32 (match highestBit a with | some k => 31 - k | none => 32)
def icmpVal (sgn : Bool) (cond : BitVec 3) (a b : W32) : Bool :=
  let x := asInt sgn a
  let y := asInt sgn b
  match cond.toNat with
  | 0 => x == y
  | 1 => x != y
  | 2 => x < y
  | 3 => x ≤ y
  | 4 => y < x
  | _ => y ≤ x
def moviVal (op : BitVec 3) (d imm : W32) : W32 := if op = 1 then d + imm else if op = 2 then d ^^^ imm else imm
/-- One byte of PRMT (R208). -/
def prmtByte (p : W64) (s : Byte) : Byte :=
  let y := p.extractLsb' (8 * (s.toNat % 8)) 8
  match (s.toNat / 8) % 4 with
  | 0 => y
  | 1 => revBits y
  | 2 => if y.getLsbD 7 then 0xFF else 0
  | _ => 0
def prmtVal (a b c : W32) : W32 := ofBytes fun i => prmtByte (b ++ a) (byteAt c i)
def gfVal (bc : Bool) (a b c : W32) : W32 :=
  ofBytes fun i => byteAt c i ^^^ gfMul (byteAt a i) (byteAt b (if bc then 0 else i))
def crcVal (size : Nat) (a b : W32) : W32 := ((List.range (2 ^ size)).map (byteAt b)).foldl crcByte a
/-- IADDC: sum or difference and the carry or borrow out (R205). -/
def iaddcVal (sub k : Bool) (a b : W32) : W32 × Bool :=
  if sub then (a - b - w32 k.toNat, decide (a.toNat < b.toNat + k.toNat))
  else (a + b + w32 k.toNat, decide (2 ^ 32 ≤ a.toNat + b.toNat + k.toNat))

/-! ## Shapes -/

/-- D := f(a). -/
def alu1 (x : FmtR) (f : W32 → W32) (h : Hd) (g : Group) (r : Run) : Group :=
  g.dst h.u x.d.toNat (acting h g r) fun l => f (g.src h.u x.a.toNat l)
/-- D := f(a, b). -/
def alu2 (x : FmtR) (f : W32 → W32 → W32) (h : Hd) (g : Group) (r : Run) : Group :=
  g.dst h.u x.d.toNat (acting h g r) fun l => f (g.src h.u x.a.toNat l) (g.src h.u x.b.toNat l)
/-- D := f(a, b, c). -/
def alu3 (x : FmtR) (f : W32 → W32 → W32 → W32) (h : Hd) (g : Group) (r : Run) : Group :=
  g.dst h.u x.d.toNat (acting h g r) fun l =>
    f (g.src h.u x.a.toNat l) (g.src h.u x.b.toNat l) (g.src h.u x.c.toNat l)
/-- D := f(a, imm). -/
def aluI (x : FmtI24) (f : W32 → W32) (h : Hd) (g : Group) (r : Run) : Group :=
  g.dst h.u x.d.toNat (acting h g r) fun l => f (g.src h.u x.a.toNat l)
/-- The sign-extended immediate. -/
def simm (x : FmtI24) : W32 := x.imm.signExtend 32
/-- The zero-extended immediate. -/
def zimm (x : FmtI24) : W32 := x.imm.setWidth 32

/-! ## Meanings -/

/-- NOP: none. -/
def execNop (x : FmtR) (s : State) : Host.Outcome State Fault Refusal := issueRegs (.nop x) s fun _ g _ => g
def execIadd (x : FmtR) (s : State) : Host.Outcome State Fault Refusal := issueRegs (.iadd x) s (alu2 x (iaddVal x.lo))
def execIaddI24 (x : FmtI24) (s : State) : Host.Outcome State Fault Refusal :=
  issueRegs (.iaddI24 x) s (aluI x fun a => iaddVal x.lo a (simm x))
def execIsub (x : FmtR) (s : State) : Host.Outcome State Fault Refusal := issueRegs (.isub x) s (alu2 x (isubVal x.lo))
def execIsubI24 (x : FmtI24) (s : State) : Host.Outcome State Fault Refusal :=
  issueRegs (.isubI24 x) s (aluI x fun a => isubVal x.lo a (simm x))
/-- R205: the predicate in C is carry in and carry out. -/
def execIaddc (x : FmtR) (s : State) : Host.Outcome State Fault Refusal :=
  issueRegs (.iaddc x) s fun h g r =>
    let m := acting h g r
    let t : Fin 32 → W32 × Bool := fun l =>
      iaddcVal (x.lo.m.getLsbD 0) (g.psrc h.u x.c.toNat l) (g.src h.u x.a.toNat l) (g.src h.u x.b.toNat l)
    (g.dst h.u x.d.toNat m fun l => (t l).1).pdst h.u x.c.toNat m fun l => (t l).2
def execImul (x : FmtR) (s : State) : Host.Outcome State Fault Refusal := issueRegs (.imul x) s (alu2 x (imulVal x.lo))
def execImulI24 (x : FmtI24) (s : State) : Host.Outcome State Fault Refusal :=
  issueRegs (.imulI24 x) s (aluI x fun a => imulVal x.lo a (simm x))
def execImulh (x : FmtR) (s : State) : Host.Outcome State Fault Refusal := issueRegs (.imulh x) s (alu2 x (imulhVal x.lo))
def execImad (x : FmtR) (s : State) : Host.Outcome State Fault Refusal := issueRegs (.imad x) s (alu3 x (imadVal x.lo))
/-- The addend and the destination are pairs of registers. -/
def execImadw (x : FmtR) (s : State) : Host.Outcome State Fault Refusal :=
  issueRegs (.imadw x) s fun h g r =>
    let m := acting h g r
    let t : Fin 32 → W64 := fun l => imadwVal x.lo (g.src h.u x.a.toNat l) (g.src h.u x.b.toNat l)
      (g.src h.u x.c.toNat l) (g.src h.u (x.c.toNat + 1) l)
    (g.dst h.u x.d.toNat m fun l => (t l).extractLsb' 0 32).dst h.u (x.d.toNat + 1) m fun l => (t l).extractLsb' 32 32
def execImin (x : FmtR) (s : State) : Host.Outcome State Fault Refusal := issueRegs (.imin x) s (alu2 x (iminVal x.lo))
def execIminI24 (x : FmtI24) (s : State) : Host.Outcome State Fault Refusal :=
  issueRegs (.iminI24 x) s (aluI x fun a => iminVal x.lo a (simm x))
def execImax (x : FmtR) (s : State) : Host.Outcome State Fault Refusal := issueRegs (.imax x) s (alu2 x (imaxVal x.lo))
def execImaxI24 (x : FmtI24) (s : State) : Host.Outcome State Fault Refusal :=
  issueRegs (.imaxI24 x) s (aluI x fun a => imaxVal x.lo a (simm x))
def execIabs (x : FmtR) (s : State) : Host.Outcome State Fault Refusal := issueRegs (.iabs x) s (alu1 x (iabsVal x.lo.b22))
def execIneg (x : FmtR) (s : State) : Host.Outcome State Fault Refusal := issueRegs (.ineg x) s (alu1 x (inegVal x.lo.b22))
def execIdot4 (x : FmtR) (s : State) : Host.Outcome State Fault Refusal :=
  issueRegs (.idot4 x) s (alu3 x (idot4Val x.lo.m x.lo.b22))
def execLop (x : FmtR) (s : State) : Host.Outcome State Fault Refusal := issueRegs (.lop x) s (alu3 x (lopVal x.h))
def execShl (x : FmtR) (s : State) : Host.Outcome State Fault Refusal :=
  issueRegs (.shl x) s (alu2 x (shlVal (x.lo.m.getLsbD 0)))
def execShlI24 (x : FmtI24) (s : State) : Host.Outcome State Fault Refusal :=
  issueRegs (.shlI24 x) s (aluI x fun a => shlVal (x.lo.m.getLsbD 0) a (zimm x))
def execShr (x : FmtR) (s : State) : Host.Outcome State Fault Refusal :=
  issueRegs (.shr x) s (alu2 x (shrVal (x.lo.m.getLsbD 0)))
def execShrI24 (x : FmtI24) (s : State) : Host.Outcome State Fault Refusal :=
  issueRegs (.shrI24 x) s (aluI x fun a => shrVal (x.lo.m.getLsbD 0) a (zimm x))
def execSar (x : FmtR) (s : State) : Host.Outcome State Fault Refusal :=
  issueRegs (.sar x) s (alu2 x (sarVal (x.lo.m.getLsbD 0)))
def execSarI24 (x : FmtI24) (s : State) : Host.Outcome State Fault Refusal :=
  issueRegs (.sarI24 x) s (aluI x fun a => sarVal (x.lo.m.getLsbD 0) a (zimm x))
def execShf (x : FmtR) (s : State) : Host.Outcome State Fault Refusal := issueRegs (.shf x) s (alu3 x (shfVal x.lo.m))
def execBfx (x : FmtR) (s : State) : Host.Outcome State Fault Refusal := issueRegs (.bfx x) s (alu2 x (bfxVal x.lo.b21))
def execBfxI24 (x : FmtI24) (s : State) : Host.Outcome State Fault Refusal :=
  issueRegs (.bfxI24 x) s (aluI x fun a => bfxVal x.lo.b21 a (zimm x))
def execBfi (x : FmtR) (s : State) : Host.Outcome State Fault Refusal := issueRegs (.bfi x) s (alu3 x bfiVal)
def execPopc (x : FmtR) (s : State) : Host.Outcome State Fault Refusal := issueRegs (.popc x) s (alu1 x popcVal)
def execClz (x : FmtR) (s : State) : Host.Outcome State Fault Refusal := issueRegs (.clz x) s (alu1 x clzVal)
def execBrev (x : FmtR) (s : State) : Host.Outcome State Fault Refusal := issueRegs (.brev x) s (alu1 x revBits)
def execIcmp (x : FmtR) (s : State) : Host.Outcome State Fault Refusal :=
  issueRegs (.icmp x) s fun h g r => g.pdst h.u x.d.toNat (acting h g r) fun l =>
    icmpVal x.lo.b21 x.lo.m (g.src h.u x.a.toNat l) (g.src h.u x.b.toNat l)
def execIcmpI24 (x : FmtI24) (s : State) : Host.Outcome State Fault Refusal :=
  issueRegs (.icmpI24 x) s fun h g r => g.pdst h.u x.d.toNat (acting h g r) fun l =>
    icmpVal x.lo.b21 x.lo.m (g.src h.u x.a.toNat l) (simm x)
def execSel (x : FmtR) (s : State) : Host.Outcome State Fault Refusal :=
  issueRegs (.sel x) s fun h g r => g.dst h.u x.d.toNat (acting h g r) fun l =>
    if g.psrc h.u x.c.toNat l then g.src h.u x.a.toNat l else g.src h.u x.b.toNat l
def execMov (x : FmtR) (s : State) : Host.Outcome State Fault Refusal := issueRegs (.mov x) s (alu1 x id)
/-- R211: D is source and destination. -/
def execMovi (x : FmtI32) (s : State) : Host.Outcome State Fault Refusal :=
  issueRegs (.movi x) s fun h g r => g.dst h.u x.d.toNat (acting h g r) fun l =>
    moviVal x.lo.m (g.src h.u x.d.toNat l) x.imm
def execPrmt (x : FmtR) (s : State) : Host.Outcome State Fault Refusal := issueRegs (.prmt x) s (alu3 x prmtVal)
def execGfmul (x : FmtR) (s : State) : Host.Outcome State Fault Refusal :=
  issueRegs (.gfmul x) s (alu2 x fun a b => gfVal (x.lo.m.getLsbD 0) a b 0)
def execGfmac (x : FmtR) (s : State) : Host.Outcome State Fault Refusal :=
  issueRegs (.gfmac x) s (alu3 x (gfVal (x.lo.m.getLsbD 0)))
def execCrc32c (x : FmtR) (s : State) : Host.Outcome State Fault Refusal :=
  issueRegs (.crc32c x) s (alu2 x (crcVal (x.lo.m.toNat % 4)))
def execPlop (x : FmtR) (s : State) : Host.Outcome State Fault Refusal :=
  issueRegs (.plop x) s fun h g r => g.pdst h.u x.d.toNat (acting h g r) fun l =>
    lutBit x.h (g.psrc h.u x.a.toNat l) (g.psrc h.u x.b.toNat l) (g.psrc h.u x.c.toNat l)

end Sys2Proof.Machine
end

