-- ==== Sys2Proof/Machine/Lane.lean ====
section
/-! DEFINITION. Lane instructions (R212 to R219) and the fixed trees of R182 and R183. -/

namespace Sys2Proof.Machine
open Sys2Proof

/-! ## Trees (R182, R183) -/

/-- Values and flags by position while a tree runs. -/
structure Tree where
  v  : Vector (Option Nat) 32
  fl : Vector (BitVec 5) 32

/-- One node: position i takes left ⊕ right; an EMPTY side gives the other, unrounded. -/
def Tree.node (f : Nat → Nat → Res) (t : Tree) (i left right : Nat) : Tree :=
  match vat t.v left, vat t.v right with
  | none, y => { t with v := vset t.v (Fin.ofNat 32 i) y }
  | x, none => { t with v := vset t.v (Fin.ofNat 32 i) x }
  | some x, some y =>
    let r := f x y
    { v := vset t.v (Fin.ofNat 32 i) (some r.bits), fl := vmod t.fl (Fin.ofNat 32 i) fun a => a ||| r.flags }

/-- The nodes of R182, in order. -/
def reduceSteps : List (Nat × Nat) :=
  (List.range 5).flatMap fun s => ((List.range 32).filter fun l => l % 2 ^ (s + 1) == 0).map fun l => (l, l + 2 ^ s)
/-- The steps of R183 over 2^m elements: position i takes in position i − 2^s. -/
def scanSteps (m : Nat) : List (Nat × Nat) :=
  ((List.range m).flatMap fun s => ((List.range (2 ^ m)).filter fun i => (i + 1) % 2 ^ (s + 1) == 0).map fun i => (i, i - 2 ^ s))
  ++ ((List.range (m - 1)).reverse.flatMap fun s =>
    ((List.range (2 ^ m)).filter fun i => (i + 1) % 2 ^ (s + 1) == 2 ^ s && 2 ^ (s + 1) ≤ i + 1).map fun i => (i, i - 2 ^ s))

/-- A tree over the lanes of a mask. -/
def treeOf (m : Mask) (f : Fin 32 → Nat) : Tree :=
  { v := Vector.ofFn fun l => if m.getLsbD l.val then some (f l) else none, fl := .replicate 32 0 }
/-- R182: position 0 after the reduction, and the flags by node. -/
def treeReduce (f : Nat → Nat → Res) (t : Tree) : Tree := reduceSteps.foldl (fun t x => t.node f x.1 x.1 x.2) t
/-- R183 over the 32 lanes. -/
def treeScan (f : Nat → Nat → Res) (t : Tree) : Tree := (scanSteps 5).foldl (fun t x => t.node f x.1 x.2 x.1) t
/-- The flags of a tree by lane. -/
def Tree.flags (t : Tree) : List (Fin 32 × BitVec 5) := allLanes.map fun l => (l, t.fl[l])

/-- x ⊕ y for FP32 addition at a node. -/
def nodeAdd (rm : Nat) (ftz : Bool) (x y : Nat) : Res :=
  let (v, bad) := Num.add (rm == 2) (fp32.num x) (fp32.num y)
  if bad then ⟨fp32.nan, flagIV⟩ else fp32.flushRes ftz (fp32.arith { rm := rm } v)
/-- The selection of FMIN and FMAX. -/
def nodeSelect (max : Bool) (x y : Nat) : Res := ⟨fp32.select max x y, 0⟩
/-- ⊕ of a float reduction: 0 addition, 1 minimum, 2 maximum. -/
def nodeOp (op : Nat) (lo : Low) : Nat → Nat → Res :=
  match op with
  | 0 => nodeAdd lo.m.toNat lo.b21
  | 1 => nodeSelect false
  | _ => nodeSelect true

/-! ## Values -/

/-- R215: whether modes 0 to 3 hold, over the contributing lanes m and the lanes p where the predicate is true. -/
def voteHolds (mode : Nat) (m p : Mask) : Bool :=
  match mode with
  | 0 => m &&& ~~~p == 0
  | 1 => m &&& p != 0
  | 2 => m &&& ~~~p == 0 || m &&& p == 0
  | _ => popCount (m &&& p) % 2 == 1
/-- R217 over a list of values. -/
def reduxVal (op : Nat) (sgn : Bool) (xs : List W32) : W32 :=
  let pick : (Int → Int → Bool) → W32 := fun better => match xs with
    | [] => 0
    | x :: r => r.foldl (fun a y => if better (asInt sgn y) (asInt sgn a) then y else a) x
  match op with
  | 0 => xs.foldl (· + ·) 0
  | 1 => pick fun a b => a < b
  | 2 => pick fun a b => b < a
  | 3 => xs.foldl (· &&& ·) 0xFFFFFFFF
  | 4 => xs.foldl (· ||| ·) 0
  | 5 => xs.foldl (· ^^^ ·) 0
  | 6 => w32 (xs.filter (· != 0)).length
  | _ => xs.foldl (fun a y => a + w32 (popCount y)) 0
/-- The integer operations of SCAN and their identities (R219). -/
def scanOp (op : Nat) (a b : W32) : W32 :=
  match op with
  | 0 => a + b
  | 1 => a ||| b
  | 2 => a ^^^ b
  | 3 => if a.toInt ≤ b.toInt then a else b
  | _ => if b.toInt ≤ a.toInt then a else b
def scanId (op : Nat) : W32 :=
  match op with
  | 3 => 0x7FFFFFFF
  | 4 => 0x80000000
  | 6 => 0x7F800000
  | 7 => 0xFF800000
  | _ => 0
/-- The lanes of m whose value equals x. -/
def peers (g : Group) (a : Nat) (m : Mask) (x : W32) : Mask := maskOf fun k => m.getLsbD k.val && g.rdV a k == x
/-- Lanes below l. -/
def below (l : Fin 32) : Mask := bitOf 32 l.val - 1

/-! ## Meanings -/

/-- R213. -/
def execShfl (x : FmtR) (s : State) : Host.Outcome State Fault Refusal :=
  issueRegs (.shfl x) s fun h g r =>
    let m := acting h g r
    (g.wrV x.d.toNat m fun l => g.rdV x.a.toNat ((shflSource x g l).getD l)).wrP x.c.toNat m fun l =>
      match shflSource x g l with
      | some k => m.getLsbD k.val
      | none => false
/-- R214: the lane named, the lowest or the highest active lane. -/
def execBcst (x : FmtR) (s : State) : Host.Outcome State Fault Refusal :=
  issueRegs (.bcst x) s fun h g r =>
    let m := acting h g r
    let from' : Fin 32 := if x.lo.b22 then (lowLane m).getD 0 else if x.lo.b23 then (highLane m).getD 0
      else Fin.ofNat 32 x.b.toNat
    g.wrV x.d.toNat m fun _ => g.rdV x.a.toNat from'
/-- R215. -/
def execVote (x : FmtR) (s : State) : Host.Outcome State Fault Refusal :=
  issueRegs (.vote x) s fun h g r =>
    let m := acting h g r
    let from' := takingLanes h g r
    let mode := (hiSco x.h).toNat
    let p := g.maskP x.a.toNat
    if mode ≤ 3 then g.pdst h.u x.d.toNat m fun _ => voteHolds mode from' p
    else g.dst h.u x.d.toNat m fun _ => if mode = 4 then from' &&& p else w32 (popCount (from' &&& p))
/-- R216. -/
def execMatchLanes (x : FmtR) (s : State) : Host.Outcome State Fault Refusal :=
  issueRegs (.matchLanes x) s fun h g r =>
    let m := acting h g r
    let e : Fin 32 → Mask := fun l => peers g x.a.toNat m (g.rdV x.a.toNat l)
    let same := match lowLane m with | some l => e l == m | none => false
    if x.lo.b23 then (g.wrV x.d.toNat m fun _ => if same then m else 0).wrP x.c.toNat m fun _ => same
    else if x.lo.b22 then
      (g.wrV x.d.toNat m fun l => w32 (popCount (e l &&& below l))).wrP x.c.toNat m fun l => highLane (e l) == some l
    else (g.wrV x.d.toNat m e).wrP x.c.toNat m fun l => lowLane (e l) == some l
/-- R217. -/
def execRedux (x : FmtR) (s : State) : Host.Outcome State Fault Refusal :=
  issueRegs (.redux x) s fun h g r =>
    let v := reduxVal (hiSco x.h).toNat (x.h.getLsbD 3) ((lanesOf (takingLanes h g r)).map (g.rdV x.a.toNat))
    g.dst h.u x.d.toNat (acting h g r) fun _ => v
/-- R218: a node counts as its lane for FP_EXCEPT (R236). -/
def execFredux (x : FmtR) (s : State) : Host.Outcome State Fault Refusal :=
  issue (.fredux x) s fun n h g r =>
    let t := treeReduce (nodeOp (x.h.toNat % 4) x.lo)
      (treeOf (takingLanes h g r) fun l => fp32.flush x.lo.b21 (g.rdV x.a.toNat l).toNat)
    floatEff s n g (g.dst h.u x.d.toNat (acting h g r) fun _ => w32 (t.v[0].getD 0)) true t.flags
/-- R219: with EX, a lane takes the inclusive value of the highest active lane below it. -/
def execScan (x : FmtR) (s : State) : Host.Outcome State Fault Refusal :=
  issue (.scan x) s fun n h g r =>
    let m := acting h g r
    let op := (hiSco x.h).toNat
    let t := if op ≤ 4 then
        treeScan (fun a b => ⟨(scanOp op (w32 a) (w32 b)).toNat, 0⟩) (treeOf m fun l => (g.rdV x.a.toNat l).toNat)
      else treeScan (nodeOp (op - 5) x.lo) (treeOf m fun l => fp32.flush x.lo.b21 (g.rdV x.a.toNat l).toNat)
    let at' : Fin 32 → W32 := fun l => w32 (t.v[l].getD 0)
    let g' := g.wrV x.d.toNat m fun l =>
      if x.lo.b23 then (match highLane (m &&& below l) with | some k => at' k | none => scanId op) else at' l
    floatEff s n g g' true t.flags
/-- R214. -/
def execS2v (x : FmtR) (s : State) : Host.Outcome State Fault Refusal :=
  issueRegs (.s2v x) s fun h g r => g.wrV x.d.toNat (acting h g r) fun _ => g.rdS x.a.toNat
/-- R214: the lane named, or the lowest lane still in the clause. -/
def execV2s (x : FmtR) (s : State) : Host.Outcome State Fault Refusal :=
  issueRegs (.v2s x) s fun _ g r =>
    let l : Fin 32 := if x.lo.b22 then (lowLane r.lanes).getD 0 else Fin.ofNat 32 x.b.toNat
    g.wrS x.d.toNat (g.rdV x.a.toNat l)

end Sys2Proof.Machine
end

