-- ==== Sys2Proof/Machine/MemEvents.lean ====
section
/-! DEFINITION. Moves of the memory path that no instruction makes: way conversion (R76), the L2's and the buffer's own
drains (R85), cache and memory errors (R255, R403, R404, R453). -/

namespace Sys2Proof.Machine
open Sys2Proof

/-- WAY_CONVERSION_DONE: the highest way under conversion has emptied, each line written back or dropped, and is a
staging way. -/
def execWayConversionDone (d : Fin 4) (s : State) : Host.Outcome State Fault Refusal :=
  match (List.range 16).reverse.find? fun n => (s.dies[d]).blocked.getLsbD n with
  | none => .next s
  | some n =>
    let s := ((s.dies[d]).ways.filter fun w => w.way == n).foldl (fun s w => evictLine s d w.tgt w.line) s
    .next (s.modDie d fun k => { k with staging := setBit k.staging n true, blocked := setBit k.blocked n false })

/-- DIRTY_SECTOR_WRITEBACK: the n-th dirty sector of a die's L2. -/
def execDirtySectorWriteback (d : Fin 4) (n : Nat) (s : State) : Host.Outcome State Fault Refusal :=
  match (s.dies[d].l2.filter fun x => x.dirty != 0)[n]? with
  | none => .next s
  | some x => .next (writeBack s d x)

/-- WRITE_COMBINING_DRAIN: the n-th buffered sector of a core. -/
def execWriteCombiningDrain (c : CoreId) (n : Nat) (s : State) : Host.Outcome State Fault Refusal :=
  match s.cores[c].wcb[n]? with
  | none => .next s
  | some x => .next (drainSector s c x)

/-! ## Errors (R403) -/

/-- A field of a counter register raised by one; it stays at all ones. -/
def countUp (v : W64) (lo n : Nat) : W64 := if fieldN v lo n = 2 ^ n - 1 then v else v + BitVec.ofNat 64 (2 ^ lo)
/-- A sector poisoned at its home and charged to its last writer: the record waits for a release of the owner. -/
def chargeEviction (s : State) (p : PLoc) (owner : Asid) (l2 : Bool) : State :=
  let s := s.modMem fun m => { m with poison := p :: m.poison.filter (· != p) }
  let (k, s) := faultLog s owner { kind := 5, cause := 0x47, agent := 3 }
  s.modCtxRec owner fun c => if l2 then { c with deferL2 := c.deferL2 ++ [k] } else { c with deferMsc := c.deferMsc ++ [k] }

/-- An error in the n-th sector of an L2: a clean copy is dropped, a dirty one poisons its home. -/
def l2Error (s : State) (d : Fin 4) (n : Nat) (correctable : Bool) : State :=
  match s.dies[d].l2[n]? with
  | none => s
  | some x =>
    if correctable then s.modDie d fun y => { y with l2err := countUp y.l2err 0 24 }
    else
      let s := modL2 s d fun l => secDrop l x.tgt x.base
      let s := s.modDie d fun y => { y with l2err := countUp y.l2err 24 24 }
      if x.dirty = 0 then s
      else chargeEviction (s.modDie d fun y => { y with l2err := countUp y.l2err 48 16 }) ⟨x.tgt, x.base⟩ x.owner true

/-- An error in the sector at an address, found in the MSC that its frame is cached in (R77): a DRAM sector that the MSC
holds dirty is charged to its writer, a clean copy, of another node too, is dropped. -/
def mscError (s : State) (k : Fin 8) (base : Nat) (correctable : Bool) : State :=
  let count : State → Nat → Nat → State := fun s lo n => s.modHub fun h =>
    { h with mscerr := vmod h.mscerr k fun v => countUp v lo n }
  if correctable then count s 0 24
  else
    let s := (count s 24 24).modMem fun m => { m with mscRemote := m.mscRemote.filter fun x => x.base != base }
    match s.mem.mscDirty.find? fun x => x.1 == base with
    | none => s
    | some x => chargeEviction ((count s 48 16).modMem fun m => { m with mscDirty := m.mscDirty.filter fun y => y.1 != base })
        ⟨.dram, base⟩ x.2 false

/-- A media error of a persistent stack: counted; an uncorrectable one poisons the sector. -/
def mediaError (s : State) (k : Fin 4) (base : Nat) (correctable : Bool) : State :=
  let up : BitVec 16 → BitVec 16 := fun v => if v = BitVec.allOnes 16 then v else v + 1
  let s := s.modHub fun h => { h with pstacks := vmod h.pstacks k fun p =>
    if correctable then { p with ce := up p.ce } else { p with uce := up p.uce } }
  if correctable then s
  else s.modMem fun m => { m with poison := ⟨.pst, base⟩ :: m.poison.filter (· != ⟨.pst, base⟩) }

/-- ECC_ERROR: sector is a position in the L2's list, or an address in the memory, whose stack is F mod 8, or F mod 4 for the media (R80). -/
def execEccError (place : EccPlace) (sector : Nat) (correctable : Bool) (s : State) : Host.Outcome State Fault Refusal :=
  match place with
  | .l2 d => .next (l2Error s d sector correctable)
  | .msc k => .next (if sector / 4096 % 8 = k.val then mscError s k (sectorBase sector) correctable else s)
  | .media k => .next (if stackOf (sectorBase sector) = k then mediaError s k (sectorBase sector) correctable else s)

end Sys2Proof.Machine
end

