-- ==== Sys2Proof/Machine/Power.lean ====
section
/-! DEFINITION. Power managers, clocks and energy: R20, R424 to R434. Currents are counted in quarter-amperes. -/

namespace Sys2Proof.Machine
open Sys2Proof

/-! ## Slots (R424 to R430) -/

/-- Rises charged in one slot: what is left of the slope limit, of ballast, and the modelled current. -/
structure Charge where
  room : Nat
  ballast : Nat
  modelled : Nat

/-- A rise takes over ballast first; the rest counts (R429). -/
def Charge.rise (x : Charge) (n : Nat) : Charge :=
  let extra := min n x.ballast
  { room := x.room - (n - extra), ballast := x.ballast - extra, modelled := x.modelled + (n - extra) }

/-- Covered starts in order while they fit; those that wait. -/
def chargeStarts : Charge → List (Nat × Nat × Nat × Nat) → Charge × List (Nat × Nat × Nat × Nat)
  | x, [] => (x, [])
  | x, y :: r =>
    let n := 16 * y.2.2.1
    if x.room < n - min n x.ballast then (x, y :: r) else chargeStarts (x.rise n) r

/-- The rises of a slot in the order of R425. -/
def Cluster.rises (k : Cluster) : Charge × Cluster :=
  let x : Charge := { room := 4 * k.isl.toNat, ballast := k.ballast, modelled := k.modelled }
  let x := k.soft.foldl (fun x y => x.rise (2 * y.1)) x
  let w := min k.waveA k.isl.toNat
  let x := x.rise w
  let (x, rest) := chargeStarts x k.starts
  (x, { k with
    soft := (k.soft.map fun y => (y.1, y.2 - 1)).filter fun y => y.2 != 0
    waveA := k.waveA - w
    starts := rest })

/-- The modelled current falls by at most the slope limit; ballast makes up the rest (R429). -/
def Cluster.falls (k : Cluster) (x : Charge) : Cluster :=
  let total := k.ends + x.ballast
  let f := min total (4 * k.isl.toNat)
  let b := total - f
  { k with
    ends := 0, ballast := b, modelled := x.modelled - f
    balcnt := if b = 0 || k.balcnt = 0xFFFFFFFF then k.balcnt else k.balcnt + 1 }

/-- Amperes of the windows of a cluster's cores that are open or open in this slot (R426). -/
def windowAmps (s : State) (k : Fin 16) : Nat :=
  let now := (s.hub.clusters[k]).cycles
  (List.finRange 64).foldl (fun n c =>
    if clusterOf c != k then n
    else (List.range 9).foldl (fun n i =>
      if (s.cores[c].ctx.hints).any fun w => w.int == i && w.opens < now + 64 && now < w.ends then n + 4 * i else n) n) 0

/-- The forecast byte; a sum above 255 A has no stated byte. -/
def setForecast (s : State) (k : Fin 16) : State :=
  let a := (s.hub.clusters[k]).modelled / 4 + windowAmps s k
  if a < 256 then s.modCluster k fun x => { x with forecast := BitVec.ofNat 8 a }
  else let (b, s) := s.takeByte; s.modCluster k fun x => { x with forecast := b }

/-- POWER_SLOT: a slot begins at a multiple of 64 cycles. -/
def execPowerSlot (k : Fin 16) (s : State) : Host.Outcome State Fault Refusal :=
  let x := s.hub.clusters[k]
  if x.cycles % 64 ≠ 0 || x.cycles / 64 < x.slot then .next s
  else
    let x := { x with isl := x.islNext, slot := x.cycles / 64 + 1 }
    let (c, x) := x.rises
    .next (setForecast (s.modCluster k fun _ => x.falls c) k)

/-! ## Clocks (R20, R432) -/

/-- DETPIN: a context of the cluster runs in deterministic mode. -/
def detPin (s : State) (k : Fin 16) : Bool :=
  (List.finRange 64).any fun c => clusterOf c == k && s.cores[c].run.isSome && s.det c
/-- The frequency that the cluster goes to. -/
def targetFreq (s : State) (k : Fin 16) : BitVec 6 := if detPin s k then 44 else (s.hub.clusters[k]).freq

/-- FREQ_HANDOVER: the idle generator has locked to the target; the cluster pauses for one cycle and goes on with it. -/
def execFreqHandover (k : Fin 16) (s : State) : Host.Outcome State Fault Refusal :=
  let f := targetFreq s k
  if f = (s.hub.clusters[k]).fcur then .next s
  else .next (s.modCluster k fun x => { x with fcur := f, cksel := !x.cksel, cycles := x.cycles + 1 })

/-- CPWR as read (R431). -/
def cpwrWord (s : State) (k : Fin 16) : W64 :=
  let x := s.hub.clusters[k]
  let pin := detPin s k && x.fcur == 44
  let locking := targetFreq s k != x.fcur
  0#24 ++ x.fcur ++ BitVec.ofBool x.cksel ++ BitVec.ofBool locking ++ BitVec.ofBool pin ++ 0#1 ++ x.freq ++ 0#16 ++ x.islNext

/-- A write of CPWR: a FREQ equal to FCUR does nothing; ISLEW acts from the next slot on. -/
def cpwrPut (src : Nat) (k : Fin 16) (v : W64) (s : State) : State :=
  let f := fieldN v 24 6
  let i := fieldN v 0 8
  let r : RegView :=
    { off := 0x400 + 0x20 * k.val, src := src, cur := cpwrWord s k, rsv := bits 63 40 ||| bits 30 30 ||| bits 23 8, ro := bits 39 31 }
  regWrite s r v false (24 ≤ f && f ≤ 50 && 64 ≤ i) fun s => s.modCluster k fun x => { x with
    freq := if BitVec.ofNat 6 f = x.fcur then x.freq else BitVec.ofNat 6 f
    islNext := BitVec.ofNat 8 i }
/-- CPWR_WRITE. -/
def execCpwrWrite (k : Fin 16) (v : W64) (s : State) : Host.Outcome State Fault Refusal := .next (cpwrPut 0 k v s)

/-! ## Energy (R434) -/

/-- nJ added to a context. -/
def addEnergy (s : State) (x : Asid × Nat) : State :=
  s.modCtxRec x.1 fun c => let (e, f) := satAdd c.energy x.2; { c with energy := e, esat := c.esat || f }

/-- ENERGY_UPDATE: what the cluster has metered over 1,024 cycles. -/
def execEnergyUpdate (k : Fin 16) (total : Nat) (shares : List (Asid × Nat)) (system : Nat) (s : State) :
    Host.Outcome State Fault Refusal :=
  let x := s.hub.clusters[k]
  if x.cycles % 1024 ≠ 0 || x.cycles / 1024 < x.esample then .next s
  else
    let s := s.modCluster k fun x =>
      let (e, f) := satAdd x.eclu total
      { x with eclu := e, esat := x.esat || f, esample := x.cycles / 1024 + 1 }
    let s := shares.foldl addEnergy s
    let (e, f) := satAdd s.hub.esys system
    .next (s.modHub fun h => { h with esys := e, esysSat := h.esysSat || f })

/-- A write of ECLR: a context's accumulator with its UNDECL, a cluster's, or the system bucket. -/
def eclrPut (src : Nat) (v : W64) (s : State) : State :=
  let idx : BitVec 12 := v.setWidth 12
  let tgt := fieldN v 12 2
  regWrite s { off := 0x608, src := src, rsv := bits 63 14 } v false (tgt == 0 || tgt == 2 || (tgt == 1 && idx.toNat < 16)) fun s =>
    if tgt = 0 then s.modCtxRec idx fun c => { c with energy := 0, esat := false, undecl := 0 }
    else if tgt = 1 then s.modCluster (Fin.ofNat 16 idx.toNat) fun x => { x with eclu := 0, esat := false }
    else s.modHub fun h => { h with esys := 0, esysSat := false }
def execEclrContext (rsv : BitVec 50) (idx : BitVec 12) (s : State) : Host.Outcome State Fault Refusal :=
  .next (eclrPut 0 (rsv ++ 0#2 ++ idx) s)
def execEclrCluster (rsv : BitVec 50) (idx : BitVec 12) (s : State) : Host.Outcome State Fault Refusal :=
  .next (eclrPut 0 (rsv ++ 1#2 ++ idx) s)
def execEclrSystem (rsv : BitVec 50) (idx : BitVec 12) (s : State) : Host.Outcome State Fault Refusal :=
  .next (eclrPut 0 (rsv ++ 2#2 ++ idx) s)

end Sys2Proof.Machine
end

