-- ==== Sys2Proof/Machine/Scale.lean ====
section
/-! DEFINITION. Spacen (R436, R438), reduction sessions opened and closed (R439 to R442), step-level aborts (R445) and the
Ethernet ports (R444). -/

namespace Sys2Proof.Machine
open Sys2Proof

/-! ## Node and ports -/

/-- NODECFG as read. -/
def nodeWord (h : Hub) : W64 := 0#32 ++ BitVec.ofBool h.nodeEn ++ 0#17 ++ h.node
/-- A write of NODECFG: NODE stays while EN = 1. -/
def nodecfgPut (src : Nat) (v : W64) (s : State) : State :=
  let node : BitVec 14 := v.setWidth 14
  regWrite s { off := 0x0700, src := src, rsv := bits 63 32 ||| bits 30 14 } v (s.hub.nodeEn && node != s.hub.node) true
    fun s => s.modHub fun h => { h with nodeEn := v.getLsbD 31, node := node }
/-- NODECFG_WRITE. -/
def execNodecfgWrite (v : W64) (s : State) : Host.Outcome State Fault Refusal := .next (nodecfgPut 0 v s)

/-- IDLE_FLIT: a trained port sends. -/
def execIdleFlit (p : Fin 18) (s : State) : Host.Outcome State Fault Refusal :=
  if s.hub.portup.getLsbD p.val then .next (s.modHub fun h => { h with flits := vmod h.flits p (· + 1) }) else .next s
/-- SPACEN_PORT_TRAIN. -/
def execSpacenPortTrain (p : Fin 18) (up : Bool) (s : State) : Host.Outcome State Fault Refusal :=
  .next (s.modHub fun h => { h with portup := setBit h.portup p.val up })

/-! ## Lost nodes (R438) -/

/-- NODE_LOST: the switches declare it; this package learns of it by the notice. -/
def execNodeLost (node : BitVec 14) (s : State) : Host.Outcome State Fault Refusal :=
  if s.hub.declared.contains node then .next s else .next (s.modHub fun h => { h with declared := node :: h.declared })

/-- Bytes of an element lie at another node (R81). -/
def elemAtNode (e : Ent) (own node : Nat) (c : Nat → Int) : Bool :=
  isPitched (entSpace e) && (let (u, n) := elemSpan e c; (List.range n).any fun j =>
    remoteNode own e (pitch (entBase e) (u + j)) == some node)
/-- Source coordinates of element l; of a gather, in every row that it may read. -/
def Cmd.srcCoords (k : Cmd) (l : Nat) : List (Nat → Int) :=
  let (i, c) := k.elemAt l
  if k.op == .g then (List.range (entExt k.src k.tdim)).map fun r d => if d = k.tdim then ((r : Nat) : Int) else (k.so d : Int) + c d
  else (List.range (if k.op == .r then k.rep + 1 else 1)).map fun j d =>
    (if k.indexed then (k.so d : Int) else stepped k.src k.so k.sstep (i + j) d) + c d
/-- A command in flight to a node. -/
def Cmd.toNode (k : Cmd) (own node : BitVec 14) : Bool :=
  k.state == .inFlight && own != node
  && (((k.op == .put || k.op == .get) && k.node == node)
    || (List.range k.elems).any fun l =>
      (k.reads && (k.srcCoords l).any fun c => elemAtNode k.src own.toNat node.toNat c)
        || (k.hasDest l && elemAtNode k.dst own.toNat node.toNat (k.destOf l)))
/-- The notice fails what is in flight to the node. -/
def failCopies (node : BitVec 14) (s : State) : State :=
  let own := s.hub.node
  let stop : Cmd → Cmd := fun k => if k.toNode own node then { k with state := .failed 0x42 k.ldh node 0 0 } else k
  { s with cores := s.cores.map fun k => { k with journal := k.journal.map stop } }
/-- A session waits for a contribution of a node. -/
def Session.awaits (x : Session) (node : BitVec 14) : Bool :=
  x.state == 1 && x.nodes.contains node && !x.has node
/-- LOST_NODE_NOTICE. -/
def execLostNodeNotice (node : BitVec 14) (s : State) : Host.Outcome State Fault Refusal :=
  if !s.hub.declared.contains node then .next s
  else
    let s := s.modHub fun h => { h with
      loss := true, lost := node, lostAll := node :: h.lostAll.filter (· != node)
      declared := h.declared.filter (· != node) }
    .next ((List.finRange 64).foldl (fun s i =>
      if (s.hub.sessions[i]).awaits node then sessionFail s i node else s) (failCopies node s))

/-! ## Session slots (R439, R442) -/

/-- RSCTL as read. -/
def Session.ctl (x : Session) : W64 := BitVec.ofBool x.en ++ x.state ++ 0#3 ++ x.op ++ x.fmt ++ x.ncon ++ x.tmo ++ 0#24
/-- The n node identifiers at data offsets 2k of a DRAM address; none where there is no memory. -/
def nodeList (s : State) (base n : Nat) : Option (List Nat) :=
  (List.range n).foldr (fun k r =>
    let bs := (List.range 2).map fun j =>
      let pa := pitch base (2 * k + j)
      if homePoison s .dram (sectorBase pa) || !paExists 0 pa then none else some (dramByte s pa)
    match r, bs with
    | some r, [some a, some b] => some (natLE [a, b] :: r)
    | _, _ => none) (some [])
/-- Strictly increasing. -/
def rising : List Nat → Bool
  | a :: b :: r => a < b && rising (b :: r)
  | _ => true
/-- OP, FMT, NCON and TMO of an RSCTL value within their ranges. -/
def sessionRange (v : W64) : Bool :=
  let op := fieldN v 56 2
  let fmt := fieldN v 51 5
  (op == 1 && fmt == 0 || op == 2 && [1, 2, 3, 8].contains fmt) && fieldN v 37 14 != 0 && fieldN v 24 13 != 0
/-- Fields of RSCTL that the driver sets beside EN. -/
def rsctlFields : W64 := bits 57 24
/-- A write of RSCTL. -/
def sessionView (src : Nat) (x : Session) (i : Fin 64) : RegView :=
  { off := 0x0800 + 0x20 * i.val, src := src, cur := x.ctl, rsv := bits 60 58 ||| bits 23 0, ro := bits 62 61 }
/-- RSCTL's fields stored. -/
def Session.store (x : Session) (v : W64) : Session :=
  { x with op := v.extractLsb' 56 2, fmt := v.extractLsb' 51 5, ncon := v.extractLsb' 37 14, tmo := v.extractLsb' 24 13 }

/-- EN = 1 written: the list is read, contributions that wait enter. -/
def sessionOpen (src : Nat) (i : Fin 64) (v : W64) (s : State) : State :=
  let x := s.hub.sessions[i]
  let v := setBit v 63 true
  let nodes := nodeList s x.rslist.toNat (fieldN v 37 14)
  let ok := sessionRange v && nodes.any (fun l => rising l && l.all (· < 16384)) && (x.bi.toNat ≤ 95 || x.bi == 127)
  fullWrite s (sessionView src x i) v (x.en && (v ^^^ x.ctl) &&& rsctlFields != 0) (x.en || ok) fun s =>
    if x.en then s
    else
      let s := s.modSession i fun x => { x.store v with
        en := true, state := 1, nodes := (nodes.getD []).map (BitVec.ofNat 14), cons := [], written := [] }
      let mine := s.hub.early.filter fun y => y.1 == i
      let s := s.modHub fun h => { h with early := h.early.filter fun y => y.1 != i }
      acceptPuts (mine.foldl (fun s y => contribute s i y.2) s) i
/-- SESSION_OPEN. -/
def execSessionOpen (i : Fin 64) (v : W64) (s : State) : Host.Outcome State Fault Refusal := .next (sessionOpen 0 i v s)

/-- EN = 0 written: an open session fails. -/
def sessionClose (src : Nat) (i : Fin 64) (v : W64) (s : State) : State :=
  let x := s.hub.sessions[i]
  let v := setBit v 63 false
  let same := (v ^^^ x.ctl) &&& rsctlFields == 0
  fullWrite s (sessionView src x i) v (x.en && !same) (same || sessionRange v) fun s =>
    if x.en then sessionFail s i s.hub.node else s.modSession i fun x => x.store v
/-- SESSION_CLOSE. -/
def execSessionClose (i : Fin 64) (v : W64) (s : State) : Host.Outcome State Fault Refusal := .next (sessionClose 0 i v s)

/-- EARLY_CONTRIBUTION_TIMEOUT: the n-th contribution that the switches hold. -/
def execEarlyContributionTimeout (n : Nat) (s : State) : Host.Outcome State Fault Refusal :=
  match s.hub.early[n]? with
  | none => .next s
  | some (i, c) =>
    let s := s.modHub fun h => { h with early := delAt n h.early }
    .next (if c.node = s.hub.node then failPuts s i else s)

/-! ## Aborts (R445) -/

/-- Clean copies of remote frames dropped in the L2s and the MSC. -/
def dropRemoteClean (s : State) : State :=
  let keep : Sector → Bool := fun x => !(x.tgt == .fabric && x.dirty == 0)
  let s := { s with dies := s.dies.map fun (d : Die) => { d with l2 := d.l2.filter keep } }
  s.modMem fun m => { m with mscRemote := [] }
/-- What ABORT does to a context (R445): its commands, its capture, its sessions, the clean copies of remote frames. -/
def abortHold (asid : Asid) (s : State) : State :=
  let s := s.modCtxRec asid fun c => { c with hold := true }
  let seqs := (s.hub.cmds.filter fun c => c.asid == asid && c.state == 2).map (·.seq)
  let s := seqs.foldl (fun s q => endCommand s q 5 0x14 0 0xFFFFFFFF) s
  let s := killGrids s ((s.hub.grids.filter fun g => g.asid == asid && !g.done).map (·.id))
  let s := s.modHub fun h => { h with capture := h.capture.filter fun c => c.asid != asid || c.complete }
  let s := (List.finRange 64).foldl (fun s i =>
    let x := s.hub.sessions[i]
    if x.state == 1 && x.asid == asid then sessionFail s i s.hub.node else s) s
  dropRemoteClean s
/-- A write of ABORT. -/
def abortPut (src : Nat) (v : W64) (s : State) : State :=
  let asid : Asid := v.setWidth 12
  fullWrite s { off := 0x0718, src := src, rsv := bits 62 12 } v false true fun s =>
    if v.getLsbD 63 then s.modCtxRec asid fun c => { c with hold := false } else abortHold asid s
/-- ABORT_HOLD. -/
def execAbortHold (rsv : BitVec 51) (asid : Asid) (s : State) : Host.Outcome State Fault Refusal :=
  .next (abortPut 0 (0#1 ++ rsv ++ asid) s)
/-- ABORT_RELEASE. -/
def execAbortRelease (rsv : BitVec 51) (asid : Asid) (s : State) : Host.Outcome State Fault Refusal :=
  .next (abortPut 0 (1#1 ++ rsv ++ asid) s)

/-! ## Ethernet (R444) -/

/-- The places of a registered region's bytes, where its key slot and its pages allow it. -/
def regionPlaces (s : State) (asid : Asid) (key : BitVec 10) (va n : Nat) (need : Need) : Option (List PLoc) :=
  let slot := s.hub.kslots[key.toFin]
  if key != 0 && !(slot.state == 1 && slot.asid == asid) then none else vaPlaces s asid false need (dataVas va n)
def slotKey (s : State) (key : BitVec 10) : KeyRef := ⟨key, (s.hub.kslots[key.toFin]).gen⟩
/-- A message sent to a peer. -/
def ethSend (s : State) (peer : Nat) (bs : List Byte) (imm : Option W32) : State :=
  s.modHub fun h => { h with eth := { h.eth with sent := h.eth.sent ++ [(peer, bs, imm)] } }
/-- A posted operation that carries the bytes of a local region. -/
def ethCarry (s : State) (o : RoceOp) (imm : Option W32) : Host.Outcome State Fault Refusal :=
  match regionPlaces s o.asid o.key o.va o.len .read with
  | none => .next s
  | some ps =>
    let ((bs, bad), s) := homeBytes s (slotKey s o.key) ps
    .next (if bad then s else ethSend s o.peer bs imm)
def execRoceSend (o : RoceOp) (s : State) : Host.Outcome State Fault Refusal := ethCarry s o none
def execRdmaWrite (o : RoceOp) (s : State) : Host.Outcome State Fault Refusal := ethCarry s o none
def execRdmaWriteImm (o : RoceOp) (s : State) : Host.Outcome State Fault Refusal := ethCarry s o (some o.imm)
/-- RDMA_READ: the request goes out; the answer comes as a packet. -/
def execRdmaRead (o : RoceOp) (s : State) : Host.Outcome State Fault Refusal :=
  match regionPlaces s o.asid o.key o.va o.len .write with
  | none => .next s
  | some _ => .next (ethSend s o.peer [] none)

/-- Bytes of a packet written to a region. -/
def ethWrite (s : State) (asid : Asid) (key : BitVec 10) (va : Nat) (bs : List Byte) : State :=
  match regionPlaces s asid key va bs.length .write with
  | none => s
  | some ps => writeBytes (remoteStore asid (slotKey s key)) s ps bs
/-- An ECN mark is answered with a congestion notification. -/
def ethMark (s : State) (ecn : Bool) : State :=
  if ecn then s.modHub fun h => { h with eth := { h.eth with cnps := h.eth.cnps + 1 } } else s
/-- ROCE_RECEIVE. -/
def execRoceReceive (port : Fin 4) (p : RocePacket) (s : State) : Host.Outcome State Fault Refusal :=
  let pause : Fin 8 → Bool → State := fun k b => s.modHub fun h =>
    { h with eth := { h.eth with paused := vmod h.eth.paused port fun m => setBit m k.val b } }
  match p with
  | .write asid key va bs ecn => .next (ethWrite (ethMark s ecn) asid key va bs)
  | .readResp asid key va bs ecn => .next (ethWrite (ethMark s ecn) asid key va bs)
  | .readReq asid key va len ecn =>
    let s := ethMark s ecn
    match regionPlaces s asid key va len .read with
    | none => .next s
    | some ps =>
      let ((bs, bad), s) := homeBytes s (slotKey s key) ps
      .next (if bad then s else ethSend s port.val bs none)
  | .pause k => .next (pause k true)
  | .resume k => .next (pause k false)

end Sys2Proof.Machine
end

