-- ==== Sys2Proof/Machine/Registers.lean ====
section
/-! DEFINITION. BAR0 as a whole: what its registers read as, staging configuration (R384), key-slot queries (R421), and
writes of registers with no behaviour of their own (R6, R7, R55, R372, R382, R392, R404 to R408, R417, R423, R431, R436
to R446, R453). -/

namespace Sys2Proof.Machine
open Sys2Proof

/-! ## Words of registers that firmware writes -/

/-- QSTAT; JFULL: acceptance waits for journal space with a record pending (R382). -/
def qstatWord (s : State) (q : Fin 256) : W64 :=
  let x := s.hub.queues[q]
  let full := x.en && x.pending != 0 && journalSpent s
  x.head ++ 0#24 ++ BitVec.ofBool full ++ BitVec.ofBool x.dis ++ 0#2 ++ x.qerr
/-- JINFO. -/
def jinfoWord (b : Boot) : W64 := b.lj ++ 0#19 ++ b.jbase
/-- Status of a persistent stack; QOCC in KiB, a part of one counted whole. -/
def pstackWord (s : State) (k : Fin 4) : W64 :=
  let p := s.hub.pstacks[k]
  0#16 ++ p.uce ++ p.ce ++ BitVec.ofNat 14 (((s.mem.queues[k]).length * 48 + 1023) / 1024) ++ p.state
/-- PDCFG. -/
def pdcfgWord (h : Hub) : W64 := 0#31 ++ BitVec.ofBool h.pdconf ++ h.holdup ++ 35#16
/-- DEADSTAT. -/
def deadWord (h : Hub) : W64 := 0#61 ++ BitVec.ofBool h.deadRef ++ BitVec.ofBool h.deadRes ++ BitVec.ofBool h.deadOp.isSome
/-- SNAPSTAT. -/
def snapWord (h : Hub) : W64 :=
  let cap : BitVec 2 := match h.capture with | none => 0 | some c => if c.complete then 2 else 1
  cap ++ 0#30 ++ h.prot.extractLsb' 0 16 ++ h.comp.extractLsb' 0 16
/-- MINSTAT. -/
def minWord (b : Boot) : W32 := 0#16 ++ b.reason ++ BitVec.ofNat 4 b.startcnt ++ b.stage ++ BitVec.ofBool b.minimal
/-- CPSTAT. -/
def cpstatWord (x : Cluster) : W64 := 0#31 ++ BitVec.ofBool x.esat ++ x.balcnt
/-- ESATQ. -/
def esatqWord (s : State) : W64 := 0#51 ++ BitVec.ofBool (s.ctxRec s.hub.esatq).esat ++ s.hub.esatq
/-- DOMSTAT. -/
def domWord (h : Hub) : W64 := 0#14 ++ h.portup ++ BitVec.ofBool h.loss ++ 0#17 ++ h.lost
/-- FRCFG. -/
def frcfgWord (h : Hub) : W64 := 0#48 ++ BitVec.ofBool h.fren ++ BitVec.ofBool h.frloc ++ h.frlsize ++ 0#4 ++ h.frvec
/-- A staging register. -/
def stagingWord (d : Die) : W64 := 0#24 ++ d.stgbud ++ d.sways ++ 0#1 ++ d.stgmin
/-- The answer to a KSQRY (R421): slot 0 always holds the system key. -/
def ksqryWord (s : State) (k : BitVec 10) : W32 :=
  let x := s.hub.kslots[k.toFin]
  x.asid ++ 0#2 ++ (if k = 0 then 1#2 else x.state) ++ 0#6 ++ k

/-! ## The map of BAR0 -/

/-- A register of BAR0, by what a write of it does. -/
inductive Reg where
  /-- Read-only, with its word and its reserved bits. -/
  | ro (cur rsv : W64)
  | qbase (q : Fin 256) | qtaila (q : Fin 256) | qcfg (q : Fin 256)
  | jlow | cancel | ctxbase | tlbinv | frbase | frcfg | frtail | frresp | dbgres | deadop | ksqry
  | eclr | esatq | nodecfg | jobtab | domstat | abort | restctl | restcfg
  | staging (d : Fin 4) | cpwr (k : Fin 16) | rsctl (i : Fin 64)
  | rslist (i : Fin 64) | rssig (i : Fin 64)
  | schedcfg (c : CoreId)

/-- Member i of an array of registers of a size, when an offset lies in it: its index and the offset within it. -/
def arrayAt (off base n size : Nat) : Option (Nat × Nat) :=
  if base ≤ off && off < base + n * size then some ((off - base) / size, (off - base) % size) else none

/-- The registers up to 0x07FF that stand alone. -/
def soloReg (s : State) (off : Nat) : Option Reg :=
  let h := s.hub
  match off with
  | 0x0000 => some (.ro h.jseq 0)
  | 0x0010 => some (.ro (jinfoWord h.boot) (bits 58 40))
  | 0x0020 => some (.ro (0#62 ++ h.cstat) (bits 63 2))
  | 0x0210 => some (.ro (0#63 ++ BitVec.ofBool h.tlbBusy.isSome) (bits 63 1))
  | 0x0230 => some (.ro (h.frhead.setWidth 64) 0)
  | 0x0340 => some (.ro (pdcfgWord h) (bits 63 33))
  | 0x0358 => some (.ro (deadWord h) (bits 63 3))
  | 0x0360 => some (.ro (snapWord h) (bits 61 32))
  | 0x0380 => some (.ro ((minWord h.boot).setWidth 64) (bits 31 16))
  | 0x0600 => some (.ro h.esys 0)
  | 0x0008 => some .jlow
  | 0x0018 => some .cancel
  | 0x0200 => some .ctxbase
  | 0x0208 => some .tlbinv
  | 0x0240 => some .frresp
  | 0x0248 => some .dbgres
  | 0x0350 => some .deadop
  | 0x0370 => some .ksqry
  | 0x0608 => some .eclr
  | 0x0700 => some .nodecfg
  | 0x0718 => some .abort
  | 0x0220 => some .frbase
  | 0x0228 => some .frcfg
  | 0x0238 => some .frtail
  | 0x0610 => some .esatq
  | 0x0708 => some .jobtab
  | 0x0710 => some .domstat
  | 0x0720 => some .restctl
  | 0x0728 => some .restcfg
  | _ => none

/-- The register at an offset. -/
def regAt (s : State) (off : Nat) : Option Reg :=
  match soloReg s off with
  | some r => some r
  | none =>
    match arrayAt off 0x0100 4 0x20, arrayAt off 0x0300 4 8, arrayAt off 0x0400 16 0x20, arrayAt off 0x0800 64 0x20,
      arrayAt off 0x1000 256 0x20 with
    | some (d, 0), _, _, _, _ => some (.staging (Fin.ofNat 4 d))
    | _, some (k, 0), _, _, _ => some (.ro (pstackWord s (Fin.ofNat 4 k)) (bits 63 48))
    | _, _, some (k, 0), _, _ => some (.cpwr (Fin.ofNat 16 k))
    | _, _, some (k, 8), _, _ => some (.ro (s.hub.clusters[Fin.ofNat 16 k]).eclu 0)
    | _, _, some (k, 0x10), _, _ => some (.ro (cpstatWord s.hub.clusters[Fin.ofNat 16 k]) (bits 63 33))
    | _, _, _, some (i, 0), _ => some (.rsctl (Fin.ofNat 64 i))
    | _, _, _, some (i, 8), _ => some (.rslist (Fin.ofNat 64 i))
    | _, _, _, some (i, 0x10), _ => some (.rssig (Fin.ofNat 64 i))
    | _, _, _, _, some (q, 0) => some (.qbase (Fin.ofNat 256 q))
    | _, _, _, _, some (q, 8) => some (.qtaila (Fin.ofNat 256 q))
    | _, _, _, _, some (q, 0x10) => some (.qcfg (Fin.ofNat 256 q))
    | _, _, _, _, some (q, 0x18) => some (.ro (qstatWord s (Fin.ofNat 256 q)) (bits 31 8 ||| bits 5 4))
    | _, _, _, _, _ =>
      match arrayAt off 0x4000 64 0x40, arrayAt off 0x5000 4 0x10, arrayAt off 0x5040 8 0x10, arrayAt off 0x8000 4096 8 with
      | some (c, 0), _, _, _ => some (.schedcfg (Fin.ofNat 64 c))
      | some (c, 8), _, _, _ => let k := s.cores[Fin.ofNat 64 c]; some (.ro (k.poisonc ++ k.hangs) 0)
      | _, some (d, 0), _, _ => some (.ro (s.dies[Fin.ofNat 4 d]).l2err 0)
      | _, _, some (k, 0), _ => some (.ro s.hub.mscerr[Fin.ofNat 8 k] 0)
      | _, _, _, some (a, 0) => some (.ro (s.ctxRec (BitVec.ofNat 12 a)).energy 0)
      | _, _, _, _ => none

/-- A register of 32 bits. -/
def narrowReg (off : Nat) : Bool := off == 0x0230 || off == 0x0238 || off == 0x0380

/-! ## Registers with a row of their own -/

/-- Ways from n up to 15 asked for staging: those not yet given are taken from demand use (R76). -/
def Die.claim (k : Die) (n : Nat) : Die :=
  { k with blocked := (List.range 16).foldl (fun m w =>
      if 16 - n ≤ w && !k.staging.getLsbD w then setBit m w true else m) k.blocked }
/-- A write of a staging register: a rise of SWAYS starts conversions from way 15 down, a fall gives up those not yet made and
returns ways without staged lines to demand use (R76, R384). -/
def stagingPut (src : Nat) (d : Fin 4) (v : W64) (s : State) : State :=
  let n := fieldN v 12 4
  let view : RegView := { off := 0x0100 + 0x20 * d.val, src := src, cur := stagingWord s.dies[d], rsv := bits 63 40 ||| bits 11 11 }
  regWrite s view v false (n ≤ 8 && 16 ≤ fieldN v 0 11 && fieldN v 0 11 ≤ 512) fun s => s.modDie d fun x =>
    (Die.claim { x with stgbud := v.extractLsb' 16 24, sways := v.extractLsb' 12 4, stgmin := v.extractLsb' 0 11 } n).relax
/-- STAGING_CONFIG_WRITE. -/
def execStagingConfigWrite (d : Fin 4) (v : W64) (s : State) : Host.Outcome State Fault Refusal := .next (stagingPut 0 d v s)

/-- A write of KSQRY: the slot number; the answer stands in the register. -/
def ksqryPut (v : W64) (s : State) : State := s.modHub fun h => { h with ksqry := ksqryWord s (v.setWidth 10) }
/-- KSQRY. -/
def execKsqry (v : W64) (s : State) : Host.Outcome State Fault Refusal := .next (ksqryPut v s)

/-! ## Writes (R6, R7) -/

/-- The write of one register. -/
def writeReg (s : State) (off src : Nat) (v : W64) : Reg → State
  | .ro cur rsv => regWrite s { off := off, src := src, cur := cur, rsv := rsv, ro := ~~~rsv } v false true id
  | .qcfg q => qcfgPut src q v s
  | .jlow => jlowPut src v s
  | .cancel => cancelPut v s
  | .ctxbase => ctxbasePut src v s
  | .tlbinv => tlbInvalidate src v s
  | .frresp => frrespPut src v s
  | .dbgres => dbgresPut src v s
  | .deadop => deadPut src v s
  | .ksqry => ksqryPut v s
  | .eclr => eclrPut src v s
  | .nodecfg => nodecfgPut src v s
  | .abort => abortPut src v s
  | .staging d => stagingPut src d v s
  | .cpwr k => cpwrPut src k v s
  | .rsctl i => if v.getLsbD 63 then sessionOpen src i v s else sessionClose src i v s
  | .qbase q =>
    let x := s.hub.queues[q]
    regWrite s { off := off, src := src, rsv := bits 7 0 } v (x.en && v != x.qbase) true fun s =>
      s.modQueue q fun x => { x with qbase := v }
  | .qtaila q =>
    let x := s.hub.queues[q]
    regWrite s { off := off, src := src, rsv := bits 6 0 } v (x.en && v != x.qtaila) true fun s =>
      s.modQueue q fun x => { x with qtaila := v }
  | .frbase => regWrite s { off := off, src := src, rsv := bits 63 57 } v false true fun s =>
      s.modHub fun h => { h with frbase := v.setWidth 57 }
  | .frcfg => regWrite s { off := off, src := src, rsv := bits 63 16 ||| bits 9 6 } v false (6 ≤ fieldN v 10 4) fun s =>
      logFaults (s.modHub fun h => { h with
        fren := v.getLsbD 15, frloc := v.getLsbD 14, frlsize := v.extractLsb' 10 4, frvec := v.extractLsb' 0 6 })
  | .frtail => logFaults (s.modHub fun h => { h with frtail := v.setWidth 32 })
  | .esatq =>
    regWrite s { off := off, src := src, cur := esatqWord s, rsv := bits 63 13, ro := bits 12 12 } v false true fun s =>
      s.modHub fun h => { h with esatq := v.setWidth 12 }
  | .jobtab => regWrite s { off := off, src := src, rsv := bits 63 57 } v false true fun s =>
      s.modHub fun h => { h with jobtab := v.setWidth 57 }
  | .domstat =>
    regWrite s { off := off, src := src, cur := domWord s.hub, rsv := bits 63 50 ||| bits 30 14, ro := bits 49 32 ||| bits 13 0 }
      v false true fun s => if v.getLsbD 31 then s.modHub fun h => { h with loss := false, lostAll := [] } else s
  | .restctl => restPut src v s
  | .restcfg => regWrite s { off := off, src := src, rsv := bits 63 57 } v false true fun s =>
      s.modHub fun h => { h with restcfg := v.setWidth 57 }
  | .rslist i =>
    let x := s.hub.sessions[i]
    regWrite s { off := off, src := src, rsv := bits 63 57 } v (x.en && v.setWidth 57 != x.rslist) true fun s =>
      s.modSession i fun x => { x with rslist := v.setWidth 57 }
  | .rssig i =>
    let x := s.hub.sessions[i]
    regWrite s { off := off, src := src, rsv := bits 63 51 } v (x.en && v.setWidth 51 != x.rssig)
      (fieldN v 44 7 ≤ 95 || fieldN v 44 7 == 127) fun s => s.modSession i fun x => { x with rssig := v.setWidth 51 }
  | .schedcfg c =>
    let bad := if fieldN v 30 2 = 3 then bits 31 30 else 0
    regWrite s { off := off, src := src, rsv := bits 63 32 ||| bits 29 29 ||| bits 14 0 ||| bad } v false true fun s =>
      s.modCore c fun k => { k with schedcfg := v.setWidth 32 }

/-- A write at an offset of BAR0: no register, a wrong size or a wrong alignment is logged with cause 7 (R7). An 8-byte write
at a 32-bit register writes its low half alone (log entry 55). -/
def bar0Write (s : State) (off src size : Nat) (v : W64) : State :=
  match regAt s off with
  | none => logRefusal s off 7 src v.toNat
  | some r =>
    if size = 8 || (size = 4 && narrowReg off) then writeReg s off src (if narrowReg off then v &&& bits 31 0 else v) r
    else logRefusal s off 7 src v.toNat

/-- REGISTER_WRITE. No register of BAR2 is stated (log entry 98): a write there changes nothing. -/
def execRegisterWrite (place : RegPlace) (v : W64) (size : Nat) (src : RegSource) (s : State) :
    Host.Outcome State Fault Refusal :=
  .next (match place with
    | .bar0 off => bar0Write s off (srcOf src) size v
    | .bar2 off => logRefusal s off 7 (srcOf src) v.toNat)

/-! ## Reads (R6, R7, R435) -/

/-- What a register reads as: its value, its write-only fields zero. DBGRES, whose access the spec does not state, reads as
zero (log entry 55). -/
def Reg.word (s : State) : Reg → W64
  | .ro cur _ => cur
  | .qbase q => (s.hub.queues[q]).qbase
  | .qtaila q => (s.hub.queues[q]).qtaila
  | .qcfg q => (s.hub.queues[q]).cfg
  | .jlow => s.hub.jlow
  | .ctxbase => s.hub.ctxbase.setWidth 64
  | .frbase => s.hub.frbase.setWidth 64
  | .frcfg => frcfgWord s.hub
  | .frtail => s.hub.frtail.setWidth 64
  | .ksqry => s.hub.ksqry.setWidth 64
  | .esatq => esatqWord s
  | .nodecfg => nodeWord s.hub
  | .jobtab => s.hub.jobtab.setWidth 64
  | .domstat => domWord s.hub
  | .restctl => restWord s.hub
  | .restcfg => s.hub.restcfg.setWidth 64
  | .staging d => stagingWord s.dies[d]
  | .cpwr k => cpwrWord s k
  | .rsctl i => (s.hub.sessions[i]).ctl
  | .rslist i => (s.hub.sessions[i]).rslist.setWidth 64
  | .rssig i => (s.hub.sessions[i]).rssig.setWidth 64
  | .schedcfg c => (s.cores[c]).schedcfg.setWidth 64
  | .cancel | .tlbinv | .frresp | .dbgres | .deadop | .eclr | .abort => 0

/-- An energy accumulator: a 32-bit read of its low half latches the high half (R435). -/
def latches (off : Nat) : Bool :=
  off == 0x0600 || (match arrayAt off 0x0400 16 0x20 with | some (_, 8) => true | _ => false)
    || (match arrayAt off 0x8000 4096 8 with | some (_, 0) => true | _ => false)
/-- A read of 4 or 8 bytes of BAR0: the value, and what is latched by it. An offset without a register, or one that is not
aligned to the size, reads as zero. -/
def bar0Read (s : State) (off size : Nat) : W64 × State :=
  let base := off / 8 * 8
  let v := ((regAt s base).map fun r => r.word s).getD 0
  if size = 8 && off = base then (v, s)
  else if size = 4 && off = base then
    (v &&& bits 31 0, if latches base then s.modHub fun h => { h with
      barLatch := (base, v.extractLsb' 32 32) :: h.barLatch.filter (·.1 != base) } else s)
  else if size = 4 && off = base + 4 && !narrowReg base then
    match s.hub.barLatch.find? (·.1 == base) with
    | some x => (x.2.setWidth 64, s.modHub fun h => { h with barLatch := h.barLatch.filter (·.1 != base) })
    | none => ((v >>> 32), s)
  else (0, s)
/-- A read by the driver: what it returned stands in the hub. In minimal mode BAR2 reads as all ones (R423). -/
def barRead (s : State) (place : RegPlace) (size : Nat) : State :=
  let (v, s) := match place with
    | .bar0 off => bar0Read s off size
    | .bar2 _ => (if s.hub.boot.minimal then BitVec.allOnes 64 else 0, s)
  s.modHub fun h => { h with readout := v }

end Sys2Proof.Machine
end

