-- ==== Sys2Proof/Machine/Mgmt.lean ====
section
/-! DEFINITION. The management interface: Olbel commands (R435, R451, R452, R455, R457), PLDM (R451), SPDM (R420), key
slots and IDE keys (R421, R420). An answer stands in Mgmt.resp: a completion code, then data. -/

namespace Sys2Proof.Machine
open Sys2Proof

/-! ## Olbel commands -/

/-- SRC of a requester (R455). -/
def Requester.src : Requester → Nat
  | .mailbox => 1
  | .mctp _ => 2
/-- The answer to the latest request. -/
def answer (s : State) (bs : List Byte) : State := s.modMgmt fun m => { m with resp := bs }
/-- Completion codes: PLDM's, and 0x80 for poisoned media (R452). -/
def okCode : Byte := 0x00
def invalidData : Byte := 0x02
def notReady : Byte := 0x04
def poisonedMedia : Byte := 0x80
/-- A command refused: the code, and a record of cause 6. -/
def refuseCmd (s : State) (src : Requester) (cmd : Nat) (code : Byte) : State :=
  answer (logRefusal s cmd 6 (Requester.src src) 0) [code]
/-- A command that does not run in minimal mode. -/
def fullOnly (s : State) (src : Requester) (cmd : Nat) (f : State) : State :=
  if s.hub.boot.minimal then refuseCmd s src cmd notReady else f

/-- A counter that RDCTR names. -/
def mgmtCounter (s : State) (sel : BitVec 8) (idx : BitVec 16) : Option W64 :=
  match sel.toNat with
  | 0 => if idx.toNat < 4096 then some (s.ctxRec (idx.setWidth 12)).energy else none
  | 1 => if idx.toNat < 4096 then some (s.ctxRec (idx.setWidth 12)).undecl else none
  | 2 => if idx.toNat < 16 then some (s.hub.clusters[Fin.ofNat 16 idx.toNat]).eclu else none
  | 3 => some s.hub.esys
  | _ => none
/-- RDCTR: a read of the low half latches the high half for its requester; the next read of the high half takes it. -/
def execRdctr (src : Requester) (sel : BitVec 8) (idx : BitVec 16) (w : BitVec 8) (s : State) :
    Host.Outcome State Fault Refusal :=
  let idx := if sel = 3 then 0 else idx    -- ESYS has no index
  .next (fullOnly s src 0x01 (match mgmtCounter s sel idx with
    | none => refuseCmd s src 0x01 invalidData
    | some v =>
      let mine : Requester × BitVec 8 × BitVec 16 × W32 → Bool := fun l => l.1 == src && l.2.1 == sel && l.2.2.1 == idx
      let rest := s.hub.mgmt.latches.filter fun l => !mine l
      match w.toNat with
      | 0 => answer s (okCode :: bytesLE 8 v.toNat)
      | 1 => answer (s.modMgmt fun m => { m with latches := (src, sel, idx, v.extractLsb' 32 32) :: rest })
          (okCode :: bytesLE 4 v.toNat)
      | 2 =>
        let h := match s.hub.mgmt.latches.find? mine with | some l => l.2.2.2 | none => v.extractLsb' 32 32
        answer (s.modMgmt fun m => { m with latches := rest }) (okCode :: bytesLE 4 h.toNat)
      | _ => refuseCmd s src 0x01 invalidData))

/-- 48 bytes of one sector under the system key; none when it is poisoned. -/
def sectorRead (s : State) (t : MTgt) (pa : Nat) : Option (List Byte) :=
  let (d, bad) := homeSector s t (sectorBase pa) {}
  if bad then none else some d.toList
/-- RDJRNL. -/
def execRdjrnl (src : Requester) (seq : W64) (count : Nat) (s : State) : Host.Outcome State Fault Refusal :=
  let h := s.hub
  let recs := (List.range count).map fun i =>
    sectorRead s .pst (densePa (h.boot.jbase.toNat + 48 * ((seq.toNat + i) % 2 ^ h.boot.lj.toNat)))
  .next (fullOnly s src 0x02 (
    if count < 1 || 16 < count || seq.toNat < h.jlow.toNat || h.jseq.toNat < seq.toNat + count then
      refuseCmd s src 0x02 invalidData
    else if recs.all Option.isSome then answer s (okCode :: recs.flatMap fun r => r.getD [])
    else answer s [poisonedMedia]))
/-- RDFLOG. -/
def execRdflog (src : Requester) (asid : BitVec 16) (k : W32) (s : State) : Host.Outcome State Fault Refusal :=
  let d := (s.ctxRec (asid.setWidth 12)).desc
  .next (fullOnly s src 0x03 (
    if 4096 ≤ asid.toNat then refuseCmd s src 0x03 invalidData
    else match sectorRead s .dram (pitch (fieldN d 64 57) (48 * (k.toNat % 2 ^ (6 + fieldN d 121 4)))) with
      | some bs => answer s (okCode :: bs)
      | none => answer s [poisonedMedia]))
/-- RDERR: the records that still stand. -/
def execRderr (src : Requester) (k : W32) (s : State) : Host.Outcome State Fault Refusal :=
  let m := s.hub.mgmt
  if m.errNo ≤ k.toNat || k.toNat + 256 < m.errNo then .next (refuseCmd s src 0x04 invalidData)
  else .next (match m.errs[m.errNo - 1 - k.toNat]? with
    | some r => answer s (okCode :: bytesLE 16 r.toNat)
    | none => refuseCmd s src 0x04 invalidData)
/-- RDSTAT: MINSTAT, SNAPSTAT, DOMSTAT and PDCFG. -/
def execRdstat (_src : Requester) (s : State) : Host.Outcome State Fault Refusal :=
  let h := s.hub
  .next (answer s (okCode :: (bytesLE 4 (minWord h.boot).toNat ++ bytesLE 8 (snapWord h).toNat
    ++ bytesLE 8 (domWord h).toNat ++ bytesLE 8 (pdcfgWord h).toNat)))
/-- CLRSTART: no failed start is counted any more (R456). -/
def execClrstart (_src : Requester) (s : State) : Host.Outcome State Fault Refusal :=
  .next (answer (s.modBoot fun b => { b with startcnt := 0, reason := 0, stage := 0 }) [okCode])

/-! ## PLDM -/

/-- An answer whose contents the spec does not give; now: readings change from one request to the next. -/
def pldm (s : State) (type : Nat) (now : Bool) (req : List Byte) : Host.Outcome State Fault Refusal :=
  if s.hub.boot.minimal then .next (answer s [])
  else .next (answer { s with fresh := s.fresh + 1 } (Config.pldmAnswer (type + if now then 256 * (s.fresh + 1) else 0) req))
def execPldmBase (req : List Byte) (s : State) : Host.Outcome State Fault Refusal := pldm s 0 false req
def execPldmMonitoring (req : List Byte) (s : State) : Host.Outcome State Fault Refusal := pldm s 2 true req
def execPldmFruData (req : List Byte) (s : State) : Host.Outcome State Fault Refusal := pldm s 4 false req

/-- Slot A holds the highest version that verifies. -/
def slotABest (b : Boot) : Bool := !b.badA && (b.badB || b.verB ≤ b.verA)
/-- PLDM_FIRMWARE_UPDATE: into the other slot; an interrupted transfer or an image that does not verify leaves that slot
failing stage 2. -/
def execPldmFirmwareUpdate (image : List Byte) (version : Nat) (sigs : Signed) (interrupted : Bool) (s : State) :
    Host.Outcome State Fault Refusal :=
  let bad := interrupted || !signedOk sigs
  .next (answer (s.modBoot fun b =>
    if slotABest b then { b with verB := version, badB := bad, imgB := image }
    else { b with verA := version, badA := bad, imgA := image }) [okCode])

/-! ## SPDM (R420) -/

/-- A request enters the transcript, and is answered. -/
def spdm (s : State) (req : List Nat) (bs : List Byte) : Host.Outcome State Fault Refusal :=
  .next (answer (s.modMgmt fun m => { m with transcript := req ++ m.transcript }) bs)
/-- The image whose alias keys end the certificate chains (R419); in minimal mode they end at the DeviceID keys (R457). -/
def chainEnd (b : Boot) : Option (List Byte) := if b.minimal then none else some b.fw
/-- The chain of a slot. -/
def chain (b : Boot) (slot : Nat) : List Byte := Config.certificate slot (chainEnd b)

/-- A request with a field out of range, or refused: ERROR_INVALID_DATA, and a record of cause 6 (R451, R455). -/
def spdmBad (s : State) (req : List Nat) : Host.Outcome State Fault Refusal :=
  spdm (logRefusal s (req.headD 0) 6 2 0) req [invalidData]

/-- GET_VERSION: a new connection, SPDM 1.3. -/
def execGetVersion (s : State) : Host.Outcome State Fault Refusal :=
  spdm (s.modMgmt fun m => { m with transcript := [] }) [0x84] [okCode, 0x13]
/-- GET_CAPABILITIES: certificates, challenge, measurements with signature, key exchange. -/
def execGetCapabilities (s : State) : Host.Outcome State Fault Refusal :=
  let (b, s) := s.takeWord
  spdm s [0xE1] (okCode :: bytesLE 4 b.toNat)
/-- Algorithms of the device: 1 Ed25519, 2 SHA-384, 3 secp384r1, 4 AES-256-GCM. -/
def execNegotiateAlgorithms (offered : List Nat) (s : State) : Host.Outcome State Fault Refusal :=
  if [1, 2, 3, 4].all offered.contains then spdm s (0xE3 :: offered) [okCode, 1, 2, 3, 4]
  else spdmBad s (0xE3 :: offered)
/-- GET_DIGESTS: of both chains. -/
def execGetDigests (s : State) : Host.Outcome State Fault Refusal :=
  let b := s.hub.boot
  spdm s [0x81] (okCode :: ((List.range 2).flatMap fun k => bytesLE 48 (Config.digest 0 (chain b k)).toNat))
/-- GET_CERTIFICATE. -/
def execGetCertificate (slot : Nat) (s : State) : Host.Outcome State Fault Refusal :=
  if slot < 2 then spdm s [0x82, slot] (okCode :: chain s.hub.boot slot) else spdmBad s [0x82, slot]
/-- CHALLENGE: a signature over the transcript with the nonce. -/
def execChallenge (slot nonce : Nat) (s : State) : Host.Outcome State Fault Refusal :=
  if slot < 2 then spdm s [0x83, slot, nonce]
    (okCode :: Config.signature slot (chainEnd s.hub.boot) ([0x83, slot, nonce] ++ s.hub.mgmt.transcript))
  else spdmBad s [0x83, slot, nonce]
/-- GET_MEASUREMENTS: 1 to 5 and 0xFD; in minimal mode 1 alone. -/
def execGetMeasurements (index : BitVec 8) (s : State) : Host.Outcome State Fault Refusal :=
  let b := s.hub.boot
  let req := [0xE0, index.toNat]
  if b.minimal && index != 1 then spdmBad s req
  else match index.toNat with
    | 1 => spdm s req (okCode :: bytesLE 48 (Config.digest 1 []).toNat)
    | 2 => spdm s req (okCode :: bytesLE 48 (Config.digest 0 b.fw).toNat)
    | 3 | 4 => spdm s req (okCode :: bytesLE 48 (Config.digest index.toNat b.fw).toNat)
    | 5 => spdm s req (okCode :: bytesLE 8 (pdcfgWord s.hub).toNat)
    | 0xFD => spdm s req (okCode :: Config.signature 1 (chainEnd b) (req ++ s.hub.mgmt.transcript))
    | _ => spdmBad s req
/-- KEY_EXCHANGE: a session begins. -/
def execKeyExchange (share : Nat) (s : State) : Host.Outcome State Fault Refusal :=
  let n := s.hub.mgmt.sessNo
  spdm (s.modMgmt fun m => { m with sessNo := n + 1, sessions := (n, false) :: m.sessions }) [0xE4, share]
    (okCode :: (bytesLE 4 n ++ bytesLE 97 (Config.keyShare share)))
/-- FINISH: the session last begun is secured, or ends. -/
def execSpdmFinish (verifies : Bool) (s : State) : Host.Outcome State Fault Refusal :=
  match s.hub.mgmt.sessions with
  | (n, false) :: r =>
    let s := s.modMgmt fun m => { m with sessions := if verifies then (n, true) :: r else r }
    if verifies then spdm s [0xE5] [okCode] else spdmBad s [0xE5]
  | _ => spdmBad s [0xE5]
/-- END_SESSION. -/
def execEndSession (session : Nat) (s : State) : Host.Outcome State Fault Refusal :=
  if s.hub.mgmt.sessions.contains (session, true) then
    spdm (s.modMgmt fun m => { m with sessions := m.sessions.filter (· != (session, true)) }) [0xEC, session] [okCode]
  else spdmBad s [0xEC, session]

/-! ## Vendor-defined requests in a secured session (R421, R420) -/

/-- A started command of a context. -/
def startedIn (s : State) (a : Asid) : Bool := s.hub.cmds.any fun c => c.asid == a && c.state == 2
/-- Inside a secured session of a package that runs its firmware. -/
def inSession (s : State) (session : Nat) : Bool :=
  !s.hub.boot.minimal && s.hub.mgmt.sessions.contains (session, true)
/-- A vendor-defined request refused. -/
def vendorBad (s : State) : State := answer (logRefusal s 0xFE 6 2 0) [invalidData]
def State.modSlot (s : State) (k : BitVec 10) (f : KeySlot → KeySlot) : State :=
  s.modHub fun h => { h with kslots := vmod h.kslots k.toFin f }

/-- KEY_SLOT_LOAD: refused for slot 0, or while the slot's context has a started command. -/
def execKeySlotLoad (session : Nat) (slot : BitVec 10) (asid : Asid) (key : Nat) (s : State) :
    Host.Outcome State Fault Refusal :=
  let x := s.hub.kslots[slot.toFin]
  if !inSession s session || slot = 0 || startedIn s asid || (x.state != 0 && startedIn s x.asid) then
    .next (vendorBad s)
  else .next (answer (s.modSlot slot fun x => { x with
    state := 1, asid := asid, key := some key, gen := if x.key = some key then x.gen else x.gen + 1 }) [okCode])
/-- KEY_SLOT_ERASE: nothing written under the slot can be read again. -/
def execKeySlotErase (session : Nat) (slot : BitVec 10) (s : State) : Host.Outcome State Fault Refusal :=
  let x := s.hub.kslots[slot.toFin]
  if !inSession s session || slot = 0 || (x.state != 0 && startedIn s x.asid) then .next (vendorBad s)
  else .next (answer (s.modSlot slot fun x => { gen := x.gen }) [okCode])
/-- IDE_KEY_SET. -/
def execIdeKeySet (session : Nat) (proto : Fin 3) (key : Nat) (s : State) : Host.Outcome State Fault Refusal :=
  if !inSession s session then .next (vendorBad s)
  else .next (answer (s.modMgmt fun m => { m with ide := vset m.ide proto (some key) }) [okCode])

end Sys2Proof.Machine
end

