-- ==== Sys2Proof/Machine/Rv32.lean ====
section
/-! DEFINITION. RV32I, M, Zicsr, Zba and Zbb on a companion core (R334, R335). What a standard instruction computes is
taken from the ratified RISC-V specifications that R334 names (log entry 7). -/

namespace Sys2Proof.Machine
open Sys2Proof

/-! ## Values -/

/-- Conditions of the branches. -/
def brTaken (o : BrOp) (a b : W32) : Bool :=
  match o with
  | .beq => a == b
  | .bne => a != b
  | .blt => a.slt b
  | .bge => !a.slt b
  | .bltu => a.ult b
  | .bgeu => !a.ult b
/-- OP-IMM. -/
def immValue (o : ImmOp) (a i : W32) : W32 :=
  match o with
  | .addi => a + i
  | .slti => if a.slt i then 1 else 0
  | .sltiu => if a.ult i then 1 else 0
  | .xori => a ^^^ i
  | .ori => a ||| i
  | .andi => a &&& i
/-- Shifts by a constant. -/
def shValue (o : ShOp) (a : W32) (n : Nat) : W32 :=
  match o with
  | .slli => a <<< n
  | .srli => a >>> n
  | .srai => a.sshiftRight n
  | .rori => a.rotateRight n
/-- OP: RV32I, M, Zba and Zbb; a division by zero gives all ones and the dividend, an overflow wraps. -/
def regValue (o : RegOp) (a b : W32) : W32 :=
  let n := b.toNat % 32
  match o with
  | .add => a + b
  | .sub => a - b
  | .sll => a <<< n
  | .slt => if a.slt b then 1 else 0
  | .sltu => if a.ult b then 1 else 0
  | .xor => a ^^^ b
  | .srl => a >>> n
  | .sra => a.sshiftRight n
  | .or => a ||| b
  | .and => a &&& b
  | .mul => a * b
  | .mulh => trunc 32 (a.toInt * b.toInt / 2 ^ 32)
  | .mulhsu => trunc 32 (a.toInt * b.toNat / 2 ^ 32)
  | .mulhu => trunc 32 ((a.toNat * b.toNat / 2 ^ 32 : Nat) : Int)
  | .div => if b = 0 then BitVec.allOnes 32 else trunc 32 (a.toInt.tdiv b.toInt)
  | .divu => if b = 0 then BitVec.allOnes 32 else a / b
  | .rem => if b = 0 then a else trunc 32 (a.toInt.tmod b.toInt)
  | .remu => if b = 0 then a else a % b
  | .sh1add => b + (a <<< 1)
  | .sh2add => b + (a <<< 2)
  | .sh3add => b + (a <<< 3)
  | .andn => a &&& ~~~b
  | .orn => a ||| ~~~b
  | .xnor => ~~~(a ^^^ b)
  | .max => if a.slt b then b else a
  | .maxu => if a.ult b then b else a
  | .min => if b.slt a then b else a
  | .minu => if b.ult a then b else a
  | .rol => a.rotateLeft n
  | .ror => a.rotateRight n
/-- The one-operand instructions of Zbb. -/
def unValue (o : UnOp) (a : W32) : W32 :=
  match o with
  | .clz => w32 (match highestBit a with | some k => 31 - k | none => 32)
  | .ctz => w32 ((lowestBit a).getD 32)
  | .cpop => w32 (popCount a)
  | .sextb => (a.extractLsb' 0 8).signExtend 32
  | .sexth => (a.extractLsb' 0 16).signExtend 32
  | .zexth => (a.extractLsb' 0 16).setWidth 32
  | .orcb => ofBytes fun i => if byteAt a i = 0 then 0 else 0xFF
  | .rev8 => ofBytes fun i => byteAt a (3 - i)

/-! ## The data store (R333) -/

/-- Bytes of a load and of a store. -/
def ldBytes : LdOp → Nat
  | .lb | .lbu => 1
  | .lh | .lhu => 2
  | .lw => 4
def stBytes : StOp → Nat
  | .sb => 1
  | .sh => 2
  | .sw => 4
/-- The register value of a load. -/
def ldValue (o : LdOp) (bs : List Byte) : W32 :=
  let v := wordLE bs
  match o with
  | .lb => (v.extractLsb' 0 8).signExtend 32
  | .lh => (v.extractLsb' 0 16).signExtend 32
  | _ => v

/-! ## CSRs (R335) -/

/-- Cycles as mcycle counts them: the cluster's, or in deterministic mode minstret. -/
def csrCycles (s : State) (k : Companion) : W64 := if s.det s.core then k.minstret else BitVec.ofNat 64 (s.cycles s.core)
/-- A CSR read: its value, and the core with the latches that the read changes; none for a number that is not there. -/
def csrRead (s : State) (r : Role) (k : Companion) (t : Team) (n : BitVec 12) : Option (W32 × Companion) :=
  let cyc := csrCycles s k
  let hi : W64 → W32 := fun v => (v >>> 32).setWidth 32
  match n.toNat with
  | 0x301 => some (0x40801104, k)
  | 0xF14 => some (match r with | .feeder => 0 | .drain => 1, k)
  | 0xB00 | 0xC00 => some (cyc.setWidth 32, { k with cycHi := some (hi cyc) })
  | 0xB80 | 0xC80 => some (k.cycHi.getD (hi cyc), { k with cycHi := none })
  | 0xB02 | 0xC02 => some (k.minstret.setWidth 32, { k with insHi := some (hi k.minstret) })
  | 0xB82 | 0xC82 => some (k.insHi.getD (hi k.minstret), { k with insHi := none })
  | 0xFC0 => some (w32 (Team.linear t), k)
  | 0xFC1 => some (w32 s.core.val, k)
  | 0xFC2 => some (s.hub.node.setWidth 32, k)
  | 0xFC3 => some (if s.det s.core then 1 else 0, k)
  | 0xFC4 => some (t.step, k)
  | 0x7C0 => some (k.ksrcnt, k)
  | _ => none
/-- What a CSR instruction writes. -/
def csrNew (o : CsrOp) (old v : W32) : W32 :=
  match o with
  | .rw => v
  | .rs => old ||| v
  | .rc => old &&& ~~~v

/-- A CSR instruction: a read that its rd calls for, then a write; KSRCNT alone takes one. -/
def csrEff (s : State) (r : Role) (k : Companion) (t : Team) (o : CsrOp) (imm : Bool) (rd : XReg) (n : BitVec 12) (src : XReg) : KEff :=
  let bad : KEff := .fault { cause := 0x01, x1 := match k.fetchWord with | .ok w => w | .error _ => 0 }
  let writes := o == .rw || src != 0
  let v : W32 := if imm then src.setWidth 32 else k.rd src
  match csrRead s r k t n with
  | none => bad
  | some (old, k') =>
    if writes && n != 0x7C0 then bad
    else
      let k' := if o == .rw && rd == 0 then k else k'
      let k' := if writes then { k' with ksrcnt := csrNew o old v } else k'
      .done (s.modComp s.core r fun _ => k') (some (rd, old)) none

/-! ## The instructions -/

/-- A sign-extended offset in units of two bytes. -/
def halfOff {w : Nat} (x : BitVec w) : W32 := (x.signExtend 32) <<< 1

/-- What a standard instruction does. -/
def rvEff (s : State) (r : Role) (k : Companion) (t : Team) (i : Rv) : KEff :=
  let here := k.pc
  let next := k.pc + w32 s.ilen
  let put : XReg → W32 → KEff := fun rd v => .done s (some (rd, v)) none
  match i with
  | .lui rd imm => put rd (imm ++ (0 : BitVec 12))
  | .auipc rd imm => put rd (here + (imm ++ (0 : BitVec 12)))
  | .jal rd imm => .done s (some (rd, next)) (some (here + halfOff imm))
  | .jalr rd rs1 imm => .done s (some (rd, next)) (some ((k.rd rs1 + imm.signExtend 32) &&& 0xFFFFFFFE))
  | .branch o rs1 rs2 imm =>
    .done s none (if brTaken o (k.rd rs1) (k.rd rs2) then some (here + halfOff imm) else none)
  | .load o rd rs1 imm =>
    let a := k.rd rs1 + imm.signExtend 32
    if !dataOk a (ldBytes o) then .fault (accessTrap a) else put rd (ldValue o (Memory.read k.dmem a.toNat (ldBytes o)))
  | .store o rs1 rs2 imm =>
    let a := k.rd rs1 + imm.signExtend 32
    if !dataOk a (stBytes o) then .fault (accessTrap a)
    else .done (s.modComp s.core r fun k =>
      { k with dmem := Memory.write k.dmem a.toNat (bytesLE (stBytes o) (k.rd rs2).toNat) }) none none
  | .opImm o rd rs1 imm => put rd (immValue o (k.rd rs1) (imm.signExtend 32))
  | .shift o rd rs1 sh => put rd (shValue o (k.rd rs1) sh.toNat)
  | .op o rd rs1 rs2 => put rd (regValue o (k.rd rs1) (k.rd rs2))
  | .unary o rd rs1 => put rd (unValue o (k.rd rs1))
  | .csr o imm rd n src => csrEff s r k t o imm rd n src

def execRv32 (_compressed : Bool) (i : Rv) (s : State) : Host.Outcome State Fault Refusal :=
  kissue s fun r k t => rvEff s r k t i

end Sys2Proof.Machine
end

