-- ==== Sys2Proof/Machine/Switch.lean ====
section
/-! DEFINITION. Pre-emption and context switches: R48 to R50, R53, R132, R139, R277, R342, R356, R366, R400 to R402. -/

namespace Sys2Proof.Machine
open Sys2Proof

/-! ## Save areas (R356, R402) -/

/-- Public words of a group record from offset 0x4000 to 0x4267. -/
def groupWords (g : Group) : List W32 :=
  let m : LaneState → W32 := fun st => maskOf fun l => g.lane[l] == st
  g.s.toList ++ g.meet.toList ++ g.pc.toList ++ g.p.toList.take 7
    ++ [w32 ((List.range 3).foldl (fun n k => n + if vat g.q k then 2 ^ k else 0) 0), m .held, m .yielded, m .exited
      , w32 ((List.range 6).foldl (fun n k => n + g.counter k * 2 ^ (5 * k)) 0), g.fpstat, g.srcnt, g.mxc
      , g.xpc, g.xcidx, g.xissue, g.xcause]
    ++ g.xinfo.toList
    ++ [w32 (match g.block with | .sleeping k => k | _ => 0), w32 g.retired, w32 (g.retired / 2 ^ 32)]
/-- n device-private bytes from a data offset up: the spec gives them no layout, so their values are open ones, fixed for a
context when it is saved (R356, R402; log entry 53). -/
def privateBytes (k base n : Nat) : List (Nat × Byte) := (List.range n).map fun j => (base + j, Config.freeByte (k + j))
/-- The bytes of a group record with their data offsets from the save base. -/
def groupRecord (c : CoreId) (i : Slot) (na : Nat) (g : Group) (k : Nat) : List (Nat × Byte) :=
  let base := (c.val * 64 + i.val) * 20480
  ((List.range na).flatMap fun n => allLanes.flatMap fun l =>
      (bytesLE 32 (g.rdA n l).toNat).zipIdx.map fun x => (base + n * 1024 + l.val * 32 + x.2, x.1))
    ++ (((groupWords g).flatMap fun w => bytesLE 4 w.toNat).zipIdx.map fun x => (base + 0x4000 + x.2, x.1))
    ++ privateBytes (k + 3480 * i.val) (base + 0x4268) 3480
/-- The bytes of a team record. -/
def teamRecord (c : CoreId) (t : Slot) (m : Team) (k : Nat) : List (Nat × Byte) :=
  let base := 0x05000000 + (64 * c.val + t.val) * 8192
  (((m.ls.toList.flatMap fun e => bytesLE 64 e.toNat) ++ (m.rings.toList.flatMap fun r => bytesLE 8 r.word.toNat)
    ++ bytesLE 4 m.step.toNat).zipIdx.map fun x => (base + x.2, x.1))
    ++ privateBytes (k + 3480 * 64 + 4028 * t.val) (base + 4164) 4028
/-- The core record, whole device-private. -/
def coreRecord (c : CoreId) (k : Nat) : List (Nat × Byte) := privateBytes (k + (3480 + 4028) * 64) (c.val * 1048576) 1048576
/-- Device-private bytes of a context on one core. -/
def privateCount : Nat := (3480 + 4028) * 64 + 1048576
/-- The records of a context on a core: the save base of their launch record, and their bytes. -/
def saveRecords (c : CoreId) (x : CtxCore) : List (Nat × List (Nat × Byte)) :=
  ((List.finRange 64).filter fun i => (x.groups[i]).resident).map (fun i =>
      let m := x.teams[(x.groups[i]).team]
      (LRec.saveBase m.lrec, groupRecord c i (LRec.na m.lrec) x.groups[i] x.priv))
    ++ ((List.finRange 64).filter fun t => (x.teams[t]).live).map fun t =>
      (LRec.saveBase (x.teams[t]).lrec, teamRecord c t x.teams[t] x.priv)

/-- One record written to the context's memory; a page that cannot be written keeps its bytes. -/
def saveRecord (a : Asid) (s : State) (r : Nat × List (Nat × Byte)) : State :=
  match vaPlaces s a false .write (r.2.map fun x => pitch r.1 x.1) with
  | none => s
  | some ps => writeBytes (remoteStore a (ownKey s a)) s ps (r.2.map (·.2))
/-- One record reads as it was saved. -/
def recordHolds (a : Asid) (s : State) (r : Nat × List (Nat × Byte)) : Bool :=
  match vaPlaces s a false .read (r.2.map fun x => pitch r.1 x.1) with
  | none => false
  | some ps => (homeBytes s (ownKey s a) ps).1.1 == r.2.map (·.2)

/-- Work on a saved context of a core as on its running one. -/
def onSaved (s : State) (c : CoreId) (a : Asid) (f : State → State) : State :=
  match s.cores[c].saved.find? (·.1 == a) with
  | none => s
  | some x =>
    let now := s.cores[c].ctx
    let s := f (s.modCore c fun k => { k with ctx := x.2 })
    s.modCore c fun k => { k with ctx := now, saved := k.saved.map fun y => if y.1 == a then (a, k.ctx) else y }

/-- Places of the core record of a context: device-physical DRAM (R385, R402). -/
def corePlaces (s : State) (a : Asid) (r : List (Nat × Byte)) : List PLoc :=
  r.map fun x => ⟨.dram, pitch (fieldN (s.ctxRec a).desc 192 57) x.1⟩
/-- The core record written, and compared with what it was written as. -/
def saveCore (s : State) (c : CoreId) (a : Asid) (k : Nat) : State :=
  let r := coreRecord c k
  writeBytes (remoteStore a (ownKey s a)) s (corePlaces s a r) (r.map (·.2))
def coreHolds (s : State) (c : CoreId) (a : Asid) (k : Nat) : Bool :=
  let r := coreRecord c k
  (homeBytes s (ownKey s a) (corePlaces s a r)).1.1 == r.map (·.2)

/-- Every live vector register of a context's groups to the spill areas (R356). -/
def spillAll (c : CoreId) (s : State) : State :=
  ((List.finRange 64).filter fun i => (s.grp c i).resident && !gridKilled s (s.team c (s.grp c i).team)).foldl (fun s i =>
    ((List.range 256).filter fun n => !(s.grp c i).spills.any fun w => w.1.toNat == n).foldl (fun s n =>
      spillStore s c i (BitVec.ofNat 8 n)) s) s
/-- The records of a saved context written; its device-private bytes take their values. -/
def saveContext (c : CoreId) (a : Asid) (x : CtxCore) (s : State) : State :=
  let x := { x with priv := s.fresh }
  let s := { s with fresh := s.fresh + privateCount }
  let s := saveCore ((saveRecords c x).foldl (saveRecord a) s) c a x.priv
  s.modCore c fun k => { k with saved := k.saved.map fun y => if y.1 == a then (a, x) else y }

/-- STREAM_COMPLETE: the state in STREAM stands in its save areas. A spill that page-faults stays outstanding, and STREAM with
it, until the driver has answered (R150, R393). -/
def execStreamComplete (c : CoreId) (s : State) : Host.Outcome State Fault Refusal :=
  match s.cores[c].stream with
  | none => .next s
  | some a =>
    let s := onSaved s c a (spillAll c)
    match s.cores[c].saved.find? (·.1 == a) with
    | none => .next (s.modCore c fun k => { k with stream := none })
    | some x =>
      if x.2.groups.toList.any fun g => g.resident && !g.spills.isEmpty then .next s
      else .next ((saveContext c a x.2 s).modCore c fun k => { k with stream := none })

/-- A record of the context's save areas was altered (R356, R402): it faults and no group of it resumes. -/
def restoreFault (s : State) (c : CoreId) (a : Asid) : State :=
  contextFault s a 0x10 { kind := 11, cause := 0x46, core := c.val, agent := 3 }

/-- CONTEXT_RESTORE: a context that waits for the core is loaded into SHADOW, exactly as it was saved (R53). -/
def execContextRestore (c : CoreId) (a : Asid) (s : State) : Host.Outcome State Fault Refusal :=
  let k := s.cores[c]
  if k.run == some a || k.stream == some a || !(contenders s c).any (fun x => x.asid == a) then .next s
  else match k.saved.find? (·.1 == a) with
    | none => .next (s.modCore c fun k => { k with shadow := some a })
    | some x =>
      if (saveRecords c x.2).all (recordHolds a s) && coreHolds s c a x.2.priv then .next (s.modCore c fun k => { k with shadow := some a })
      else .next (restoreFault s c a)

/-! ## Stopping (R48, R50, R132) -/

/-- A context that pre-empts the running one: its class is at least two above every resident team's. -/
def preempts (s : State) (c : CoreId) (x : Contender) : Bool :=
  s.cores[c].run != some x.asid && (residentClass s.cores[c].ctx).any fun m => m + 2 ≤ x.prio

/-- PREEMPT_STOP: a pre-emption starts, or its last group has stopped and the drain window opens. -/
def execPreemptStop (c : CoreId) (s : State) : Host.Outcome State Fault Refusal :=
  let k := s.cores[c]
  let s := if k.run.isSome && k.stopping == .no && (contenders s c).any (preempts s c) then
    s.modCore c fun k => { k with stopping := .groups } else s
  if s.cores[c].stopping == .groups && s.cores[c].stopAt.isNone && coreStopped s c then
    .next (s.modCore c fun k => { k with stopAt := some (s.cycles c) })
  else .next s

/-- Open bytes at the places of a command's destination. -/
def spoilDest (q : CopyCtx) (k : Cmd) (s : State) (x : Bool × VPlace) : State :=
  let e := if x.1 then k.h2 else k.dst
  let away := if x.1 then none else (k.dstSide q.own).away
  let (p, s) := match away, x.2 with
    | some node, .va a => (some (⟨.fabric, fabricAddr (jobOf s q.asid) node a⟩ : PLoc), s)
    | _, v => match resolve s q.w.core q.asid e .write false v with
      | (.ok p, s) => (some p, s)
      | (.error _, s) => (none, s)
  match p with
  | none => s
  | some p => let (b, s) := s.takeByte; writeOut s q k x.1 [⟨x.2, p, b⟩]
/-- A command that the drain window leaves unfinished: discarded, its delivered bytes pending again. The destination of one that
an engine has started is undefined until its replay completes; what a copy-reduce had read of it is kept. -/
def discardCopy (c : CoreId) (s : State) (k : Cmd) : State :=
  match k.state with
  | .failed .. => s
  | _ =>
    let q := copyCtx s c k
    let s := if k.taken && !k.reduces then ((k.allPlaces q).eraseDups).foldl (spoilDest q k) s else s
    let s := if k.bi = 127 || k.remoteSignals || k.sent = 0 then s else updateBar s c k.team k.bi (.issue k.sent)
    s.modCopy c k.seq fun k => { k with
      state := .discarded, taken := false, idxs := [], stop := none
      landed := if k.reduces then k.landed else [], sent := if k.reduces then k.sent else 0 }
/-- A staged entry of an admitted team that has not landed: its target is undefined until it is replayed (R139). -/
def discardStage (c : CoreId) (t : Slot) (s : State) (n : Nat) (x : Stage) : State :=
  if x.ended || stgTgt x.entry = 0 then s
  else
    let s := spoil (stgMem c t x.entry) ((List.range x.total).map (stgToff x.entry + ·)) s
    modStage s c (.team t, n) fun y => { y with busy := false }
/-- The staged entries of the running context's teams. -/
def discardStages (c : CoreId) (s : State) : State :=
  ((List.finRange 64).filter fun t => (s.team c t).live).foldl (fun s t =>
    (s.team c t).stages.zipIdx.foldl (fun s x => discardStage c t s x.2 x.1) s) s

/-- DRAIN_WINDOW_CLOSE: 2,048 cycles after the last group stopped, with no fired array operation left. -/
def execDrainWindowClose (c : CoreId) (s : State) : Host.Outcome State Fault Refusal :=
  let k := s.cores[c]
  match k.stopping, k.stopAt with
  | .groups, some t =>
    if s.cycles c < t + 2048 || k.ctx.arrq.any (·.fired) || !coreStopped s c then .next s
    else
      let s := (k.journal.filter fun q => k.run == some q.asid).foldl (discardCopy c) s
      .next ((discardStages c s).modCore c fun k => { k with stopping := .drained })
  | _, _ => .next s

/-! ## The switch (R50, R400, R277, R342, R139) -/

/-- A group that waits at an FWAIT or WAITA evaluates it again when its context runs again (R277); hang counts start anew
(R56). -/
def Group.leaving (x : CtxCore) (i : Slot) : Group :=
  let g := { x.groups[i] with hang := 0 }
  if x.waits.any (fun w => w.idx == i) && g.block.waits then { g with block := .polling } else g
/-- What a context that leaves a core does not keep: wait-table entries, a companion core's stall and instruction store
(R342); power-hint windows are kept as the cycles that are left of them. -/
def CtxCore.leaving (now : Nat) (x : CtxCore) : CtxCore :=
  let free : Companion → Companion := fun k =>
    { k with imem := [], block := if k.block == .parked then .free else k.block }
  let keep : Waiter × BarNeed → Bool := fun w => match w.1 with | .grp _ => true | .comp _ => false
  let bar : Bar → Bar := fun b => { b with waiters := b.waiters.filter keep }
  let team : Team → Team := fun t => { t with bars := t.bars.map bar }
  { x with
    groups := Vector.ofFn (Group.leaving x), waits := [], feeder := free x.feeder, drain := free x.drain, teams := x.teams.map team
    leftAt := now
    hints := (x.hints.filter fun h => now < h.ends).map fun h => { h with opens := h.opens - now, ends := h.ends - now } }
/-- What it finds when it takes a core again: time has stood still for its hint windows and its ready groups (R50). -/
def CtxCore.entering (now : Nat) (x : CtxCore) : CtxCore :=
  { x with
    groups := x.groups.map fun g => { g with readyAt := g.readyAt + (now - x.leftAt) }
    hints := x.hints.map fun h => { h with opens := h.opens + now, ends := h.ends + now } }
/-- The instruction store of a companion core, from the image of its team (R342). -/
def reloadImem (s : State) (a : Asid) (base : Nat) (k : Companion) : Companion :=
  if base = 0 then k
  else { k with imem := match imageSizes s a base with
    | none => []
    | some (n, _) => Memory.write [] 0 ((contextBytes s a base 192 n .read).getD []) }
def CtxCore.reload (s : State) (a : Asid) (x : CtxCore) : CtxCore :=
  { x with
    feeder := reloadImem s a (LRec.feederImg (x.teams[x.feeder.team]).lrec) x.feeder
    drain := reloadImem s a (LRec.drainImg (x.teams[x.drain.team]).lrec) x.drain }

/-- Queued teams of a context that is pre-empted: staged scratch is discarded, and staging restarts when they are offered
again (R139). -/
def QTeam.restage (q : QTeam) : QTeam := { q with shared := [], wbuf := [], xbuf := [], stages := [], away := true }
/-- The teams of a context on a core, admitted and queued. -/
def teamsHere (s : State) (k : Core) (a : Asid) : List (Nat × Nat) :=
  ((k.ctx.teams.toList.filter fun t => t.live && t.asid == a).map fun t => (t.grid, Team.linear t))
    ++ (k.queued.filter fun q => q.asid == a).map fun q => (q.grid, Team.linear (q.stub s))

/-- The running context leaves RUN and enters STREAM; another one, or none, takes its place. -/
def switchTo (s : State) (c : CoreId) (a : Option Asid) : State :=
  let k := s.cores[c]
  let now := s.cycles c
  let saved := match k.run with
    | some r => (r, k.ctx.leaving now) :: k.saved.filter fun x => x.1 != r
    | none => k.saved
  let ctx : CtxCore := match a with
    | none => {}
    | some a => match saved.find? fun x => x.1 == a with
      | some x => (x.2.entering now).reload s a
      | none => {}
  let cv := carveFor (held ctx spShared)
  let s := match k.run with
    | some r => let mine := teamsHere s k r; unstage s fun o => mine.contains o
    | none => s
  let s := s.modCore c fun k => { k with
    ctx := ctx, run := a, shadow := none, stream := k.run, stopping := .no, stopAt := none
    switchAt := a.map fun _ => now
    saved := saved.filter fun x => some x.1 != a
    l1 := if cv = k.carve then k.l1 else []
    carve := cv
    queued := k.queued.map fun q => if k.run == some q.asid then q.restage else q }
  flushSignals s
/-- A context may take the core: it has nothing saved there, or stands in SHADOW. -/
def loaded (k : Core) (a : Asid) : Bool := !k.saved.any (fun x => x.1 == a) || k.shadow == some a

/-- CONTEXT_SWITCH: after the drain window the best contender takes the core; a pre-emption that nothing calls for any
more ends, its discarded commands are replayed. -/
def execContextSwitch (c : CoreId) (s : State) : Host.Outcome State Fault Refusal :=
  let k := s.cores[c]
  let l := contenders s c
  if k.stopping != .drained || k.stream.isSome then .next s
  else if k.run.any fun a => debugged s a then
    match bestContender l with
    | none => .next (switchTo s c none)
    | some x => if loaded k x.asid then .next (switchTo s c (some x.asid)) else .next s
  else match bestContender (l.filter (preempts s c)) with
    | none => .next (s.modCore c fun k => { k with stopping := .no, stopAt := none })
    | some x => if loaded k x.asid then .next (switchTo s c (some x.asid)) else .next s

/-- CONTEXT_HANDOVER: with no resident team of the running context, the best contender takes the core (R49). -/
def execContextHandover (c : CoreId) (s : State) : Host.Outcome State Fault Refusal :=
  let k := s.cores[c]
  if k.stopping != .no || k.stream.isSome || (k.run.isSome && (residentClass k.ctx).isSome) then .next s
  else match bestContender (contenders s c) with
    | none => .next s
    | some x => if k.run == some x.asid || !loaded k x.asid then .next s else .next (switchTo s c (some x.asid))

/-! ## Typed buffers (R401) -/

/-- The image places of one partition. -/
def imagePlaces (s : State) (a : Asid) (c : CoreId) (sp start n : Nat) : List PLoc :=
  let base := fieldN (s.ctxRec a).desc 192 57
  let off := 0x04000000 + c.val * 2 ^ 24 + (if sp = spWbuf then 0 else if sp = spXbuf then 2 ^ 22 else 2 ^ 23) + start
  ((List.range n).map fun i => (⟨.dram, pitch base (off + i)⟩ : PLoc)).filter fun p => paExists 0 p.addr
/-- The three partitions of a team: space, start, bytes. -/
def Team.parts (t : Team) : List (Nat × Nat × Nat) :=
  [(spWbuf, t.tbw, allocation t spWbuf), (spXbuf, t.tbx, allocation t spXbuf), (spYbuf, t.tby, allocation t spYbuf)]

/-- A team's partitions of the core's current context written to the image. -/
def partsOut (c : CoreId) (t : Slot) (s : State) : State :=
  let m := s.team c t
  let s := m.parts.foldl (fun s p =>
    let ps := imagePlaces s m.asid c p.1 p.2.1 p.2.2
    writeBytes (remoteStore m.asid (ownKey s m.asid)) s ps ((List.range ps.length).map fun j => placeByte s ⟨scratchTgt c t p.1, j⟩)) s
  s.modTeam c t fun m => { m with wbuf := [], xbuf := [], ybuf := [], tbHere := false }
/-- And read back. -/
def partsIn (c : CoreId) (t : Slot) (s : State) : State :=
  let m := s.team c t
  let s := m.parts.foldl (fun s p =>
    let ((bs, _), s) := homeBytes s (ownKey s m.asid) (imagePlaces s m.asid c p.1 p.2.1 p.2.2)
    modMemOf s (fun _ => putBytes (scratchTgt c t p.1) [] 0 bs) (scratchTgt c t p.1)) s
  s.modTeam c t fun m => { m with tbHere := true }

/-- A partition of a saved context that holds bytes a team needs. -/
def inTheWay (k : Core) (t : Team) : Option (Asid × Slot) :=
  k.saved.findSome? fun x => ((List.finRange 64).find? fun j =>
    (x.2.teams[j]).live && (x.2.teams[j]).tbHere && partsMeet x.2.teams[j] t).map fun j => (x.1, j)
/-- The first queued team of the running context that other partitions keep out. -/
def keptOut (s : State) (k : Core) : Option Team :=
  (k.queued.filter fun q => k.run == some q.asid).findSome? fun q =>
    match placeParts k.ctx (q.stub s) with
    | some ps =>
      let t : Team := { q.stub s with tbw := ps.1, tbx := ps.2.1, tby := ps.2.2 }
      if blockedParts k t then some t else none
    | none => none

/-- TYPED_BUFFER_STREAM: one partition out of the way of a team of the running context, or that team's bytes in. -/
def execTypedBufferStream (c : CoreId) (s : State) : Host.Outcome State Fault Refusal :=
  let k := s.cores[c]
  let out : Asid × Slot → State := fun x => onSaved s c x.1 (partsOut c x.2)
  match (List.finRange 64).find? fun t => (k.ctx.teams[t]).live && !(k.ctx.teams[t]).tbHere with
  | some t => match inTheWay k k.ctx.teams[t] with
    | some x => .next (out x)
    | none => .next (partsIn c t s)
  | none => match (keptOut s k).bind (inTheWay k) with
    | some x => .next (out x)
    | none => .next s

end Sys2Proof.Machine
end

