-- ==== Sys2Proof/Machine/System.lean ====
section
/-! DEFINITION. System instructions (R325 to R330, R160): special registers, counters, return from a handler, FLT. -/

namespace Sys2Proof.Machine
open Sys2Proof

/-! ## Special registers (R27, R28, R200) -/

/-- TEAMID, or TEAMDIM from extents minus one. -/
def teamWord (x y z : Nat) : W32 := w32 (x % 65536 + y % 1024 * 65536 + z % 64 * 2 ^ 26)
/-- GRIDID (R27). -/
def gridWord (s : State) (t : Team) : W32 :=
  match s.grid? t.grid with
  | some g => g.depth ++ g.number.getD 0
  | none => 0

/-- A special register as a lane reads it. -/
def srRead (s : State) (c : CoreId) (g : Group) (t : Team) (n : BitVec 12) (l : Fin 32) : W32 :=
  match n.toNat with
  | 0x000 => w32 l.val
  | 0x001 => g.gid.setWidth 32
  | 0x002 => teamWord t.x.toNat t.y.toNat t.z.toNat
  | 0x003 => teamWord (LRec.ex t.lrec - 1) (LRec.ey t.lrec - 1) (LRec.ez t.lrec - 1)
  | 0x004 => gridWord s t
  | 0x005 => w32 c.val
  | 0x006 => w32 (dieOf c).val
  | 0x007 => t.node.setWidth 32
  | 0x010 => t.step
  | 0x011 => if s.det c then 1 else 0
  | 0x020 => g.fpstat
  | 0x028 => (LRec.seed t.lrec >>> 32).setWidth 32
  | 0x029 => (LRec.seed t.lrec).setWidth 32
  | 0x02A => g.srcnt
  | 0x040 => g.xpc
  | 0x041 => g.xcidx
  | 0x042 => g.xissue
  | 0x043 => g.xcause
  | k => if 0x018 ≤ k && k ≤ 0x01F then vat g.arg[l] (k - 0x018) else vat g.xinfo (k - 0x044)

/-- A float instruction with a long latency has not retired (R235). -/
def Group.floatPending (g : Group) : Bool := g.out.any (·.float)

def execRdsr (x : FmtSY) (s : State) : Host.Outcome State Fault Refusal :=
  issue (.rdsr x) s fun n h g r =>
    if x.srn = 0x020 && g.floatPending then .stall s
    else .short (s.modGrp s.core n fun _ => g.dst h.u x.d.toNat (acting h g r) fun l => srRead s s.core g (teamOf s g) x.srn l)

/-- A register written by WRSR (R159, R176, R234, R326), or none when the write is refused. -/
def srWrite (g : Group) (n : BitVec 12) (v : W32) : Option Group :=
  match n.toNat with
  | 0x020 => if v &&& ~~~0x1F1F = 0 then some { g with fpstat := v } else none
  | 0x02A => some { g with srcnt := v }
  | 0x040 => if v &&& 7 = 0 then some { g with xpc := v, xcidx := g.xcidx &&& 0x7FFFFFFF } else none
  | 0x041 => if v &&& 0x7FFFFFE0 = 0 then some { g with xcidx := v &&& 0x1F } else none
  | 0x042 => some { g with xissue := v, xcidx := g.xcidx &&& 0x7FFFFFFF }
  | _ => none
def execWrsr (x : FmtSY) (s : State) : Host.Outcome State Fault Refusal :=
  issue (.wrsr x) s fun n _ g _ =>
    match srWrite g x.srn (g.rdS x.d.toNat) with
    | none => .trap { cause := 0x27, x1 := x.srn.setWidth 32 } false
    | some g' => if x.srn = 0x020 && g.floatPending then .stall s else .short (s.modGrp s.core n fun _ => g')

/-! ## Counters (R327) -/

/-- The 64-bit counter of a selector. -/
def counterOf (s : State) (c : CoreId) (g : Group) (t : Team) (sel : Nat) : W64 :=
  match sel with
  | 0 => BitVec.ofNat 64 (if s.det c then g.retired else s.cycles c)
  | 1 => BitVec.ofNat 64 g.retired
  | 2 => (s.ctxRec t.asid).energy
  | 3 => (s.hub.clusters[clusterOf c]).eclu
  | _ => (s.ctxRec t.asid).undecl
def execRdcnt (x : FmtSY) (s : State) : Host.Outcome State Fault Refusal :=
  issueRegs (.rdcnt x) s fun h g r =>
    let v := counterOf s s.core g (teamOf s g) x.srn.toNat
    let m := acting h g r
    (g.dst h.u x.d.toNat m fun _ => v.setWidth 32).dst h.u (x.d.toNat + 1) m fun _ => (v >>> 32).setWidth 32

/-! ## Return from a handler (R160, R328, R396) -/

/-- The refusal of a resumption state (R160), for the header at XPC. -/
def rteFault (g : Group) (hdr : W64) : Option Trap :=
  let bad : Nat → Option Trap := fun k => some (badTarget none g.xpc k)
  let idx := fieldN g.xcidx 0 5
  if !hdrOk hdr then some (wordTrap 0x04 hdr)
  else if !g.xcidx.getLsbD 31 && idx ≠ 0 then bad 3
  else if !g.xcidx.getLsbD 31 && !hdrBrt hdr then bad 2
  else if hdrN hdr + 1 < idx then bad 3
  else none

/-- Handler state left: resuming lanes take back their MEET and go on at XPC or at the header after it; the other
handler lanes have exited; frozen lanes are free. -/
def Group.leaveHandler (g : Group) (hdr : W64) : Group :=
  let live := g.hlanes &&& g.liveLanes
  let back := live &&& g.xissue
  let idx := fieldN g.xcidx 0 5
  let past := idx == hdrN hdr + 1
  let ends := past || back == 0
  let pc := if past then nextHeader g.xpc hdr else g.xpc
  let is : Mask → Fin 32 → Bool := fun m l => m.getLsbD l.val
  Group.releaseHeld { g with
    handler := false, hlanes := 0, frozen := 0
    pc := Vector.ofFn fun l => if is back l then pc else g.pc[l]
    meet := Vector.ofFn fun l => if is live l then g.savedMeet[l] else g.meet[l]
    lane := Vector.ofFn fun l => if is back l then .ready else if is live l then .exited else g.lane[l]
    resume := if ends then none else some (g.xpc, idx, back)
    -- the interrupted clause has ended, or goes on and ends later: SLEEP and YIELD take effect at its end
    sleepReq := if ends then max g.sleepReq g.keptSleep else g.sleepReq
    keptSleep := if ends then 0 else g.keptSleep
    keptYield := !ends && g.keptYield
    run := g.run.map fun r => { r with lanes := 0, yield := r.yield || (ends && g.keptYield) } } (live &&& ~~~g.xissue)

def execRte (x : FmtR) (s : State) : Host.Outcome State Fault Refusal :=
  issue (.rte x) s fun n _ g _ =>
    let t := teamOf s g
    if !g.handler then .trap { cause := 0x28 } false
    else if LRec.codeSize t.lrec ≤ g.xpc.toNat then .trap (badTarget none g.xpc 1) false
    else match codeWord s s.core t g.xpc.toNat with
      | (.error (va, ty), s) => .stall (awaitFault s s.core n va ty 3)
      | (.ok hdr, s) => match rteFault g hdr with
        | some t => .trap t false
        | none => .short (s.modGrp s.core n fun _ => g.leaveHandler hdr)

/-! ## FLT and ILL (R329, R330) -/

/-- FLT: the context faults; this group goes on to the end of its clause. -/
def execFlt (x : FmtI24) (s : State) : Host.Outcome State Fault Refusal :=
  issue (.flt x) s fun n _ g _ =>
    .short (contextFault s (teamOf s g).asid 0x10
      (groupRec s s.core n 3 0x40 (trapInfo { cause := 0x40, x1 := x.imm.setWidth 32 })))
/-- ILL traps ILLEGAL_OPCODE at step 1 of R192. -/
def execIll (bits : BitVec 54) (s : State) : Host.Outcome State Fault Refusal :=
  issue (.ill bits) s fun _ _ _ _ => .stall s

end Sys2Proof.Machine
end

