-- ==== Sys2Proof/Machine/Dispatch.lean ====
section
/-! DEFINITION. One arm per instruction: a direct call of its meaning. -/

namespace Sys2Proof.Machine
open Sys2Proof

def exec (i : Instr) (s : State) : Host.Outcome State Fault Refusal :=
  match i with
  | .nop x => Sys2Proof.Machine.execNop x s
  | .iadd x => Sys2Proof.Machine.execIadd x s
  | .iaddI24 x => Sys2Proof.Machine.execIaddI24 x s
  | .isub x => Sys2Proof.Machine.execIsub x s
  | .isubI24 x => Sys2Proof.Machine.execIsubI24 x s
  | .iaddc x => Sys2Proof.Machine.execIaddc x s
  | .imul x => Sys2Proof.Machine.execImul x s
  | .imulI24 x => Sys2Proof.Machine.execImulI24 x s
  | .imulh x => Sys2Proof.Machine.execImulh x s
  | .imad x => Sys2Proof.Machine.execImad x s
  | .imadw x => Sys2Proof.Machine.execImadw x s
  | .imin x => Sys2Proof.Machine.execImin x s
  | .iminI24 x => Sys2Proof.Machine.execIminI24 x s
  | .imax x => Sys2Proof.Machine.execImax x s
  | .imaxI24 x => Sys2Proof.Machine.execImaxI24 x s
  | .iabs x => Sys2Proof.Machine.execIabs x s
  | .ineg x => Sys2Proof.Machine.execIneg x s
  | .idot4 x => Sys2Proof.Machine.execIdot4 x s
  | .lop x => Sys2Proof.Machine.execLop x s
  | .shl x => Sys2Proof.Machine.execShl x s
  | .shlI24 x => Sys2Proof.Machine.execShlI24 x s
  | .shr x => Sys2Proof.Machine.execShr x s
  | .shrI24 x => Sys2Proof.Machine.execShrI24 x s
  | .sar x => Sys2Proof.Machine.execSar x s
  | .sarI24 x => Sys2Proof.Machine.execSarI24 x s
  | .shf x => Sys2Proof.Machine.execShf x s
  | .bfx x => Sys2Proof.Machine.execBfx x s
  | .bfxI24 x => Sys2Proof.Machine.execBfxI24 x s
  | .bfi x => Sys2Proof.Machine.execBfi x s
  | .popc x => Sys2Proof.Machine.execPopc x s
  | .clz x => Sys2Proof.Machine.execClz x s
  | .brev x => Sys2Proof.Machine.execBrev x s
  | .icmp x => Sys2Proof.Machine.execIcmp x s
  | .icmpI24 x => Sys2Proof.Machine.execIcmpI24 x s
  | .sel x => Sys2Proof.Machine.execSel x s
  | .mov x => Sys2Proof.Machine.execMov x s
  | .movi x => Sys2Proof.Machine.execMovi x s
  | .prmt x => Sys2Proof.Machine.execPrmt x s
  | .gfmul x => Sys2Proof.Machine.execGfmul x s
  | .gfmac x => Sys2Proof.Machine.execGfmac x s
  | .crc32c x => Sys2Proof.Machine.execCrc32c x s
  | .plop x => Sys2Proof.Machine.execPlop x s
  | .fadd x => Sys2Proof.Machine.execFadd x s
  | .faddI24 x => Sys2Proof.Machine.execFaddI24 x s
  | .fmul x => Sys2Proof.Machine.execFmul x s
  | .fmulI24 x => Sys2Proof.Machine.execFmulI24 x s
  | .ffma x => Sys2Proof.Machine.execFfma x s
  | .fmin x => Sys2Proof.Machine.execFmin x s
  | .fminI24 x => Sys2Proof.Machine.execFminI24 x s
  | .fmax x => Sys2Proof.Machine.execFmax x s
  | .fmaxI24 x => Sys2Proof.Machine.execFmaxI24 x s
  | .fcmp x => Sys2Proof.Machine.execFcmp x s
  | .fcmpI24 x => Sys2Proof.Machine.execFcmpI24 x s
  | .fclass x => Sys2Proof.Machine.execFclass x s
  | .frnd x => Sys2Proof.Machine.execFrnd x s
  | .frcp x => Sys2Proof.Machine.execFrcp x s
  | .frsq x => Sys2Proof.Machine.execFrsq x s
  | .fsqrt x => Sys2Proof.Machine.execFsqrt x s
  | .fdiv x => Sys2Proof.Machine.execFdiv x s
  | .fexp2 x => Sys2Proof.Machine.execFexp2 x s
  | .flog2 x => Sys2Proof.Machine.execFlog2 x s
  | .fsin x => Sys2Proof.Machine.execFsin x s
  | .fcos x => Sys2Proof.Machine.execFcos x s
  | .ftanh x => Sys2Proof.Machine.execFtanh x s
  | .fsigm x => Sys2Proof.Machine.execFsigm x s
  | .fscale x => Sys2Proof.Machine.execFscale x s
  | .fexpo x => Sys2Proof.Machine.execFexpo x s
  | .hadd2 x => Sys2Proof.Machine.execHadd2 x s
  | .hmul2 x => Sys2Proof.Machine.execHmul2 x s
  | .hfma2 x => Sys2Proof.Machine.execHfma2 x s
  | .hmin2 x => Sys2Proof.Machine.execHmin2 x s
  | .hmax2 x => Sys2Proof.Machine.execHmax2 x s
  | .fdot2 x => Sys2Proof.Machine.execFdot2 x s
  | .cvtF2f x => Sys2Proof.Machine.execCvtF2f x s
  | .cvtF2i x => Sys2Proof.Machine.execCvtF2i x s
  | .cvtI2f x => Sys2Proof.Machine.execCvtI2f x s
  | .cvtI2i x => Sys2Proof.Machine.execCvtI2i x s
  | .pack x => Sys2Proof.Machine.execPack x s
  | .unpack x => Sys2Proof.Machine.execUnpack x s
  | .qnt x => Sys2Proof.Machine.execQnt x s
  | .dqnt x => Sys2Proof.Machine.execDqnt x s
  | .shfl x => Sys2Proof.Machine.execShfl x s
  | .bcst x => Sys2Proof.Machine.execBcst x s
  | .vote x => Sys2Proof.Machine.execVote x s
  | .matchLanes x => Sys2Proof.Machine.execMatchLanes x s
  | .redux x => Sys2Proof.Machine.execRedux x s
  | .fredux x => Sys2Proof.Machine.execFredux x s
  | .scan x => Sys2Proof.Machine.execScan x s
  | .s2v x => Sys2Proof.Machine.execS2v x s
  | .v2s x => Sys2Proof.Machine.execV2s x s
  | .ld x => Sys2Proof.Machine.execLd x s
  | .st x => Sys2Proof.Machine.execSt x s
  | .ldu x => Sys2Proof.Machine.execLdu x s
  | .stu x => Sys2Proof.Machine.execStu x s
  | .ldf x => Sys2Proof.Machine.execLdf x s
  | .stf x => Sys2Proof.Machine.execStf x s
  | .pref x => Sys2Proof.Machine.execPref x s
  | .cctl x => Sys2Proof.Machine.execCctl x s
  | .ltsub x => Sys2Proof.Machine.execLtsub x s
  | .ltsubInv x => Sys2Proof.Machine.execLtsubInv x s
  | .ltqry x => Sys2Proof.Machine.execLtqry x s
  | .atom x => Sys2Proof.Machine.execAtom x s
  | .atomf x => Sys2Proof.Machine.execAtomf x s
  | .cas x => Sys2Proof.Machine.execCas x s
  | .red x => Sys2Proof.Machine.execRed x s
  | .redf x => Sys2Proof.Machine.execRedf x s
  | .redd x => Sys2Proof.Machine.execRedd x s
  | .redflush x => Sys2Proof.Machine.execRedflush x s
  | .ffill x => Sys2Proof.Machine.execFfill x s
  | .fwait x => Sys2Proof.Machine.execFwait x s
  | .freset x => Sys2Proof.Machine.execFreset x s
  | .waita x => Sys2Proof.Machine.execWaita x s
  | .bari x => Sys2Proof.Machine.execBari x s
  | .bara x => Sys2Proof.Machine.execBara x s
  | .barw x => Sys2Proof.Machine.execBarw x s
  | .bars x => Sys2Proof.Machine.execBars x s
  | .barq x => Sys2Proof.Machine.execBarq x s
  | .fence x => Sys2Proof.Machine.execFence x s
  | .pfence x => Sys2Proof.Machine.execPfence x s
  | .psync x => Sys2Proof.Machine.execPsync x s
  | .stepClose x => Sys2Proof.Machine.execStepClose x s
  | .snap x => Sys2Proof.Machine.execSnap x s
  | .bra x => Sys2Proof.Machine.execBra x s
  | .brx x => Sys2Proof.Machine.execBrx x s
  | .call x => Sys2Proof.Machine.execCall x s
  | .callx x => Sys2Proof.Machine.execCallx x s
  | .ret x => Sys2Proof.Machine.execRet x s
  | .meet x => Sys2Proof.Machine.execMeet x s
  | .join x => Sys2Proof.Machine.execJoin x s
  | .exitLanes x => Sys2Proof.Machine.execExitLanes x s
  | .yieldTurn x => Sys2Proof.Machine.execYieldTurn x s
  | .sleep x => Sys2Proof.Machine.execSleep x s
  | .phint x => Sys2Proof.Machine.execPhint x s
  | .trap x => Sys2Proof.Machine.execTrap x s
  | .bkpt x => Sys2Proof.Machine.execBkpt x s
  | .qmma x => Sys2Proof.Machine.execQmma x s
  | .qmmb x => Sys2Proof.Machine.execQmmb x s
  | .qzero x => Sys2Proof.Machine.execQzero x s
  | .qmov x => Sys2Proof.Machine.execQmov x s
  | .mxcfg x => Sys2Proof.Machine.execMxcfg x s
  | .mxw x => Sys2Proof.Machine.execMxw x s
  | .mxmm x => Sys2Proof.Machine.execMxmm x s
  | .mxscan x => Sys2Proof.Machine.execMxscan x s
  | .mxepi x => Sys2Proof.Machine.execMxepi x s
  | .mxt x => Sys2Proof.Machine.execMxt x s
  | .rgset x => Sys2Proof.Machine.execRgset x s
  | .rgsetClr x => Sys2Proof.Machine.execRgsetClr x s
  | .rgput x => Sys2Proof.Machine.execRgput x s
  | .rgget x => Sys2Proof.Machine.execRgget x s
  | .rgqry x => Sys2Proof.Machine.execRgqry x s
  | .cpt x => Sys2Proof.Machine.execCpt x s
  | .cpg x => Sys2Proof.Machine.execCpg x s
  | .cps x => Sys2Proof.Machine.execCps x s
  | .cpf x => Sys2Proof.Machine.execCpf x s
  | .cpr x => Sys2Proof.Machine.execCpr x s
  | .cpput x => Sys2Proof.Machine.execCpput x s
  | .cpget x => Sys2Proof.Machine.execCpget x s
  | .cpc x => Sys2Proof.Machine.execCpc x s
  | .cpq x => Sys2Proof.Machine.execCpq x s
  | .tspawn x => Sys2Proof.Machine.execTspawn x s
  | .tchild x => Sys2Proof.Machine.execTchild x s
  | .twait x => Sys2Proof.Machine.execTwait x s
  | .targ x => Sys2Proof.Machine.execTarg x s
  | .stage x => Sys2Proof.Machine.execStage x s
  | .rdsr x => Sys2Proof.Machine.execRdsr x s
  | .wrsr x => Sys2Proof.Machine.execWrsr x s
  | .rdcnt x => Sys2Proof.Machine.execRdcnt x s
  | .rte x => Sys2Proof.Machine.execRte x s
  | .flt x => Sys2Proof.Machine.execFlt x s
  | .ill bits => Sys2Proof.Machine.execIll bits s
  | .kcpt x => Sys2Proof.Machine.execKcpt x s
  | .kcpg x => Sys2Proof.Machine.execKcpg x s
  | .kcps x => Sys2Proof.Machine.execKcps x s
  | .kcpf x => Sys2Proof.Machine.execKcpf x s
  | .kcpr x => Sys2Proof.Machine.execKcpr x s
  | .kcpput x => Sys2Proof.Machine.execKcpput x s
  | .kcpget x => Sys2Proof.Machine.execKcpget x s
  | .kcpqState x => Sys2Proof.Machine.execKcpqState x s
  | .kcpqDone x => Sys2Proof.Machine.execKcpqDone x s
  | .kbara x => Sys2Proof.Machine.execKbara x s
  | .kbarw x => Sys2Proof.Machine.execKbarw x s
  | .krgput x => Sys2Proof.Machine.execKrgput x s
  | .krgget x => Sys2Proof.Machine.execKrgget x s
  | .kltLw x => Sys2Proof.Machine.execKltLw x s
  | .kltSw x => Sys2Proof.Machine.execKltSw x s
  | .companionFence fm pred succ rs1 rd => Sys2Proof.Machine.execCompanionFence fm pred succ rs1 rd s
  | .ecall => Sys2Proof.Machine.execEcall s
  | .ebreak compressed => Sys2Proof.Machine.execEbreak compressed s
  | .wfi => Sys2Proof.Machine.execWfi s
  | .rv32 compressed op => Sys2Proof.Machine.execRv32 compressed op s
  | .clauseIssue core idx => Sys2Proof.Machine.execClauseIssue core idx s
  | .instructionRetire core idx ctr => Sys2Proof.Machine.execInstructionRetire core idx ctr s
  | .sleepExpiry core idx => Sys2Proof.Machine.execSleepExpiry core idx s
  | .hangReport core idx => Sys2Proof.Machine.execHangReport core idx s
  | .groupHangDelivery core idx => Sys2Proof.Machine.execGroupHangDelivery core idx s
  | .taskBinTimeout core team entry => Sys2Proof.Machine.execTaskBinTimeout core team entry s
  | .taskGroupResident core n => Sys2Proof.Machine.execTaskGroupResident core n s
  | .classRise core n => Sys2Proof.Machine.execClassRise core n s
  | .barrierWaveRelease core team nb => Sys2Proof.Machine.execBarrierWaveRelease core team nb s
  | .waitRecheck core idx => Sys2Proof.Machine.execWaitRecheck core idx s
  | .watchedWriteWake core idx => Sys2Proof.Machine.execWatchedWriteWake core idx s
  | .copyDelivery core seq rows => Sys2Proof.Machine.execCopyDelivery core seq rows s
  | .copyComplete core seq => Sys2Proof.Machine.execCopyComplete core seq s
  | .engineOperationFault core seq => Sys2Proof.Machine.execEngineOperationFault core seq s
  | .remoteSignal sig => Sys2Proof.Machine.execRemoteSignal sig s
  | .remoteRequest req => Sys2Proof.Machine.execRemoteRequest req s
  | .arrayOpFire core => Sys2Proof.Machine.execArrayOpFire core s
  | .arrayOpComplete core n => Sys2Proof.Machine.execArrayOpComplete core n s
  | .stagingStart core grid => Sys2Proof.Machine.execStagingStart core grid s
  | .stageEntryLand core n => Sys2Proof.Machine.execStageEntryLand core n s
  | .stageEntryFault core n => Sys2Proof.Machine.execStageEntryFault core n s
  | .admissionDeadline core n => Sys2Proof.Machine.execAdmissionDeadline core n s
  | .teamAdmit core n => Sys2Proof.Machine.execTeamAdmit core n s
  | .teamRetire core team => Sys2Proof.Machine.execTeamRetire core team s
  | .commandStart seq => Sys2Proof.Machine.execCommandStart seq s
  | .preemptStop core => Sys2Proof.Machine.execPreemptStop core s
  | .drainWindowClose core => Sys2Proof.Machine.execDrainWindowClose core s
  | .contextSwitch core => Sys2Proof.Machine.execContextSwitch core s
  | .contextHandover core => Sys2Proof.Machine.execContextHandover core s
  | .contextRestore core asid => Sys2Proof.Machine.execContextRestore core asid s
  | .typedBufferStream core => Sys2Proof.Machine.execTypedBufferStream core s
  | .wayConversionDone die => Sys2Proof.Machine.execWayConversionDone die s
  | .dirtySectorWriteback die n => Sys2Proof.Machine.execDirtySectorWriteback die n s
  | .eccError place sector correctable => Sys2Proof.Machine.execEccError place sector correctable s
  | .persistentStackFail stack => Sys2Proof.Machine.execPersistentStackFail stack s
  | .powerSlot cluster => Sys2Proof.Machine.execPowerSlot cluster s
  | .energyUpdate cluster total shares system => Sys2Proof.Machine.execEnergyUpdate cluster total shares system s
  | .freqHandover cluster => Sys2Proof.Machine.execFreqHandover cluster s
  | .snapshotFrameCopy => Sys2Proof.Machine.execSnapshotFrameCopy s
  | .closeNotice node step => Sys2Proof.Machine.execCloseNotice node step s
  | .snapshotComplete => Sys2Proof.Machine.execSnapshotComplete s
  | .parityCompute slotEqual => Sys2Proof.Machine.execParityCompute slotEqual s
  | .snapshotProtected acked => Sys2Proof.Machine.execSnapshotProtected acked s
  | .startup env => Sys2Proof.Machine.execStartup env s
  | .pfail => Sys2Proof.Machine.execPfail s
  | .hostLinkLoss => Sys2Proof.Machine.execHostLinkLoss s
  | .tailWatch q => Sys2Proof.Machine.execTailWatch q s
  | .acceptanceRound => Sys2Proof.Machine.execAcceptanceRound s
  | .headAdvance q => Sys2Proof.Machine.execHeadAdvance q s
  | .cxlMemRead pwin off => Sys2Proof.Machine.execCxlMemRead pwin off s
  | .cxlMemWrite pwin off bytes => Sys2Proof.Machine.execCxlMemWrite pwin off bytes s
  | .idleFlit port => Sys2Proof.Machine.execIdleFlit port s
  | .nodeLost node => Sys2Proof.Machine.execNodeLost node s
  | .lostNodeNotice node => Sys2Proof.Machine.execLostNodeNotice node s
  | .reductionContribution slot con => Sys2Proof.Machine.execReductionContribution slot con s
  | .sessionComplete slot => Sys2Proof.Machine.execSessionComplete slot s
  | .sessionTimeout slot => Sys2Proof.Machine.execSessionTimeout slot s
  | .earlyContributionTimeout n => Sys2Proof.Machine.execEarlyContributionTimeout n s
  | .roceSend op => Sys2Proof.Machine.execRoceSend op s
  | .rdmaWrite op => Sys2Proof.Machine.execRdmaWrite op s
  | .rdmaWriteImm op => Sys2Proof.Machine.execRdmaWriteImm op s
  | .rdmaRead op => Sys2Proof.Machine.execRdmaRead op s
  | .qcfgWrite q v => Sys2Proof.Machine.execQcfgWrite q v s
  | .cancel v => Sys2Proof.Machine.execCancel v s
  | .jlowWrite v => Sys2Proof.Machine.execJlowWrite v s
  | .ctxbaseWrite v => Sys2Proof.Machine.execCtxbaseWrite v s
  | .tlbinvPage va rsv asid => Sys2Proof.Machine.execTlbinvPage va rsv asid s
  | .tlbinvAsid va rsv asid => Sys2Proof.Machine.execTlbinvAsid va rsv asid s
  | .tlbinvAll va rsv asid => Sys2Proof.Machine.execTlbinvAll va rsv asid s
  | .tlbinvDone => Sys2Proof.Machine.execTlbinvDone s
  | .frrespRetry id rsv => Sys2Proof.Machine.execFrrespRetry id rsv s
  | .frrespAbort id rsv => Sys2Proof.Machine.execFrrespAbort id rsv s
  | .dbgres v => Sys2Proof.Machine.execDbgres v s
  | .deadMark v => Sys2Proof.Machine.execDeadMark v s
  | .deadQuery v => Sys2Proof.Machine.execDeadQuery v s
  | .deadMarkDone => Sys2Proof.Machine.execDeadMarkDone s
  | .ksqry v => Sys2Proof.Machine.execKsqry v s
  | .stagingConfigWrite die v => Sys2Proof.Machine.execStagingConfigWrite die v s
  | .cpwrWrite cluster v => Sys2Proof.Machine.execCpwrWrite cluster v s
  | .eclrContext rsv idx => Sys2Proof.Machine.execEclrContext rsv idx s
  | .eclrCluster rsv idx => Sys2Proof.Machine.execEclrCluster rsv idx s
  | .eclrSystem rsv idx => Sys2Proof.Machine.execEclrSystem rsv idx s
  | .nodecfgWrite v => Sys2Proof.Machine.execNodecfgWrite v s
  | .abortHold rsv asid => Sys2Proof.Machine.execAbortHold rsv asid s
  | .abortRelease rsv asid => Sys2Proof.Machine.execAbortRelease rsv asid s
  | .restoreSnapshot v => Sys2Proof.Machine.execRestoreSnapshot v s
  | .rebuildManifest v => Sys2Proof.Machine.execRebuildManifest v s
  | .sessionOpen slot v => Sys2Proof.Machine.execSessionOpen slot v s
  | .sessionClose slot v => Sys2Proof.Machine.execSessionClose slot v s
  | .registerWrite place v size src => Sys2Proof.Machine.execRegisterWrite place v size src s
  | .rdctr src sel idx w => Sys2Proof.Machine.execRdctr src sel idx w s
  | .rdjrnl src seq count => Sys2Proof.Machine.execRdjrnl src seq count s
  | .rdflog src asid k => Sys2Proof.Machine.execRdflog src asid k s
  | .rderr src k => Sys2Proof.Machine.execRderr src k s
  | .rdstat src => Sys2Proof.Machine.execRdstat src s
  | .clrstart src => Sys2Proof.Machine.execClrstart src s
  | .pldmBase req => Sys2Proof.Machine.execPldmBase req s
  | .pldmMonitoring req => Sys2Proof.Machine.execPldmMonitoring req s
  | .pldmFruData req => Sys2Proof.Machine.execPldmFruData req s
  | .pldmFirmwareUpdate image version sigs interrupted => Sys2Proof.Machine.execPldmFirmwareUpdate image version sigs interrupted s
  | .getVersion => Sys2Proof.Machine.execGetVersion s
  | .getCapabilities => Sys2Proof.Machine.execGetCapabilities s
  | .negotiateAlgorithms offered => Sys2Proof.Machine.execNegotiateAlgorithms offered s
  | .getDigests => Sys2Proof.Machine.execGetDigests s
  | .getCertificate slot => Sys2Proof.Machine.execGetCertificate slot s
  | .challenge slot nonce => Sys2Proof.Machine.execChallenge slot nonce s
  | .getMeasurements index => Sys2Proof.Machine.execGetMeasurements index s
  | .keyExchange share => Sys2Proof.Machine.execKeyExchange share s
  | .spdmFinish verifies => Sys2Proof.Machine.execSpdmFinish verifies s
  | .endSession session => Sys2Proof.Machine.execEndSession session s
  | .keySlotLoad session slot asid key => Sys2Proof.Machine.execKeySlotLoad session slot asid key s
  | .keySlotErase session slot => Sys2Proof.Machine.execKeySlotErase session slot s
  | .hostSnoop addr own => Sys2Proof.Machine.execHostSnoop addr own s
  | .writeCombiningDrain core n => Sys2Proof.Machine.execWriteCombiningDrain core n s
  | .writeBackQueueDrain stack => Sys2Proof.Machine.execWriteBackQueueDrain stack s
  | .hostLinkTrain mode => Sys2Proof.Machine.execHostLinkTrain mode s
  | .spacenPortTrain port up => Sys2Proof.Machine.execSpacenPortTrain port up s
  | .restoreDone => Sys2Proof.Machine.execRestoreDone s
  | .streamComplete core => Sys2Proof.Machine.execStreamComplete core s
  | .roceReceive port pkt => Sys2Proof.Machine.execRoceReceive port pkt s
  | .ideKeySet session proto key => Sys2Proof.Machine.execIdeKeySet session proto key s

end Sys2Proof.Machine
end

