-- ==== Sys2Proof/Decode.lean ====
section
/-! DEFINITION. From words to instructions and back: group words (R186 to R195), companion words (R334, R336), the
encoders, and decodeTableWord. Decoding is total: a word that is no instruction is refused by name. -/

namespace Sys2Proof

/-- Why a word is no instruction. -/
inductive Reject where
  /-- The opcode, or the companion encoding, is not assigned (R195, R334): ILLEGAL_OPCODE. -/
  | illegalOpcode
  /-- A field of an assigned opcode holds a value that R192 refuses: ILLEGAL_FIELD. -/
  | illegalField
  deriving DecidableEq, Repr

/-! ## Fields of a group word -/

/-- Bits [9:0]. -/
def opOf (w : W64) : BitVec 10 := w.extractLsb' 0 10
/-- Byte n of the word. -/
def byteOf (w : W64) (n : Nat) : BitVec 8 := w.extractLsb' (8 * n) 8
/-- Bits [17:10] (R186). -/
def getHd (w : W64) : Hd :=
  { u := w.getLsbD 17, sb := w.extractLsb' 14 3, gn := w.getLsbD 13, g := w.extractLsb' 10 3 }
/-- Bits [23:18] (R190). -/
def getLow (w : W64) : Low :=
  { b23 := w.getLsbD 23, b22 := w.getLsbD 22, b21 := w.getLsbD 21, m := w.extractLsb' 18 3 }
/-- Format R (R187). -/
def getFmtR (w : W64) : FmtR :=
  { hd := getHd w, lo := getLow w, d := byteOf w 3, a := byteOf w 4, b := byteOf w 5, c := byteOf w 6, h := byteOf w 7 }
/-- Format I24 (R187). -/
def getFmtI24 (w : W64) : FmtI24 :=
  { hd := getHd w, lo := getLow w, d := byteOf w 3, a := byteOf w 4, imm := w.extractLsb' 40 24 }
/-- Format I32 (R187). -/
def getFmtI32 (w : W64) : FmtI32 :=
  { hd := getHd w, lo := getLow w, d := byteOf w 3, imm := w.extractLsb' 32 32 }
/-- Format M (R187). -/
def getFmtM (w : W64) : FmtM :=
  { hd := getHd w, lo := getLow w, d := byteOf w 3, dm := w.extractLsb' 38 2, lh := w.extractLsb' 32 6
    cr := byteOf w 5, off := w.extractLsb' 48 16 }
/-- Format C (R187). -/
def getFmtC (w : W64) : FmtC :=
  { hd := getHd w, lo := getLow w, d := byteOf w 3, off := w.extractLsb' 32 32 }
/-- Variant RE (R188). -/
def getFmtRE (w : W64) : FmtRE :=
  { hd := getHd w, spec := w.extractLsb' 21 3, rm := w.extractLsb' 18 3, rge := w.getLsbD 31, fut := w.getLsbD 30
    ds := w.extractLsb' 24 6, lsz := w.extractLsb' 38 2, ls := w.extractLsb' 32 6, ldz := w.extractLsb' 46 2
    ldh := w.extractLsb' 40 6, ring := w.extractLsb' 54 3, sa := w.extractLsb' 48 6, bi := w.extractLsb' 57 7 }
/-- Variant SY (R188). -/
def getFmtSY (w : W64) : FmtSY :=
  { hd := getHd w, lo := getLow w, d := byteOf w 3, srn := w.extractLsb' 32 12, z4 := w.extractLsb' 44 4
    z16 := w.extractLsb' 48 16 }
/-- Variant MA (R188). -/
def getFmtMA (w : W64) : FmtMA :=
  { hd := getHd w, op := w.extractLsb' 18 6, d := byteOf w 3, dm := w.extractLsb' 38 2, lh := w.extractLsb' 32 6
    cr := byteOf w 5, b := byteOf w 6, z := w.extractLsb' 62 2, w64 := w.getLsbD 61, ord := w.extractLsb' 59 2
    sco := w.extractLsb' 56 3 }

/-- One bit. -/
def bit1 (b : Bool) : BitVec 1 := BitVec.ofBool b
/-- Bits [17:10] followed by the opcode. -/
def putHd (h : Hd) (op : BitVec 10) : BitVec 18 := bit1 h.u ++ h.sb ++ bit1 h.gn ++ h.g ++ op
/-- Bits [23:0]. -/
def putLow (h : Hd) (l : Low) (op : BitVec 10) : BitVec 24 := bit1 l.b23 ++ bit1 l.b22 ++ bit1 l.b21 ++ l.m ++ putHd h op
/-- Format R. -/
def putFmtR (x : FmtR) (op : BitVec 10) : W64 := x.h ++ x.c ++ x.b ++ x.a ++ x.d ++ putLow x.hd x.lo op
/-- Format I24. -/
def putFmtI24 (x : FmtI24) (op : BitVec 10) : W64 := x.imm ++ x.a ++ x.d ++ putLow x.hd x.lo op
/-- Format I32. -/
def putFmtI32 (x : FmtI32) (op : BitVec 10) : W64 := x.imm ++ x.d ++ putLow x.hd x.lo op
/-- Format M. -/
def putFmtM (x : FmtM) (op : BitVec 10) : W64 := x.off ++ x.cr ++ x.dm ++ x.lh ++ x.d ++ putLow x.hd x.lo op
/-- Format C. -/
def putFmtC (x : FmtC) (op : BitVec 10) : W64 := x.off ++ x.d ++ putLow x.hd x.lo op
/-- Variant RE: RING[1:0] stands in [55:54] and RING[2] in [56], so the field is contiguous. -/
def putFmtRE (x : FmtRE) (op : BitVec 10) : W64 :=
  x.bi ++ x.ring ++ x.sa ++ x.ldz ++ x.ldh ++ x.lsz ++ x.ls ++ bit1 x.rge ++ bit1 x.fut ++ x.ds ++ x.spec ++ x.rm
    ++ putHd x.hd op
/-- Variant SY. -/
def putFmtSY (x : FmtSY) (op : BitVec 10) : W64 := x.z16 ++ x.z4 ++ x.srn ++ x.d ++ putLow x.hd x.lo op
/-- Variant MA. -/
def putFmtMA (x : FmtMA) (op : BitVec 10) : W64 :=
  x.z ++ bit1 x.w64 ++ x.ord ++ x.sco ++ x.b ++ x.cr ++ x.dm ++ x.lh ++ x.d ++ x.op ++ putHd x.hd op

/-! ## The opcode map (R195) -/

/-- Integer and logic: opcodes 0x000 to 0x07F (R195). -/
def decodeInt (w : W64) : Option Instr :=
  match (opOf w).toNat with
  | 0x000 => some (.nop (getFmtR w))
  | 0x001 => some (if w.getLsbD 23 then .iaddI24 (getFmtI24 w) else .iadd (getFmtR w))
  | 0x002 => some (if w.getLsbD 23 then .isubI24 (getFmtI24 w) else .isub (getFmtR w))
  | 0x003 => some (.iaddc (getFmtR w))
  | 0x004 => some (if w.getLsbD 23 then .imulI24 (getFmtI24 w) else .imul (getFmtR w))
  | 0x005 => some (.imulh (getFmtR w))
  | 0x006 => some (.imad (getFmtR w))
  | 0x007 => some (.imadw (getFmtR w))
  | 0x008 => some (if w.getLsbD 23 then .iminI24 (getFmtI24 w) else .imin (getFmtR w))
  | 0x009 => some (if w.getLsbD 23 then .imaxI24 (getFmtI24 w) else .imax (getFmtR w))
  | 0x00A => some (.iabs (getFmtR w))
  | 0x00B => some (.ineg (getFmtR w))
  | 0x00C => some (.idot4 (getFmtR w))
  | 0x00D => some (.lop (getFmtR w))
  | 0x00E => some (if w.getLsbD 23 then .shlI24 (getFmtI24 w) else .shl (getFmtR w))
  | 0x00F => some (if w.getLsbD 23 then .shrI24 (getFmtI24 w) else .shr (getFmtR w))
  | 0x010 => some (if w.getLsbD 23 then .sarI24 (getFmtI24 w) else .sar (getFmtR w))
  | 0x011 => some (.shf (getFmtR w))
  | 0x012 => some (if w.getLsbD 23 then .bfxI24 (getFmtI24 w) else .bfx (getFmtR w))
  | 0x013 => some (.bfi (getFmtR w))
  | 0x014 => some (.popc (getFmtR w))
  | 0x015 => some (.clz (getFmtR w))
  | 0x016 => some (.brev (getFmtR w))
  | 0x017 => some (if w.getLsbD 23 then .icmpI24 (getFmtI24 w) else .icmp (getFmtR w))
  | 0x018 => some (.sel (getFmtR w))
  | 0x019 => some (.mov (getFmtR w))
  | 0x01A => some (.movi (getFmtI32 w))
  | 0x01B => some (.prmt (getFmtR w))
  | 0x01C => some (.gfmul (getFmtR w))
  | 0x01D => some (.gfmac (getFmtR w))
  | 0x01E => some (.crc32c (getFmtR w))
  | 0x01F => some (.plop (getFmtR w))
  | _ => none

/-- Float: opcodes 0x080 to 0x0FF (R195). -/
def decodeFloat (w : W64) : Option Instr :=
  match (opOf w).toNat with
  | 0x080 => some (if w.getLsbD 23 then .faddI24 (getFmtI24 w) else .fadd (getFmtR w))
  | 0x081 => some (if w.getLsbD 23 then .fmulI24 (getFmtI24 w) else .fmul (getFmtR w))
  | 0x082 => some (.ffma (getFmtR w))
  | 0x083 => some (if w.getLsbD 23 then .fminI24 (getFmtI24 w) else .fmin (getFmtR w))
  | 0x084 => some (if w.getLsbD 23 then .fmaxI24 (getFmtI24 w) else .fmax (getFmtR w))
  | 0x085 => some (if w.getLsbD 23 then .fcmpI24 (getFmtI24 w) else .fcmp (getFmtR w))
  | 0x086 => some (.fclass (getFmtR w))
  | 0x087 => some (.frnd (getFmtR w))
  | 0x088 => some (.frcp (getFmtR w))
  | 0x089 => some (.frsq (getFmtR w))
  | 0x08A => some (.fsqrt (getFmtR w))
  | 0x08B => some (.fdiv (getFmtR w))
  | 0x08C => some (.fexp2 (getFmtR w))
  | 0x08D => some (.flog2 (getFmtR w))
  | 0x08E => some (.fsin (getFmtR w))
  | 0x08F => some (.fcos (getFmtR w))
  | 0x090 => some (.ftanh (getFmtR w))
  | 0x091 => some (.fsigm (getFmtR w))
  | 0x092 => some (.fscale (getFmtR w))
  | 0x093 => some (.fexpo (getFmtR w))
  | 0x094 => some (.hadd2 (getFmtR w))
  | 0x095 => some (.hmul2 (getFmtR w))
  | 0x096 => some (.hfma2 (getFmtR w))
  | 0x097 => some (.hmin2 (getFmtR w))
  | 0x098 => some (.hmax2 (getFmtR w))
  | 0x099 => some (.fdot2 (getFmtR w))
  | _ => none

/-- Conversion: opcodes 0x100 to 0x13F (R195). -/
def decodeConv (w : W64) : Option Instr :=
  match (opOf w).toNat with
  | 0x100 => some (.cvtF2f (getFmtR w))
  | 0x101 => some (.cvtF2i (getFmtR w))
  | 0x102 => some (.cvtI2f (getFmtR w))
  | 0x103 => some (.cvtI2i (getFmtR w))
  | 0x104 => some (.pack (getFmtR w))
  | 0x105 => some (.unpack (getFmtR w))
  | 0x106 => some (.qnt (getFmtR w))
  | 0x107 => some (.dqnt (getFmtR w))
  | _ => none

/-- Lane: opcodes 0x140 to 0x17F (R195). -/
def decodeLane (w : W64) : Option Instr :=
  match (opOf w).toNat with
  | 0x140 => some (.shfl (getFmtR w))
  | 0x141 => some (.bcst (getFmtR w))
  | 0x142 => some (.vote (getFmtR w))
  | 0x143 => some (.matchLanes (getFmtR w))
  | 0x144 => some (.redux (getFmtR w))
  | 0x145 => some (.fredux (getFmtR w))
  | 0x146 => some (.scan (getFmtR w))
  | 0x147 => some (.s2v (getFmtR w))
  | 0x148 => some (.v2s (getFmtR w))
  | _ => none

/-- Memory: opcodes 0x180 to 0x1FF (R195). -/
def decodeMem (w : W64) : Option Instr :=
  match (opOf w).toNat with
  | 0x180 => some (.ld (getFmtM w))
  | 0x181 => some (.st (getFmtM w))
  | 0x182 => some (.ldu (getFmtM w))
  | 0x183 => some (.stu (getFmtM w))
  | 0x184 => some (.ldf (getFmtM w))
  | 0x185 => some (.stf (getFmtM w))
  | 0x186 => some (.pref (getFmtM w))
  | 0x187 => some (.cctl (getFmtM w))
  | 0x188 => some (if w.getLsbD 23 then .ltsubInv (getFmtR w) else .ltsub (getFmtR w))
  | 0x189 => some (.ltqry (getFmtR w))
  | _ => none

/-- Atomics and futures: opcodes 0x200 to 0x23F (R195). -/
def decodeAtom (w : W64) : Option Instr :=
  match (opOf w).toNat with
  | 0x200 => some (.atom (getFmtMA w))
  | 0x201 => some (.atomf (getFmtMA w))
  | 0x202 => some (.cas (getFmtMA w))
  | 0x203 => some (.red (getFmtMA w))
  | 0x204 => some (.redf (getFmtMA w))
  | 0x205 => some (.redd (getFmtMA w))
  | 0x206 => some (.redflush (getFmtR w))
  | 0x207 => some (.ffill (getFmtMA w))
  | 0x208 => some (.fwait (getFmtMA w))
  | 0x209 => some (.freset (getFmtMA w))
  | 0x20A => some (.waita (getFmtMA w))
  | _ => none

/-- Synchronisation: opcodes 0x240 to 0x27F (R195). -/
def decodeSync (w : W64) : Option Instr :=
  match (opOf w).toNat with
  | 0x240 => some (.bari (getFmtR w))
  | 0x241 => some (.bara (getFmtR w))
  | 0x242 => some (.barw (getFmtR w))
  | 0x243 => some (.bars (getFmtR w))
  | 0x244 => some (.barq (getFmtR w))
  | 0x245 => some (.fence (getFmtR w))
  | 0x246 => some (.pfence (getFmtR w))
  | 0x247 => some (.psync (getFmtR w))
  | 0x248 => some (.stepClose (getFmtR w))
  | 0x249 => some (.snap (getFmtR w))
  | _ => none

/-- Control: opcodes 0x280 to 0x2BF (R195). -/
def decodeCtl (w : W64) : Option Instr :=
  match (opOf w).toNat with
  | 0x280 => some (.bra (getFmtC w))
  | 0x281 => some (.brx (getFmtR w))
  | 0x282 => some (.call (getFmtC w))
  | 0x283 => some (.callx (getFmtR w))
  | 0x284 => some (.ret (getFmtR w))
  | 0x285 => some (.meet (getFmtC w))
  | 0x286 => some (.join (getFmtR w))
  | 0x287 => some (.exitLanes (getFmtR w))
  | 0x288 => some (.yieldTurn (getFmtR w))
  | 0x289 => some (.sleep (getFmtI24 w))
  | 0x28A => some (.phint (getFmtI24 w))
  | 0x28B => some (.trap (getFmtI24 w))
  | 0x28C => some (.bkpt (getFmtI24 w))
  | _ => none

/-- Matrix and rings: opcodes 0x2C0 to 0x2FF (R195). -/
def decodeMat (w : W64) : Option Instr :=
  match (opOf w).toNat with
  | 0x2C0 => some (.qmma (getFmtR w))
  | 0x2C1 => some (.qmmb (getFmtR w))
  | 0x2C2 => some (.qzero (getFmtR w))
  | 0x2C3 => some (.qmov (getFmtR w))
  | 0x2C4 => some (.mxcfg (getFmtR w))
  | 0x2C5 => some (.mxw (getFmtR w))
  | 0x2C6 => some (.mxmm (getFmtR w))
  | 0x2C7 => some (.mxscan (getFmtR w))
  | 0x2C8 => some (.mxepi (getFmtR w))
  | 0x2C9 => some (.mxt (getFmtR w))
  | 0x2CA => some (if w.getLsbD 23 then .rgsetClr (getFmtR w) else .rgset (getFmtR w))
  | 0x2CB => some (.rgput (getFmtR w))
  | 0x2CC => some (.rgget (getFmtR w))
  | 0x2CD => some (.rgqry (getFmtR w))
  | _ => none

/-- Copy and tasks: opcodes 0x300 to 0x33F (R195). -/
def decodeCopy (w : W64) : Option Instr :=
  match (opOf w).toNat with
  | 0x300 => some (.cpt (getFmtRE w))
  | 0x301 => some (.cpg (getFmtRE w))
  | 0x302 => some (.cps (getFmtRE w))
  | 0x303 => some (.cpf (getFmtRE w))
  | 0x304 => some (.cpr (getFmtRE w))
  | 0x305 => some (.cpput (getFmtRE w))
  | 0x306 => some (.cpget (getFmtRE w))
  | 0x307 => some (.cpc (getFmtR w))
  | 0x308 => some (.cpq (getFmtR w))
  | 0x309 => some (.tspawn (getFmtC w))
  | 0x30A => some (.tchild (getFmtR w))
  | 0x30B => some (.twait (getFmtR w))
  | 0x30C => some (.targ (getFmtR w))
  | 0x30D => some (.stage (getFmtM w))
  | _ => none

/-- System: opcodes 0x340 to 0x37F (R195). -/
def decodeSys (w : W64) : Option Instr :=
  match (opOf w).toNat with
  | 0x340 => some (.rdsr (getFmtSY w))
  | 0x341 => some (.wrsr (getFmtSY w))
  | 0x342 => some (.rdcnt (getFmtSY w))
  | 0x343 => some (.rte (getFmtR w))
  | 0x344 => some (.flt (getFmtI24 w))
  | 0x345 => some (.ill (w.extractLsb' 10 54))
  | _ => none


/-- The instruction a group word names, its fields not yet checked (R192 step 1); none is ILLEGAL_OPCODE. -/
def rawDecode (w : W64) : Option Instr :=
  let o := (opOf w).toNat
  if o < 0x080 then decodeInt w else if o < 0x100 then decodeFloat w else if o < 0x140 then decodeConv w
  else if o < 0x180 then decodeLane w else if o < 0x200 then decodeMem w else if o < 0x240 then decodeAtom w
  else if o < 0x280 then decodeSync w else if o < 0x2C0 then decodeCtl w else if o < 0x300 then decodeMat w
  else if o < 0x340 then decodeCopy w else if o < 0x380 then decodeSys w else none

/-- The instruction a group word is, or the first check of R192 that refuses it. -/
def decode (w : W64) : Except Reject Instr :=
  match rawDecode w with
  | none => .error .illegalOpcode
  | some i => if i.wf then .ok i else .error .illegalField

/-- The word of a group instruction (R186 to R188, R195); none for an instruction that has no 64-bit word. -/
def encode : Instr → Option W64
  | .nop x => some (putFmtR x 0x000)
  | .iadd x => some (putFmtR x 0x001)
  | .iaddI24 x => some (putFmtI24 x 0x001)
  | .isub x => some (putFmtR x 0x002)
  | .isubI24 x => some (putFmtI24 x 0x002)
  | .iaddc x => some (putFmtR x 0x003)
  | .imul x => some (putFmtR x 0x004)
  | .imulI24 x => some (putFmtI24 x 0x004)
  | .imulh x => some (putFmtR x 0x005)
  | .imad x => some (putFmtR x 0x006)
  | .imadw x => some (putFmtR x 0x007)
  | .imin x => some (putFmtR x 0x008)
  | .iminI24 x => some (putFmtI24 x 0x008)
  | .imax x => some (putFmtR x 0x009)
  | .imaxI24 x => some (putFmtI24 x 0x009)
  | .iabs x => some (putFmtR x 0x00A)
  | .ineg x => some (putFmtR x 0x00B)
  | .idot4 x => some (putFmtR x 0x00C)
  | .lop x => some (putFmtR x 0x00D)
  | .shl x => some (putFmtR x 0x00E)
  | .shlI24 x => some (putFmtI24 x 0x00E)
  | .shr x => some (putFmtR x 0x00F)
  | .shrI24 x => some (putFmtI24 x 0x00F)
  | .sar x => some (putFmtR x 0x010)
  | .sarI24 x => some (putFmtI24 x 0x010)
  | .shf x => some (putFmtR x 0x011)
  | .bfx x => some (putFmtR x 0x012)
  | .bfxI24 x => some (putFmtI24 x 0x012)
  | .bfi x => some (putFmtR x 0x013)
  | .popc x => some (putFmtR x 0x014)
  | .clz x => some (putFmtR x 0x015)
  | .brev x => some (putFmtR x 0x016)
  | .icmp x => some (putFmtR x 0x017)
  | .icmpI24 x => some (putFmtI24 x 0x017)
  | .sel x => some (putFmtR x 0x018)
  | .mov x => some (putFmtR x 0x019)
  | .movi x => some (putFmtI32 x 0x01A)
  | .prmt x => some (putFmtR x 0x01B)
  | .gfmul x => some (putFmtR x 0x01C)
  | .gfmac x => some (putFmtR x 0x01D)
  | .crc32c x => some (putFmtR x 0x01E)
  | .plop x => some (putFmtR x 0x01F)
  | .fadd x => some (putFmtR x 0x080)
  | .faddI24 x => some (putFmtI24 x 0x080)
  | .fmul x => some (putFmtR x 0x081)
  | .fmulI24 x => some (putFmtI24 x 0x081)
  | .ffma x => some (putFmtR x 0x082)
  | .fmin x => some (putFmtR x 0x083)
  | .fminI24 x => some (putFmtI24 x 0x083)
  | .fmax x => some (putFmtR x 0x084)
  | .fmaxI24 x => some (putFmtI24 x 0x084)
  | .fcmp x => some (putFmtR x 0x085)
  | .fcmpI24 x => some (putFmtI24 x 0x085)
  | .fclass x => some (putFmtR x 0x086)
  | .frnd x => some (putFmtR x 0x087)
  | .frcp x => some (putFmtR x 0x088)
  | .frsq x => some (putFmtR x 0x089)
  | .fsqrt x => some (putFmtR x 0x08A)
  | .fdiv x => some (putFmtR x 0x08B)
  | .fexp2 x => some (putFmtR x 0x08C)
  | .flog2 x => some (putFmtR x 0x08D)
  | .fsin x => some (putFmtR x 0x08E)
  | .fcos x => some (putFmtR x 0x08F)
  | .ftanh x => some (putFmtR x 0x090)
  | .fsigm x => some (putFmtR x 0x091)
  | .fscale x => some (putFmtR x 0x092)
  | .fexpo x => some (putFmtR x 0x093)
  | .hadd2 x => some (putFmtR x 0x094)
  | .hmul2 x => some (putFmtR x 0x095)
  | .hfma2 x => some (putFmtR x 0x096)
  | .hmin2 x => some (putFmtR x 0x097)
  | .hmax2 x => some (putFmtR x 0x098)
  | .fdot2 x => some (putFmtR x 0x099)
  | .cvtF2f x => some (putFmtR x 0x100)
  | .cvtF2i x => some (putFmtR x 0x101)
  | .cvtI2f x => some (putFmtR x 0x102)
  | .cvtI2i x => some (putFmtR x 0x103)
  | .pack x => some (putFmtR x 0x104)
  | .unpack x => some (putFmtR x 0x105)
  | .qnt x => some (putFmtR x 0x106)
  | .dqnt x => some (putFmtR x 0x107)
  | .shfl x => some (putFmtR x 0x140)
  | .bcst x => some (putFmtR x 0x141)
  | .vote x => some (putFmtR x 0x142)
  | .matchLanes x => some (putFmtR x 0x143)
  | .redux x => some (putFmtR x 0x144)
  | .fredux x => some (putFmtR x 0x145)
  | .scan x => some (putFmtR x 0x146)
  | .s2v x => some (putFmtR x 0x147)
  | .v2s x => some (putFmtR x 0x148)
  | .ld x => some (putFmtM x 0x180)
  | .st x => some (putFmtM x 0x181)
  | .ldu x => some (putFmtM x 0x182)
  | .stu x => some (putFmtM x 0x183)
  | .ldf x => some (putFmtM x 0x184)
  | .stf x => some (putFmtM x 0x185)
  | .pref x => some (putFmtM x 0x186)
  | .cctl x => some (putFmtM x 0x187)
  | .ltsub x => some (putFmtR x 0x188)
  | .ltsubInv x => some (putFmtR x 0x188)
  | .ltqry x => some (putFmtR x 0x189)
  | .atom x => some (putFmtMA x 0x200)
  | .atomf x => some (putFmtMA x 0x201)
  | .cas x => some (putFmtMA x 0x202)
  | .red x => some (putFmtMA x 0x203)
  | .redf x => some (putFmtMA x 0x204)
  | .redd x => some (putFmtMA x 0x205)
  | .redflush x => some (putFmtR x 0x206)
  | .ffill x => some (putFmtMA x 0x207)
  | .fwait x => some (putFmtMA x 0x208)
  | .freset x => some (putFmtMA x 0x209)
  | .waita x => some (putFmtMA x 0x20A)
  | .bari x => some (putFmtR x 0x240)
  | .bara x => some (putFmtR x 0x241)
  | .barw x => some (putFmtR x 0x242)
  | .bars x => some (putFmtR x 0x243)
  | .barq x => some (putFmtR x 0x244)
  | .fence x => some (putFmtR x 0x245)
  | .pfence x => some (putFmtR x 0x246)
  | .psync x => some (putFmtR x 0x247)
  | .stepClose x => some (putFmtR x 0x248)
  | .snap x => some (putFmtR x 0x249)
  | .bra x => some (putFmtC x 0x280)
  | .brx x => some (putFmtR x 0x281)
  | .call x => some (putFmtC x 0x282)
  | .callx x => some (putFmtR x 0x283)
  | .ret x => some (putFmtR x 0x284)
  | .meet x => some (putFmtC x 0x285)
  | .join x => some (putFmtR x 0x286)
  | .exitLanes x => some (putFmtR x 0x287)
  | .yieldTurn x => some (putFmtR x 0x288)
  | .sleep x => some (putFmtI24 x 0x289)
  | .phint x => some (putFmtI24 x 0x28A)
  | .trap x => some (putFmtI24 x 0x28B)
  | .bkpt x => some (putFmtI24 x 0x28C)
  | .qmma x => some (putFmtR x 0x2C0)
  | .qmmb x => some (putFmtR x 0x2C1)
  | .qzero x => some (putFmtR x 0x2C2)
  | .qmov x => some (putFmtR x 0x2C3)
  | .mxcfg x => some (putFmtR x 0x2C4)
  | .mxw x => some (putFmtR x 0x2C5)
  | .mxmm x => some (putFmtR x 0x2C6)
  | .mxscan x => some (putFmtR x 0x2C7)
  | .mxepi x => some (putFmtR x 0x2C8)
  | .mxt x => some (putFmtR x 0x2C9)
  | .rgset x => some (putFmtR x 0x2CA)
  | .rgsetClr x => some (putFmtR x 0x2CA)
  | .rgput x => some (putFmtR x 0x2CB)
  | .rgget x => some (putFmtR x 0x2CC)
  | .rgqry x => some (putFmtR x 0x2CD)
  | .cpt x => some (putFmtRE x 0x300)
  | .cpg x => some (putFmtRE x 0x301)
  | .cps x => some (putFmtRE x 0x302)
  | .cpf x => some (putFmtRE x 0x303)
  | .cpr x => some (putFmtRE x 0x304)
  | .cpput x => some (putFmtRE x 0x305)
  | .cpget x => some (putFmtRE x 0x306)
  | .cpc x => some (putFmtR x 0x307)
  | .cpq x => some (putFmtR x 0x308)
  | .tspawn x => some (putFmtC x 0x309)
  | .tchild x => some (putFmtR x 0x30A)
  | .twait x => some (putFmtR x 0x30B)
  | .targ x => some (putFmtR x 0x30C)
  | .stage x => some (putFmtM x 0x30D)
  | .rdsr x => some (putFmtSY x 0x340)
  | .wrsr x => some (putFmtSY x 0x341)
  | .rdcnt x => some (putFmtSY x 0x342)
  | .rte x => some (putFmtR x 0x343)
  | .flt x => some (putFmtI24 x 0x344)
  | .ill bits => some (bits ++ 0x345#10)
  | _ => none

/-! ## Companion words (R334, R336) -/

/-- Fields of a 32-bit RISC-V word. -/
def rvOpcode (w : W32) : Nat := (w.extractLsb' 0 7).toNat
def rvRd (w : W32) : XReg := w.extractLsb' 7 5
def rvRs1 (w : W32) : XReg := w.extractLsb' 15 5
def rvRs2 (w : W32) : XReg := w.extractLsb' 20 5
def rvF3 (w : W32) : Nat := (w.extractLsb' 12 3).toNat
def rvF7 (w : W32) : BitVec 7 := w.extractLsb' 25 7
def rvImmI (w : W32) : BitVec 12 := w.extractLsb' 20 12

/-- Custom-0 and custom-1 (R336). -/
def decodeCustom (w : W32) : Option Instr :=
  let rd := rvRd w; let rs1 := rvRs1 w; let rs2 := rvRs2 w; let f7 := rvF7 w
  if rvOpcode w = 0x0B then
    if rs2 != 0 then none
    else if rvF3 w = 7 then
      (if f7 = 0 then some (.kcpqState ⟨rd, rs1⟩) else if f7 = 1 then some (.kcpqDone ⟨rd, rs1⟩) else none)
    else if f7 != 0 then none
    else match rvF3 w with
      | 0 => some (.kcpt ⟨rd, rs1⟩) | 1 => some (.kcpg ⟨rd, rs1⟩) | 2 => some (.kcps ⟨rd, rs1⟩)
      | 3 => some (.kcpf ⟨rd, rs1⟩) | 4 => some (.kcpr ⟨rd, rs1⟩) | 5 => some (.kcpput ⟨rd, rs1⟩)
      | _ => some (.kcpget ⟨rd, rs1⟩)
  else match rvF3 w with
    | 0 => if rd == 0 && f7 == 0 then some (.kbara ⟨rs1, rs2⟩) else none
    | 1 => if rd == 0 && f7.extractLsb' 3 4 == 0 then some (.kbarw ⟨f7.extractLsb' 0 2, f7.getLsbD 2, rs1, rs2⟩) else none
    | 2 => if rd == 0 && f7.extractLsb' 1 6 == 0 then some (.krgput ⟨f7.getLsbD 0, rs1, rs2⟩) else none
    | 3 => if rd == 0 && f7.extractLsb' 1 6 == 0 then some (.krgget ⟨f7.getLsbD 0, rs1, rs2⟩) else none
    | 4 => let x : KLt := ⟨f7.extractLsb' 0 6, rd, rs1, rs2⟩
           if f7.getLsbD 6 then some (.kltSw x) else some (.kltLw x)
    | _ => none

/-- OP-IMM and its shift and one-operand forms (RV32I, Zbb). Log entry 7. -/
def decodeOpImm (w : W32) : Option Rv :=
  let rd := rvRd w; let rs1 := rvRs1 w; let imm := rvImmI w; let f7 := (rvF7 w).toNat; let sh := rvRs2 w
  match rvF3 w with
  | 0 => some (.opImm .addi rd rs1 imm) | 2 => some (.opImm .slti rd rs1 imm) | 3 => some (.opImm .sltiu rd rs1 imm)
  | 4 => some (.opImm .xori rd rs1 imm) | 6 => some (.opImm .ori rd rs1 imm) | 7 => some (.opImm .andi rd rs1 imm)
  | 1 => if f7 = 0 then some (.shift .slli rd rs1 sh)
         else if f7 = 0x30 then
           match sh.toNat with
           | 0 => some (.unary .clz rd rs1) | 1 => some (.unary .ctz rd rs1) | 2 => some (.unary .cpop rd rs1)
           | 4 => some (.unary .sextb rd rs1) | 5 => some (.unary .sexth rd rs1) | _ => none
         else none
  | _ => if f7 = 0 then some (.shift .srli rd rs1 sh) else if f7 = 0x20 then some (.shift .srai rd rs1 sh)
         else if f7 = 0x30 then some (.shift .rori rd rs1 sh)
         else if imm = 0x287 then some (.unary .orcb rd rs1) else if imm = 0x698 then some (.unary .rev8 rd rs1)
         else none

/-- OP (RV32I, M, Zba, Zbb). Log entry 7. -/
def decodeOp (w : W32) : Option Rv :=
  let rd := rvRd w; let rs1 := rvRs1 w; let rs2 := rvRs2 w
  let r (o : RegOp) : Option Rv := some (.op o rd rs1 rs2)
  match (rvF7 w).toNat, rvF3 w with
  | 0x00, 0 => r .add | 0x00, 1 => r .sll | 0x00, 2 => r .slt | 0x00, 3 => r .sltu
  | 0x00, 4 => r .xor | 0x00, 5 => r .srl | 0x00, 6 => r .or | 0x00, 7 => r .and
  | 0x20, 0 => r .sub | 0x20, 5 => r .sra | 0x20, 7 => r .andn | 0x20, 6 => r .orn | 0x20, 4 => r .xnor
  | 0x01, 0 => r .mul | 0x01, 1 => r .mulh | 0x01, 2 => r .mulhsu | 0x01, 3 => r .mulhu
  | 0x01, 4 => r .div | 0x01, 5 => r .divu | 0x01, 6 => r .rem | 0x01, 7 => r .remu
  | 0x10, 2 => r .sh1add | 0x10, 4 => r .sh2add | 0x10, 6 => r .sh3add
  | 0x05, 4 => r .min | 0x05, 5 => r .minu | 0x05, 6 => r .max | 0x05, 7 => r .maxu
  | 0x30, 1 => r .rol | 0x30, 5 => r .ror
  | 0x04, 4 => if rs2 = 0 then some (.unary .zexth rd rs1) else none
  | _, _ => none

/-- SYSTEM (Zicsr and the instructions of R334). -/
def decodeSystem (w : W32) : Option Instr :=
  let c (o : CsrOp) (imm : Bool) : Option Instr := some (.rv32 false (.csr o imm (rvRd w) (rvImmI w) (rvRs1 w)))
  match rvF3 w with
  | 1 => c .rw false | 2 => c .rs false | 3 => c .rc false
  | 5 => c .rw true | 6 => c .rs true | 7 => c .rc true
  | 0 => if w = 0x00000073#32 then some .ecall else if w = 0x00100073#32 then some (.ebreak false)
         else if w = 0x10500073#32 then some .wfi else none
  | _ => none

/-- A 32-bit companion word; none faults ILLEGAL_OPCODE (R334). -/
def decodeK32 (w : W32) : Option Instr :=
  let rd := rvRd w; let rs1 := rvRs1 w; let rs2 := rvRs2 w; let imm := rvImmI w
  let i (x : Rv) : Option Instr := some (.rv32 false x)
  match rvOpcode w with
  | 0x37 => i (.lui rd (w.extractLsb' 12 20))
  | 0x17 => i (.auipc rd (w.extractLsb' 12 20))
  | 0x6F => i (.jal rd (w.extractLsb' 31 1 ++ w.extractLsb' 12 8 ++ w.extractLsb' 20 1 ++ w.extractLsb' 21 10))
  | 0x67 => if rvF3 w = 0 then i (.jalr rd rs1 imm) else none
  | 0x63 =>
    let im : BitVec 12 := w.extractLsb' 31 1 ++ w.extractLsb' 7 1 ++ w.extractLsb' 25 6 ++ w.extractLsb' 8 4
    match rvF3 w with
    | 0 => i (.branch .beq rs1 rs2 im) | 1 => i (.branch .bne rs1 rs2 im) | 4 => i (.branch .blt rs1 rs2 im)
    | 5 => i (.branch .bge rs1 rs2 im) | 6 => i (.branch .bltu rs1 rs2 im) | 7 => i (.branch .bgeu rs1 rs2 im)
    | _ => none
  | 0x03 =>
    match rvF3 w with
    | 0 => i (.load .lb rd rs1 imm) | 1 => i (.load .lh rd rs1 imm) | 2 => i (.load .lw rd rs1 imm)
    | 4 => i (.load .lbu rd rs1 imm) | 5 => i (.load .lhu rd rs1 imm) | _ => none
  | 0x23 =>
    let im : BitVec 12 := w.extractLsb' 25 7 ++ w.extractLsb' 7 5
    match rvF3 w with
    | 0 => i (.store .sb rs1 rs2 im) | 1 => i (.store .sh rs1 rs2 im) | 2 => i (.store .sw rs1 rs2 im) | _ => none
  | 0x13 => (decodeOpImm w).map (.rv32 false)
  | 0x33 => (decodeOp w).map (.rv32 false)
  | 0x0F => if rvF3 w = 0 then
      some (.companionFence (w.extractLsb' 28 4) (w.extractLsb' 24 4) (w.extractLsb' 20 4) rs1 rd) else none
  | 0x73 => decodeSystem w
  | 0x0B => decodeCustom w
  | 0x2B => decodeCustom w
  | _ => none

/-- x8 to x15, the registers of the short fields of a compressed word. -/
def rvcReg (h : BitVec 16) (lo : Nat) : XReg := 0b01#2 ++ h.extractLsb' lo 3

/-- The compressed words of quadrant 0 (C extension). Log entry 7. -/
def decodeC0 (h : BitVec 16) : Option Rv :=
  let off : BitVec 12 := 0#5 ++ h.extractLsb' 5 1 ++ h.extractLsb' 10 3 ++ h.extractLsb' 6 1 ++ 0#2
  match (h.extractLsb' 13 3).toNat with
  | 0 => let im : BitVec 12 := 0#2 ++ h.extractLsb' 7 4 ++ h.extractLsb' 11 2 ++ h.extractLsb' 5 1 ++ h.extractLsb' 6 1 ++ 0#2
         if im = 0 then none else some (.opImm .addi (rvcReg h 2) 2 im)
  | 2 => some (.load .lw (rvcReg h 2) (rvcReg h 7) off)
  | 6 => some (.store .sw (rvcReg h 7) (rvcReg h 2) off)
  | _ => none

/-- The compressed words of quadrant 1. Log entry 7. -/
def decodeC1 (h : BitVec 16) : Option Rv :=
  let rd : XReg := h.extractLsb' 7 5
  let im6 : BitVec 6 := h.extractLsb' 12 1 ++ h.extractLsb' 2 5
  let jmp : BitVec 20 := (h.extractLsb' 12 1 ++ h.extractLsb' 8 1 ++ h.extractLsb' 9 2 ++ h.extractLsb' 6 1
    ++ h.extractLsb' 7 1 ++ h.extractLsb' 2 1 ++ h.extractLsb' 11 1 ++ h.extractLsb' 3 3).signExtend 20
  let br : BitVec 12 := (h.extractLsb' 12 1 ++ h.extractLsb' 5 2 ++ h.extractLsb' 2 1 ++ h.extractLsb' 10 2
    ++ h.extractLsb' 3 2).signExtend 12
  let r := rvcReg h 7
  match (h.extractLsb' 13 3).toNat with
  | 0 => some (.opImm .addi rd rd (im6.signExtend 12))
  | 1 => some (.jal 1 jmp)
  | 2 => some (.opImm .addi rd 0 (im6.signExtend 12))
  | 3 => if rd = 2 then
           let im : BitVec 12 := (h.extractLsb' 12 1 ++ h.extractLsb' 3 2 ++ h.extractLsb' 5 1 ++ h.extractLsb' 2 1
             ++ h.extractLsb' 6 1 ++ 0#4).signExtend 12
           if im = 0 then none else some (.opImm .addi 2 2 im)
         else if im6 = 0 then none else some (.lui rd (im6.signExtend 20))
  | 4 => match (h.extractLsb' 10 2).toNat with
         | 0 => if h.getLsbD 12 then none else some (.shift .srli r r (h.extractLsb' 2 5))
         | 1 => if h.getLsbD 12 then none else some (.shift .srai r r (h.extractLsb' 2 5))
         | 2 => some (.opImm .andi r r (im6.signExtend 12))
         | _ => if h.getLsbD 12 then none
                else match (h.extractLsb' 5 2).toNat with
                  | 0 => some (.op .sub r r (rvcReg h 2)) | 1 => some (.op .xor r r (rvcReg h 2))
                  | 2 => some (.op .or r r (rvcReg h 2)) | _ => some (.op .and r r (rvcReg h 2))
  | 5 => some (.jal 0 jmp)
  | 6 => some (.branch .beq r 0 br)
  | _ => some (.branch .bne r 0 br)

/-- The compressed words of quadrant 2. Log entry 7. -/
def decodeC2 (h : BitVec 16) : Option Instr :=
  let rd : XReg := h.extractLsb' 7 5
  let rs2 : XReg := h.extractLsb' 2 5
  let i (x : Rv) : Option Instr := some (.rv32 true x)
  match (h.extractLsb' 13 3).toNat with
  | 0 => if h.getLsbD 12 then none else i (.shift .slli rd rd (h.extractLsb' 2 5))
  | 2 => if rd = 0 then none
         else i (.load .lw rd 2 (0#4 ++ h.extractLsb' 2 2 ++ h.extractLsb' 12 1 ++ h.extractLsb' 4 3 ++ 0#2))
  | 4 => if h.getLsbD 12 then
           (if rs2 != 0 then i (.op .add rd rd rs2) else if rd != 0 then i (.jalr 1 rd 0) else some (.ebreak true))
         else if rs2 != 0 then i (.op .add rd 0 rs2) else if rd != 0 then i (.jalr 0 rd 0) else none
  | 6 => i (.store .sw 2 rs2 (0#4 ++ h.extractLsb' 7 2 ++ h.extractLsb' 9 4 ++ 0#2))
  | _ => none

/-- A 16-bit companion word, whose low two bits are not 11. -/
def decodeK16 (h : BitVec 16) : Option Instr :=
  match (h.extractLsb' 0 2).toNat with
  | 0 => (decodeC0 h).map (.rv32 true)
  | 1 => (decodeC1 h).map (.rv32 true)
  | _ => decodeC2 h

/-- The companion instruction whose first bytes are w, low half first, and its length in bytes. -/
def rawDecodeK (w : W32) : Option (Instr × Nat) :=
  if w.extractLsb' 0 2 = 3#2 then (decodeK32 w).map (·, 4) else (decodeK16 (w.extractLsb' 0 16)).map (·, 2)

/-- The companion instruction whose first bytes are w, or ILLEGAL_OPCODE (R334, R336, R339). -/
def decodeK (w : W32) : Except Reject (Instr × Nat) :=
  match rawDecodeK w with
  | none => .error .illegalOpcode
  | some (i, n) => if i.wf then .ok (i, n) else .error .illegalOpcode

/-! ## Encoding companion instructions -/

/-- R-type layout (R336). -/
def putRType (f7 : BitVec 7) (rs2 rs1 : XReg) (f3 : BitVec 3) (rd : XReg) (op : BitVec 7) : W32 :=
  f7 ++ rs2 ++ rs1 ++ f3 ++ rd ++ op
/-- I-type layout. -/
def putIType (imm : BitVec 12) (rs1 : XReg) (f3 : BitVec 3) (rd : XReg) (op : BitVec 7) : W32 :=
  imm ++ rs1 ++ f3 ++ rd ++ op

/-- funct3 of a branch. -/
def brF3 : BrOp → BitVec 3 | .beq => 0 | .bne => 1 | .blt => 4 | .bge => 5 | .bltu => 6 | .bgeu => 7
/-- funct3 of a load. -/
def ldF3 : LdOp → BitVec 3 | .lb => 0 | .lh => 1 | .lw => 2 | .lbu => 4 | .lhu => 5
/-- funct3 of a store. -/
def stF3 : StOp → BitVec 3 | .sb => 0 | .sh => 1 | .sw => 2
/-- funct3 of an OP-IMM instruction. -/
def immF3 : ImmOp → BitVec 3 | .addi => 0 | .slti => 2 | .sltiu => 3 | .xori => 4 | .ori => 6 | .andi => 7
/-- funct7 and funct3 of a shift by a constant. -/
def shF : ShOp → BitVec 7 × BitVec 3 | .slli => (0, 1) | .srli => (0, 5) | .srai => (0x20, 5) | .rori => (0x30, 5)
/-- funct7 and funct3 of an OP instruction. -/
def regF : RegOp → BitVec 7 × BitVec 3
  | .add => (0, 0) | .sub => (0x20, 0) | .sll => (0, 1) | .slt => (0, 2) | .sltu => (0, 3) | .xor => (0, 4)
  | .srl => (0, 5) | .sra => (0x20, 5) | .or => (0, 6) | .and => (0, 7)
  | .mul => (1, 0) | .mulh => (1, 1) | .mulhsu => (1, 2) | .mulhu => (1, 3) | .div => (1, 4) | .divu => (1, 5)
  | .rem => (1, 6) | .remu => (1, 7) | .sh1add => (0x10, 2) | .sh2add => (0x10, 4) | .sh3add => (0x10, 6)
  | .andn => (0x20, 7) | .orn => (0x20, 6) | .xnor => (0x20, 4) | .max => (5, 6) | .maxu => (5, 7) | .min => (5, 4)
  | .minu => (5, 5) | .rol => (0x30, 1) | .ror => (0x30, 5)
/-- Immediate, funct3 and opcode of a one-operand instruction. -/
def unF : UnOp → BitVec 12 × BitVec 3 × BitVec 7
  | .clz => (0x600, 1, 0x13) | .ctz => (0x601, 1, 0x13) | .cpop => (0x602, 1, 0x13) | .sextb => (0x604, 1, 0x13)
  | .sexth => (0x605, 1, 0x13) | .zexth => (0x080, 4, 0x33) | .orcb => (0x287, 5, 0x13) | .rev8 => (0x698, 5, 0x13)
/-- funct3 of a CSR instruction. -/
def csrF3 (o : CsrOp) (imm : Bool) : BitVec 3 :=
  (match o with | .rw => 1 | .rs => 2 | .rc => 3) ||| (if imm then 4 else 0)

/-- The 32-bit word of a standard instruction. -/
def encodeRv : Rv → W32
  | .lui rd imm => imm ++ rd ++ 0x37#7
  | .auipc rd imm => imm ++ rd ++ 0x17#7
  | .jal rd imm => imm.extractLsb' 19 1 ++ imm.extractLsb' 0 10 ++ imm.extractLsb' 10 1 ++ imm.extractLsb' 11 8 ++ rd ++ 0x6F#7
  | .jalr rd rs1 imm => putIType imm rs1 0 rd 0x67
  | .branch o rs1 rs2 imm => imm.extractLsb' 11 1 ++ imm.extractLsb' 4 6 ++ rs2 ++ rs1 ++ brF3 o ++ imm.extractLsb' 0 4
      ++ imm.extractLsb' 10 1 ++ 0x63#7
  | .load o rd rs1 imm => putIType imm rs1 (ldF3 o) rd 0x03
  | .store o rs1 rs2 imm => imm.extractLsb' 5 7 ++ rs2 ++ rs1 ++ stF3 o ++ imm.extractLsb' 0 5 ++ 0x23#7
  | .opImm o rd rs1 imm => putIType imm rs1 (immF3 o) rd 0x13
  | .shift o rd rs1 sh => putRType (shF o).1 sh rs1 (shF o).2 rd 0x13
  | .op o rd rs1 rs2 => putRType (regF o).1 rs2 rs1 (regF o).2 rd 0x33
  | .unary o rd rs1 => putIType (unF o).1 rs1 (unF o).2.1 rd (unF o).2.2
  | .csr o imm rd num src => putIType num src (csrF3 o imm) rd 0x73

/-- The 32-bit word of a companion instruction (R336); none for other instructions and for compressed forms. -/
def encodeK : Instr → Option W32
  | .kcpt x => some (putRType 0 0 x.rs1 0 x.rd 0x0B)
  | .kcpg x => some (putRType 0 0 x.rs1 1 x.rd 0x0B)
  | .kcps x => some (putRType 0 0 x.rs1 2 x.rd 0x0B)
  | .kcpf x => some (putRType 0 0 x.rs1 3 x.rd 0x0B)
  | .kcpr x => some (putRType 0 0 x.rs1 4 x.rd 0x0B)
  | .kcpput x => some (putRType 0 0 x.rs1 5 x.rd 0x0B)
  | .kcpget x => some (putRType 0 0 x.rs1 6 x.rd 0x0B)
  | .kcpqState x => some (putRType 0 0 x.rs1 7 x.rd 0x0B)
  | .kcpqDone x => some (putRType 1 0 x.rs1 7 x.rd 0x0B)
  | .kbara x => some (putRType 0 x.rs2 x.rs1 0 0 0x2B)
  | .kbarw x => some (putRType (0#4 ++ bit1 x.par ++ x.form) x.rs2 x.rs1 1 0 0x2B)
  | .krgput x => some (putRType (0#6 ++ bit1 x.wait) x.rs2 x.rs1 2 0 0x2B)
  | .krgget x => some (putRType (0#6 ++ bit1 x.wait) x.rs2 x.rs1 3 0 0x2B)
  | .kltLw x => some (putRType (0#1 ++ x.h) x.rs2 x.rs1 4 x.rd 0x2B)
  | .kltSw x => some (putRType (1#1 ++ x.h) x.rs2 x.rs1 4 x.rd 0x2B)
  | .companionFence fm pred succ rs1 rd => some (fm ++ pred ++ succ ++ rs1 ++ 0#3 ++ rd ++ 0x0F#7)
  | .ecall => some 0x00000073
  | .ebreak c => if c then none else some 0x00100073
  | .wfi => some 0x10500073
  | .rv32 c i => if c then none else some (encodeRv i)
  | _ => none

/-! ## The host's question -/

/-- The instruction this decoder reads from an instruction of nbits whose bits are w, numbered as the opcode table
numbers them: a group word has 64 bits, a companion word 32 or, compressed, 16. -/
def decodeTableWord (nbits w : Nat) : Option Instr :=
  if nbits = 64 then
    match decode (BitVec.ofNat 64 w) with
    | .ok i => some i
    | .error _ => none
  else if nbits = 32 ∨ nbits = 16 then
    match decodeK (BitVec.ofNat 32 w) with
    | .ok (i, _) => some i
    | .error _ => none
  else none

end Sys2Proof
end

