-- ==== Sys2Proof/Machine/Fetch.lean ====
section
/-! DEFINITION. From a turn to what it runs: the next word of a group's clause, the instruction at a companion core's
pc, an event, or a move of the environment (log entry 1). -/

namespace Sys2Proof.Machine
open Sys2Proof

/-- What a turn comes to. -/
inductive Fetched where
  | run (i : Instr) (s : State)
  | done (s : State)

/-- Instructions that only a fetch brings: a word of a clause, or of a companion core's store. -/
def fetched (i : Instr) : Bool :=
  match i with
  | .ill _ | .kcpt _ | .kcpg _ | .kcps _ | .kcpf _ | .kcpr _ | .kcpput _ | .kcpget _ | .kcpqState _ | .kcpqDone _
  | .kbara _ | .kbarw _ | .krgput _ | .krgget _ | .kltLw _ | .kltSw _ | .companionFence .. | .ecall | .ebreak _
  | .wfi | .rv32 .. => true
  | _ => i.form.isSome

/-- The open clause of a group that may issue: not parked, not asleep, an instruction left. -/
def Group.openRun (g : Group) : Option Run :=
  if !g.resident || g.fetch.isSome then none
  else match g.block with
    | .parked | .sleeping _ => none
    | _ => g.run.filter fun r => r.idx ≤ hdrN r.hdr

/-- The word a group issues next. -/
def Group.nextWord (g : Group) : Option W64 := g.openRun.map fun r => r.words.getD r.idx 0

/-- A group's turn (R157, R192 step 1). -/
def fetchGroup (s : State) (c : CoreId) (i : Slot) : Fetched :=
  let g := s.grp c i
  match g.openRun with
  | none => .done s
  | some r =>
    let w := r.words.getD r.idx 0
    match rawDecode w with
    | some x => .run x s
    | none => .done (takeTrap s c i r.pc r.idx r.lanes (wordTrap 0x01 w))

/-- A companion core's turn (R334): a word that is no instruction faults. A deterministic context runs at the pinned clock
(R20). -/
def fetchCompanion (s : State) (c : CoreId) (r : Role) : Fetched :=
  let k := s.comp c r
  if !k.ready || s.cores[c].stopAt.isSome || !(s.team c k.team).tbHere
      || (s.det c && (s.hub.clusters[clusterOf c]).fcur != 44) then .done s
  else match k.fetchWord with
    | .error t => .done (companionFault s c r t)
    | .ok w =>
      match decodeK w with
      | .ok (i, n) => .run i { s with ilen := n }
      | .error _ => .done (companionFault s c r { cause := 0x01, x1 := if w.extractLsb' 0 2 = 3#2 then w else w &&& 0xFFFF })

/-- Cycles passed at a resident group of a running context: the hang counter (R56), and a sleep outside deterministic
mode (R228). -/
def Group.tick (n : Nat) (det : Bool) (g : Group) : Group :=
  if !g.resident then g
  else { g with
    hang := g.hang + n
    block := match g.block with | .sleeping k => if det then .sleeping k else .sleeping (k - n) | b => b }

/-- Arithmetic-clock cycles pass in a cluster. -/
def elapse (s : State) (k : Fin 16) (n : Nat) : State :=
  let s := s.modCluster k fun x => { x with cycles := x.cycles + n }
  { s with cores := s.cores.mapFinIdx fun c x _ =>
      if c / 4 = k.val && x.run.isSome then x.modCtx fun y => { y with
        groups := y.groups.map fun g => g.tick n y.det } else x }

/-- What a turn runs. -/
def fetch (t : Turn) (s : State) : Fetched :=
  match t with
  | .group c i => fetchGroup { s with core := c, agent := .group i, later := false } c i
  | .later c i => fetchGroup { s with core := c, agent := .group i, later := true } c i
  | .perform c i n k => .done (performOne s c i n k)
  | .companion c r => fetchCompanion { s with core := c, agent := .companion r, later := false } c r
  | .event i => if fetched i then .done s else .run i s
  | .elapse k n => .done (elapse s k n)
  | .dropL1 c n => .done (modL1 s c (delAt n))
  | .dropL2 d n => .done (match (s.dies[d].l2)[n]? with
      | some x => if x.dirty = 0 && !(s.dies[d]).inStaging x.tgt x.base then modL2 s d (delAt n) else s
      | none => s)
  | .dropRemote n => .done (s.modMem fun m => { m with mscRemote := delAt n m.mscRemote })
  | .spill c i r => .done (spillReg s c i r)
  | .barRead p n => .done (barRead s p n)
  | .degrade k => .done (degradeStack s k)
  | .cleanMsc n => .done (s.modMem fun m => { m with mscDirty := delAt n m.mscDirty })
  | .tear k us => .done (tearQueue s k us)
  | .combine i b => .done (combineSector s i b)
  | .far f => .done (s.modHub fun h => { h with far := f })
  | .hostWrite a bs => .done (fireWaits (bs.zipIdx.foldl (fun s x =>
      (snoopBlock s ((a + x.2) / 64 * 64) true).modMem fun m => { m with host := Memory.set m.host (a + x.2) x.1 }) s)
      .host ((List.range bs.length).map (a + ·)) none)
  | .fabricWrite a bs => .done (fireWaits (s.modMem fun m => { m with fabric := Memory.write m.fabric a bs })
      .fabric ((List.range bs.length).map (a + ·)) none)

/-- A start of the package. -/
def Turn.starts : Turn → Bool
  | .event (.startup _) => true
  | _ => false

end Sys2Proof.Machine
end

