-- ==== Sys2Proof/Machine/Step.lean ====
section
/-! DEFINITION. One step of the package: the agent at the head of the agenda moves. -/

namespace Sys2Proof.Machine
open Sys2Proof

/-- One step. With no turn pending nothing moves; a package drained after PFAIL_N only starts again (R407). -/
def step (s : State) : Host.Outcome State Fault Refusal :=
  match s.agenda with
  | [] => if s.off then .fault .powerLost else .next s
  | t :: r =>
    if s.off && !t.starts then .fault .powerLost
    else match fetch t { s with agenda := r } with
      | .done s => .next s
      | .run i s => exec i s

/-- The instruction whose bits are w placed where step fetches next. A 64-bit word: the only word of an open clause of
group 0 of core 0, that group's turn first. A shorter one: address 0 of the instruction store of core 0's feeder core,
that core running and its turn first. Log entry 12. -/
def State.withFetchWord (s : State) (nbits w : Nat) : State :=
  if nbits = 64 then
    let s := s.modGrp 0 0 fun g => { g with
      resident := true, block := .free, fetch := none
      run := some { pc := 0, hdr := 0xC5000000C0000000, words := [BitVec.ofNat 64 w], lanes := BitVec.allOnes 32 } }
    { s with off := false, agenda := .group 0 0 :: s.agenda }
  else
    let s := s.modComp 0 .feeder fun k => { k with
      running := true, block := .free, fault := none, pc := 0, imem := Memory.write k.imem 0 (bytesLE 4 w) }
    { s with off := false, agenda := .companion 0 .feeder :: s.agenda }

end Sys2Proof.Machine
end

