-- ==== Sys2Proof/Safety.lean ====
section
/-! DEFINITION. The terms that claims use: the registers of a group, what an instruction writes, when a group
instruction issues, and what a step leaves alone. -/

namespace Sys2Proof.Machine
open Sys2Proof

/-! ## The registers of a group (R144 to R146, R161, R200, R255) -/

/-- One register, or one lane of one: V, S, P, Q and fragment rows with the poison marks of V, S and fragments, the task
argument registers, and the special registers that a group holds. -/
inductive GReg where
  | v (r : Fin 256) (l : Fin 32)
  | s (r : Fin 64)
  | p (r : Fin 8) (l : Fin 32)
  | q (r : Fin 4)
  | a (r : Fin 16) (l : Fin 32)
  | markV (r : Fin 256) (l : Fin 32)
  | markS (r : Fin 64)
  | markA (r : Fin 16) (l : Fin 32)
  | arg (l : Fin 32) (k : Fin 8)
  | fpstat | srcnt | mxc | xpc | xcidx | xissue | xcause
  | xinfo (k : Fin 4)
  deriving DecidableEq, Repr

/-- A bit as a register value. -/
def bitVal (b : Bool) : BitVec 256 := if b then 1 else 0

/-- The value of a register, zero-extended; P7 and Q3 read true (R145). -/
def Group.reg (g : Group) : GReg → BitVec 256
  | .v r l => ((g.v[r])[l]).setWidth 256
  | .s r => (g.s[r]).setWidth 256
  | .p r l => bitVal (r == 7 || (g.p[r]).getLsbD l.val)
  | .q r => bitVal (r == 3 || g.q[r])
  | .a r l => (g.frag[r])[l]
  | .markV r l => bitVal ((g.pv[r]).getLsbD l.val)
  | .markS r => bitVal (g.ps.getLsbD r.val)
  | .markA r l => bitVal ((g.pa[r]).getLsbD l.val)
  | .arg l k => ((g.arg[l])[k]).setWidth 256
  | .fpstat => g.fpstat.setWidth 256
  | .srcnt => g.srcnt.setWidth 256
  | .mxc => g.mxc.setWidth 256
  | .xpc => g.xpc.setWidth 256
  | .xcidx => g.xcidx.setWidth 256
  | .xissue => g.xissue.setWidth 256
  | .xcause => g.xcause.setWidth 256
  | .xinfo k => (g.xinfo[k]).setWidth 256

/-! ## What an instruction writes -/

/-- The registers an instruction writes, with their new values; none: the register keeps its value. -/
abbrev Writes := GReg → Option (BitVec 256)

/-- Nothing is written. -/
def Writes.nil : Writes := fun _ => none
/-- The writes of a, then those of b. -/
def Writes.and (a b : Writes) : Writes := fun ρ => (b ρ).orElse fun _ => a ρ
/-- V(d) in the lanes of m (R148); a written register's mark is cleared (R255). -/
def Writes.v (d : Nat) (m : Mask) (f : Fin 32 → W32) : Writes
  | .v r l => if r.val = d % 256 ∧ m.getLsbD l.val then some ((f l).setWidth 256) else none
  | .markV r l => if r.val = d % 256 ∧ m.getLsbD l.val then some 0 else none
  | _ => none
/-- S(d). -/
def Writes.s (d : Nat) (x : W32) : Writes
  | .s r => if r.val = d % 64 then some (x.setWidth 256) else none
  | .markS r => if r.val = d % 64 then some 0 else none
  | _ => none
/-- P(d) in the lanes of m; a write to P7 is discarded (R145). -/
def Writes.p (d : Nat) (m : Mask) (f : Fin 32 → Bool) : Writes
  | .p r l => if r.val = d % 8 ∧ r.val ≠ 7 ∧ m.getLsbD l.val then some (bitVal (f l)) else none
  | _ => none
/-- Q(d); a write to Q3 is discarded (R145). -/
def Writes.q (d : Nat) (b : Bool) : Writes
  | .q r => if r.val = d % 4 ∧ r.val ≠ 3 then some (bitVal b) else none
  | _ => none
/-- The rows of fragment d in the lanes of m (R146). -/
def Writes.a (d : Nat) (m : Mask) (f : Fin 32 → BitVec 256) : Writes
  | .a r l => if r.val = d % 16 ∧ m.getLsbD l.val then some (f l) else none
  | .markA r l => if r.val = d % 16 ∧ m.getLsbD l.val then some 0 else none
  | _ => none
/-- A special register of the group. -/
def Writes.special (k : GReg) (x : W32) : Writes := fun ρ => if ρ = k then some (x.setWidth 256) else none
/-- A data destination: V in the lanes of m with U = 0, S once with U = 1 (R202). -/
def Writes.data (u : Bool) (d : Nat) (m : Mask) (f : Fin 32 → W32) : Writes := if u then Writes.s d (f 0) else Writes.v d m f
/-- A predicate destination, likewise. -/
def Writes.pred (u : Bool) (d : Nat) (m : Mask) (f : Fin 32 → Bool) : Writes := if u then Writes.q d (f 0) else Writes.p d m f
/-- The registers of g' are those of g with the writes of w. -/
def Writes.take (w : Writes) (g g' : Group) : Prop := ∀ ρ, g'.reg ρ = (w ρ).getD (g.reg ρ)

/-! ## When a group instruction issues -/

/-- A group that is not held by a wait it has parked at, nor asleep. -/
def Block.looks : Block → Bool
  | .parked | .sleeping _ => false
  | _ => true

/-- Instruction i of form f is the one that group n of the running core issues, and it passes every check of R192, finds
room on its counter (R153), its registers free of outstanding results (R155), unspilled, with slots for those that become
live (R149), and unpoisoned (R255), and no deferred poison at its release (R403). -/
structure Ready (i : Instr) (s : State) (n : Slot) (f : Form) (g : Group) (r : Run) : Prop where
  agent    : s.agent = .group n
  group    : s.grp s.core n = g
  resident : g.resident = true
  noFetch  : g.fetch = none
  awake    : g.block.looks = true
  run      : g.run = some r
  inside   : r.idx ≤ hdrN r.hdr
  form     : i.form = some f
  unit     : clauseUnit i &&& hdrCls r.hdr = clauseUnit i
  wf       : f.wf = true
  last     : f.last = true → r.idx = hdrN r.hdr
  alloc    : ∀ u ∈ f.regs, allocated u (LRec.nv (s.team s.core g.team).lrec) (LRec.na (s.team s.core g.team).lrec) = true
  formats  : fieldTrap i (s.det s.core) (s.team s.core g.team) = none
  room     : f.hd.sb ≠ 7 → (g.out.filter fun o => o.sb == f.hd.sb).length < 16
  free     : ∀ o ∈ g.out, ∀ d ∈ o.dests, ∀ u ∈ guardRun f.hd :: f.regs.map useRun, d.meets u = false
  filled   : ∀ u ∈ f.regs, u.cls = .v → ∀ k < u.len, g.spilled.getLsbD (u.num.toNat + k) = false
  slots    : acting f.hd g r ≠ 0 → bitCount (newRegs f g) ≤ freeSlots s s.core
  clean    : neverTraps i = false → poisonRead (readLanes i f.hd g r) f.regs g = none
  deferred : acting f.hd g r ≠ 0 → deferTrap i (s.ctxRec (s.team s.core g.team).asid) = none

/-- A group that goes on when its clause ends: its grid goes on, a lane of it lives (R226, R380), and no hang report waits to
fault its context (R56). -/
def Group.stays (s : State) (g : Group) : Prop :=
  gridKilled s (s.team s.core g.team) = false ∧ g.liveLanes ≠ 0 ∧ g.hangAct ≠ 2

/-! ## What a step leaves alone -/

/-- Between s and t nothing has changed but group n of the running core and, where its clause has ended, the task pool's
split into bins (R37). -/
structure OnlyGroup (s t : State) (n : Slot) : Prop where
  state  : t = { s with cores := t.cores }
  others : ∀ c, c ≠ s.core → t.cores[c] = s.cores[c]
  here   : ∃ gs p b m, t.cores[s.core] = { s.cores[s.core] with
    ctx := { (s.cores[s.core]).ctx with groups := gs, pool := p, bins := b, forms := m } }
  groups : ∀ m, m ≠ n → t.grp s.core m = s.grp s.core m

end Sys2Proof.Machine
end

