-- ==== Sys2Proof/Certificates/Slice0/Obligations.lean ====
section
/-! DEFINITION. The statements for the provers: what the rules of the spec say that an instruction or the package does. A
statement of several parts is the conjunction of the propositions that define them, each beside the rules it follows. -/

open Sys2Proof Sys2Proof.Machine

/-! ## Integer and logic results (R201 to R211) -/

namespace Sys2Proof.Rules
open Sys2Proof Sys2Proof.Machine

/-- R204: d is Fit(t). -/
def IsFit (sat sgn : Bool) (t : Int) (d : W32) : Prop :=
  if sat then
    if sgn then d.toInt = max (-2147483648) (min 2147483647 t) else (d.toNat : Int) = max 0 (min 4294967295 t)
  else (d.toNat : Int) = t % 4294967296

/-- Element i of x, of w bits. -/
def elemInt (sgn : Bool) (w : Nat) (x : W32) (i : Nat) : Int := asInt sgn (x.extractLsb' (w * i) w)

/-- The shift count of SHL, SHR and SAR. -/
def countOf (w : Bool) (b : W32) : Nat := if w then b.toNat % 32 else b.toNat

/-- R207: the field of length n at lo that descriptor x names, or none. -/
def descriptor (x : W32) : Option (Nat × Nat) :=
  let lo := x.toNat % 64
  let hi := x.toNat / 256 % 64
  if lo ≥ 32 ∨ hi < lo then none else some (lo, min hi 31 - lo + 1)

/-- The data result d of instruction i for the patterns a, b and c (R204 to R211). -/
def IntResult (i : Instr) (a b c d : W32) : Prop :=
  match i with
  | .nop _ => False
  | .iadd x => IsFit x.lo.b22 x.lo.b21 (asInt x.lo.b21 a + asInt x.lo.b21 b) d
  | .iaddI24 x => IsFit x.lo.b22 x.lo.b21 (asInt x.lo.b21 a + asInt x.lo.b21 b) d
  | .isub x => IsFit x.lo.b22 x.lo.b21 (asInt x.lo.b21 a - asInt x.lo.b21 b) d
  | .isubI24 x => IsFit x.lo.b22 x.lo.b21 (asInt x.lo.b21 a - asInt x.lo.b21 b) d
  | .imul x => IsFit x.lo.b22 x.lo.b21 (asInt x.lo.b21 a * asInt x.lo.b21 b) d
  | .imulI24 x => IsFit x.lo.b22 x.lo.b21 (asInt x.lo.b21 a * asInt x.lo.b21 b) d
  | .imulh x => (d.toNat : Int) = asInt x.lo.b21 a * asInt x.lo.b21 b / 4294967296 % 4294967296
  | .imad x => IsFit x.lo.b22 x.lo.b21 (asInt x.lo.b21 a * asInt x.lo.b21 b + asInt x.lo.b21 c) d
  | .imin x => (d = a ∨ d = b) ∧ asInt x.lo.b21 d ≤ asInt x.lo.b21 a ∧ asInt x.lo.b21 d ≤ asInt x.lo.b21 b
  | .iminI24 x => (d = a ∨ d = b) ∧ asInt x.lo.b21 d ≤ asInt x.lo.b21 a ∧ asInt x.lo.b21 d ≤ asInt x.lo.b21 b
  | .imax x => (d = a ∨ d = b) ∧ asInt x.lo.b21 a ≤ asInt x.lo.b21 d ∧ asInt x.lo.b21 b ≤ asInt x.lo.b21 d
  | .imaxI24 x => (d = a ∨ d = b) ∧ asInt x.lo.b21 a ≤ asInt x.lo.b21 d ∧ asInt x.lo.b21 b ≤ asInt x.lo.b21 d
  | .iabs x => IsFit x.lo.b22 true a.toInt.natAbs d
  | .ineg x => IsFit x.lo.b22 true (-a.toInt) d
  | .idot4 x =>
    let n := if x.lo.m.getLsbD 2 then 8 else 4
    IsFit x.lo.b22 true (c.toInt + ((List.range n).map fun k =>
      elemInt (x.lo.m.getLsbD 0) (32 / n) a k * elemInt (x.lo.m.getLsbD 1) (32 / n) b k).sum) d
  | .lop x => ∀ k : Fin 32, d.getLsbD k.val
      = x.h.getLsbD ((a.getLsbD k.val).toNat + 2 * (b.getLsbD k.val).toNat + 4 * (c.getLsbD k.val).toNat)
  | .shl x => d.toNat = a.toNat * 2 ^ countOf (x.lo.m.getLsbD 0) b % 4294967296
  | .shlI24 x => d.toNat = a.toNat * 2 ^ countOf (x.lo.m.getLsbD 0) b % 4294967296
  | .shr x => d.toNat = a.toNat / 2 ^ countOf (x.lo.m.getLsbD 0) b
  | .shrI24 x => d.toNat = a.toNat / 2 ^ countOf (x.lo.m.getLsbD 0) b
  | .sar x => d.toInt = a.toInt / 2 ^ countOf (x.lo.m.getLsbD 0) b
  | .sarI24 x => d.toInt = a.toInt / 2 ^ countOf (x.lo.m.getLsbD 0) b
  | .shf x =>
    let p : W64 := b ++ a
    let n := c.toNat % 64
    let q : Nat := match (x.lo.m.extractLsb' 0 2).toNat with
      | 0 => p.toNat * 2 ^ n % 2 ^ 64
      | 1 => p.toNat / 2 ^ n
      | 2 => (p.toInt / 2 ^ n % 2 ^ 64).toNat
      | _ => (p.rotateRight n).toNat
    d.toNat = if x.lo.m.getLsbD 2 then q / 2 ^ 32 else q % 2 ^ 32
  | .bfx x => match descriptor b with
    | none => d = 0
    | some (lo, n) =>
      let y : Nat := a.toNat / 2 ^ lo % 2 ^ n
      if x.lo.b21 then d.toInt = (if 2 ^ (n - 1) ≤ y then (y : Int) - 2 ^ n else y) else d.toNat = y
  | .bfxI24 x => match descriptor b with
    | none => d = 0
    | some (lo, n) =>
      let y : Nat := a.toNat / 2 ^ lo % 2 ^ n
      if x.lo.b21 then d.toInt = (if 2 ^ (n - 1) ≤ y then (y : Int) - 2 ^ n else y) else d.toNat = y
  | .bfi _ => match descriptor c with
    | none => d = a
    | some (lo, n) => ∀ k : Fin 32, d.getLsbD k.val = if lo ≤ k.val ∧ k.val < lo + n then b.getLsbD (k.val - lo) else a.getLsbD k.val
  | .popc _ => d.toNat = ((List.finRange 32).filter fun k => a.getLsbD k.val).length
  | .clz _ => (a = 0 ∧ d = 32) ∨ (d.toNat < 32 ∧ 2 ^ (31 - d.toNat) ≤ a.toNat ∧ a.toNat < 2 ^ (32 - d.toNat))
  | .brev _ => ∀ k : Fin 32, d.getLsbD k.val = a.getLsbD (31 - k.val)
  | .mov _ => d = a
  | .movi x => if x.lo.m = 1 then d.toNat = (a.toNat + b.toNat) % 4294967296
      else if x.lo.m = 2 then ∀ k : Fin 32, d.getLsbD k.val = (a.getLsbD k.val != b.getLsbD k.val) else d = b
  | .prmt _ => ∀ k : Fin 4,
      let sel := byteAt c k.val
      let y : Byte := (b ++ a).extractLsb' (8 * (sel.toNat % 8)) 8
      byteAt d k.val = match sel.toNat / 8 % 4 with
        | 0 => y
        | 1 => y.reverse
        | 2 => if y.getLsbD 7 then 0xFF else 0
        | _ => 0
  | .gfmul x => ∀ k : Fin 4, byteAt d k.val = gfMul (byteAt a k.val) (byteAt b (if x.lo.m.getLsbD 0 then 0 else k.val))
  | .gfmac x => ∀ k : Fin 4, byteAt d k.val
      = byteAt c k.val ^^^ gfMul (byteAt a k.val) (byteAt b (if x.lo.m.getLsbD 0 then 0 else k.val))
  | .crc32c x => d = (List.range (2 ^ (x.lo.m.toNat % 4))).foldl (fun r k =>
      (List.range 8).foldl (fun r _ => if r.getLsbD 0 then (r >>> 1) ^^^ 0x82F63B78#32 else r >>> 1)
        (r ^^^ (byteAt b k).setWidth 32)) a
  | _ => False

/-- Destination field and the patterns a, b and c of an R-form integer instruction (R202). -/
def regs3 (x : FmtR) : BitVec 8 × (Bool → Group → Fin 32 → W32 × W32 × W32) :=
  (x.d, fun u g l => (g.src u x.a.toNat l, g.src u x.b.toNat l, g.src u x.c.toNat l))
/-- The same of an I24 form, whose immediate takes the place of b: sign-extended, or zero-extended (R203). -/
def regImm (x : FmtI24) (sgn : Bool) : BitVec 8 × (Bool → Group → Fin 32 → W32 × W32 × W32) :=
  (x.d, fun u g l => (g.src u x.a.toNat l, if sgn then x.imm.signExtend 32 else x.imm.setWidth 32, 0))

/-- The integer instructions that write one data register, with their destination and operands. -/
def intView : Instr → Option (BitVec 8 × (Bool → Group → Fin 32 → W32 × W32 × W32))
  | .iadd x | .isub x | .imul x | .imulh x | .imad x | .imin x | .imax x | .iabs x | .ineg x | .idot4 x | .lop x | .shl x
  | .shr x | .sar x | .shf x | .bfx x | .bfi x | .popc x | .clz x | .brev x | .mov x | .prmt x | .gfmul x | .gfmac x
  | .crc32c x => some (regs3 x)
  | .iaddI24 x | .isubI24 x | .imulI24 x | .iminI24 x | .imaxI24 x => some (regImm x true)
  | .shlI24 x | .shrI24 x | .sarI24 x | .bfxI24 x => some (regImm x false)
  | .movi x => some (x.d, fun u g l => (g.src u x.d.toNat l, x.imm, 0))
  | _ => none

end Sys2Proof.Rules

/-- Every integer or logic instruction with one data destination (IADD, ISUB, IMUL, IMULH, IMAD, IMIN, IMAX, IABS, INEG,
IDOT4, LOP, SHL, SHR, SAR, SHF, BFX, BFI, POPC, CLZ, BREV, MOV, MOVI, PRMT, GFMUL, GFMAC, CRC32C and the I24 forms), when
it issues with a lane that acts: it answers a next state in which the destination holds, lane by lane, the result of its
rule; every other register, every flag, memory and the rest of the package are unchanged. -/
def Sys2Proof.Rules.IntegerResult : Prop :=
  ∀ (i : Instr) (s : State) (n : Slot) (f : Form) (g : Group) (r : Run) (d : BitVec 8)
    (view : Bool → Group → Fin 32 → W32 × W32 × W32),
    Rules.intView i = some (d, view) → Ready i s n f g r → acting f.hd g r ≠ 0 → g.stays s →
    ∃ (t : State) (y : Fin 32 → W32), exec i s = .next t ∧ OnlyGroup s t n
      ∧ (∀ l, Rules.IntResult i (view f.hd.u g l).1 (view f.hd.u g l).2.1 (view f.hd.u g l).2.2 (y l))
      ∧ (Writes.data f.hd.u d.toNat (acting f.hd g r) y).take g (t.grp s.core n)

/-- NOP changes no register, no memory and nothing else of the package. -/
def Sys2Proof.Rules.NopResult : Prop :=
  ∀ (x : FmtR) (s : State) (n : Slot) (f : Form) (g : Group) (r : Run),
    Ready (.nop x) s n f g r → acting f.hd g r ≠ 0 → g.stays s →
    ∃ t, exec (.nop x) s = .next t ∧ OnlyGroup s t n ∧ Writes.nil.take g (t.grp s.core n)

namespace Sys2Proof.Rules
open Sys2Proof Sys2Proof.Machine

/-- ICMP's condition (R204). -/
def condHolds (code : BitVec 3) (x y : Int) : Bool :=
  match code.toNat with
  | 0 => decide (x = y)
  | 1 => decide (x ≠ y)
  | 2 => decide (x < y)
  | 3 => decide (x ≤ y)
  | 4 => decide (x > y)
  | _ => decide (x ≥ y)

/-- What ICMP, PLOP, SEL, IADDC and IMADW write. -/
def intWrites (i : Instr) (u : Bool) (g : Group) (m : Mask) : Option Writes :=
  match i with
  | .icmp x => some (Writes.pred u x.d.toNat m fun l =>
      condHolds x.lo.m (asInt x.lo.b21 (g.src u x.a.toNat l)) (asInt x.lo.b21 (g.src u x.b.toNat l)))
  | .icmpI24 x => some (Writes.pred u x.d.toNat m fun l =>
      condHolds x.lo.m (asInt x.lo.b21 (g.src u x.a.toNat l)) (asInt x.lo.b21 (x.imm.signExtend 32)))
  | .plop x => some (Writes.pred u x.d.toNat m fun l => x.h.getLsbD ((g.psrc u x.a.toNat l).toNat
      + 2 * (g.psrc u x.b.toNat l).toNat + 4 * (g.psrc u x.c.toNat l).toNat))
  | .sel x => some (Writes.data u x.d.toNat m fun l =>
      if g.psrc u x.c.toNat l then g.src u x.a.toNat l else g.src u x.b.toNat l)
  | .iaddc x =>
    let t : Fin 32 → Int := fun l =>
      let k : Int := if g.psrc u x.c.toNat l then 1 else 0
      if x.lo.m.getLsbD 0 then (g.src u x.a.toNat l).toNat - (g.src u x.b.toNat l).toNat - k
      else (g.src u x.a.toNat l).toNat + (g.src u x.b.toNat l).toNat + k
    some ((Writes.data u x.d.toNat m fun l => BitVec.ofInt 32 (t l)).and
      (Writes.pred u x.c.toNat m fun l => if x.lo.m.getLsbD 0 then decide (t l < 0) else decide (4294967296 ≤ t l)))
  | .imadw x =>
    let t : Fin 32 → W64 := fun l => BitVec.ofInt 64 (asInt x.lo.b21 (g.src u x.a.toNat l) * asInt x.lo.b21 (g.src u x.b.toNat l)
      + asInt x.lo.b21 (g.src u (x.c.toNat + 1) l ++ g.src u x.c.toNat l))
    some ((Writes.data u x.d.toNat m fun l => (t l).extractLsb' 0 32).and
      (Writes.data u (x.d.toNat + 1) m fun l => (t l).extractLsb' 32 32))
  | _ => none

end Sys2Proof.Rules

/-- ICMP, ICMP_I24, PLOP and SEL write the predicate or register of their rule, IADDC the sum or difference and the carry or
borrow out (with P7 or Q3 the carry in is 1 and the carry out is discarded), IMADW both words of the 64-bit sum; every
other register, memory and the rest of the package are unchanged. -/
def Sys2Proof.Rules.IntegerPredicateAndPairResult : Prop :=
  ∀ (i : Instr) (s : State) (n : Slot) (f : Form) (g : Group) (r : Run) (w : Writes),
    Rules.intWrites i f.hd.u g (acting f.hd g r) = some w → Ready i s n f g r → acting f.hd g r ≠ 0 → g.stays s →
    ∃ t, exec i s = .next t ∧ OnlyGroup s t n ∧ w.take g (t.grp s.core n)

/-- IntegerResult, NopResult, IntegerPredicateAndPairResult: the parts above together. -/
def Obligations.IntegerInstructions : Prop :=
  Sys2Proof.Rules.IntegerResult ∧ Sys2Proof.Rules.NopResult ∧ Sys2Proof.Rules.IntegerPredicateAndPairResult

/-! ## Float and conversion results (R231 to R251) -/

namespace Sys2Proof.Rules
open Sys2Proof Sys2Proof.Machine

/-- The value and the flags that lane l of a short-latency float instruction computes, with its destination, its low
modifiers and the rounding it counts (R237, R238, R243, R246, R248, R251). -/
def floatLane (i : Instr) (t : Team) (u : Bool) (g : Group) (l : Fin 32) : Option (BitVec 8 × BitVec 3 × (W32 × BitVec 5)) :=
  let v (r : BitVec 8) : Nat := (g.src u r.toNat l).toNat
  let src (x : FmtR) (r : BitVec 8) (bit : Nat) : Sys2Proof.Machine.Num := srcNum fp32 x.lo.b21 (x.h.getLsbD bit) (v r)
  let imm (x : FmtI24) : Sys2Proof.Machine.Num := srcNum fp32 x.lo.b21 false (x.imm.toNat * 256)
  let rnd (lo : Low) (j : Nat) : Rnd := rndOf lo t g l j
  let half (x : FmtR) : FFmt := if x.h.getLsbD 3 then bf16 else fp16
  let el (x : FmtR) (r : BitVec 8) (bit j : Nat) : Sys2Proof.Machine.Num := srcNum (half x) x.lo.b21 (x.h.getLsbD bit) (v r / 65536 ^ j % 65536)
  let one (d : BitVec 8) (lo : Low) (y : Res) := some (d, lo.m, (w32 y.bits, y.flags))
  let two (x : FmtR) (y : Nat → Res) :=
    some (x.d, x.lo.m, (w32 ((y 0).bits + 65536 * (y 1).bits), (y 0).flags ||| (y 1).flags))
  match i with
  | .fadd x => one x.d x.lo (fpAdd fp32 (rnd x.lo 0) x.lo.b21 (src x x.a 0) (src x x.b 1))
  | .faddI24 x => one x.d x.lo (fpAdd fp32 (rnd x.lo 0) x.lo.b21 (srcNum fp32 x.lo.b21 false (v x.a)) (imm x))
  | .fmul x => one x.d x.lo (fpMul fp32 (rnd x.lo 0) x.lo.b21 (src x x.a 0) (src x x.b 1))
  | .fmulI24 x => one x.d x.lo (fpMul fp32 (rnd x.lo 0) x.lo.b21 (srcNum fp32 x.lo.b21 false (v x.a)) (imm x))
  | .ffma x => one x.d x.lo (fpFma fp32 (rnd x.lo 0) x.lo.b21 (src x x.a 0) (src x x.b 1) (src x x.c 2))
  | .fscale x => one x.d x.lo (fpScale (rnd x.lo 0) x.lo.b21 (srcNum fp32 x.lo.b21 false (v x.a)) (g.src u x.b.toNat l).toInt)
  | .hadd2 x => two x fun j => fpAdd (half x) (rnd x.lo j) x.lo.b21 (el x x.a 0 j) (el x x.b 1 j)
  | .hmul2 x => two x fun j => fpMul (half x) (rnd x.lo j) x.lo.b21 (el x x.a 0 j) (el x x.b 1 j)
  | .hfma2 x => two x fun j => fpFma (half x) (rnd x.lo j) x.lo.b21 (el x x.a 0 j) (el x x.b 1 j) (el x x.c 2 j)
  | .fdot2 x => one x.d x.lo (fpDot (rnd x.lo 0) x.lo.b21 (el x x.a 0 0) (el x x.b 1 0) (el x x.a 0 1) (el x x.b 1 1) (src x x.c 2))
  | .fexpo x => some (x.d, 0, fpExpo (fp32.flush x.lo.b21 (v x.a)))
  | .cvtF2f x => some (x.d, x.lo.m, cvtVal x (rnd x.lo 0) false (v x.a))
  | .cvtF2i x => some (x.d, x.lo.m, cvtVal x (rnd x.lo 0) false (v x.a))
  | .cvtI2f x => some (x.d, x.lo.m, cvtVal x (rnd x.lo 0) false (v x.a))
  | .pack x => some (x.d, x.lo.m, packVal x (rnd x.lo) (fun k => (g.src u (x.a.toNat + k) l).toNat) (g.src u x.d.toNat l))
  | .dqnt x => one x.d x.lo (fp32.arith { rm := x.lo.m.toNat, sat := x.lo.b22 }
      (mxScaled (x.h.extractLsb' 0 5).toNat ((g.rdS x.c.toNat).toNat % 256) (v x.a)))
  | _ => none

/-- The OR of the flags of the lanes of m (R235). -/
def flagsOf (m : Mask) (fl : Fin 32 → BitVec 5) : BitVec 5 := (lanesOf m).foldl (fun a l => a ||| fl l) 0

/-- FPSTAT with flags ORed in, and SRCNT counted up by an instruction that rounds stochastically (R231, R235). -/
def floatMarks (g : Group) (rm : BitVec 3) (fl : BitVec 5) : Writes :=
  (if rm = 4 then Writes.special .srcnt (g.srcnt + 1) else Writes.nil).and (Writes.special .fpstat (g.fpstat ||| fl.setWidth 32))

end Sys2Proof.Rules

/-- FADD, FMUL, FFMA, FSCALE, HADD2, HMUL2, HFMA2, FDOT2, FEXPO, CVT.F2F, CVT.F2I, CVT.I2F, PACK, DQNT and the I24 forms,
when no lane raises an enabled flag: each lane's destination takes the value of R237 to R251 computed from the sources read
before any write, FPSTAT takes the OR of every acting lane's flags, a stochastic rounding counts SRCNT up, and nothing else
changes. -/
def Sys2Proof.Rules.FloatShortResult : Prop :=
  ∀ (i : Instr) (s : State) (n : Slot) (f : Form) (g : Group) (r : Run) (d : BitVec 8) (rm : BitVec 3)
    (y : Fin 32 → W32 × BitVec 5),
    (∀ l, Rules.floatLane i (s.team s.core g.team) f.hd.u g l = some (d, rm, y l)) →
    Ready i s n f g r → acting f.hd g r ≠ 0 → g.stays s →
    (∀ l, (acting f.hd g r).getLsbD l.val = true → (y l).2 &&& fpEnables g = 0) →
    ∃ t, exec i s = .next t ∧ OnlyGroup s t n
      ∧ ((Writes.data f.hd.u d.toNat (acting f.hd g r) fun l => (y l).1).and
          (Rules.floatMarks g rm (Rules.flagsOf (acting f.hd g r) fun l => (y l).2))).take g (t.grp s.core n)

/-- The same instructions when a lane raises a flag whose enable bit is 1: FP_EXCEPT is taken at the instruction, from the
state before it, with the OR of all raised flags in XINFO1 and, for a vector instruction, the lowest such lane named (R236). -/
def Obligations.FloatExceptionTraps : Prop :=
  ∀ (i : Instr) (s : State) (n : Slot) (f : Form) (g : Group) (r : Run) (d : BitVec 8) (rm : BitVec 3)
    (y : Fin 32 → W32 × BitVec 5) (l : Fin 32),
    (∀ l, Rules.floatLane i (s.team s.core g.team) f.hd.u g l = some (d, rm, y l)) →
    Ready i s n f g r → (acting f.hd g r).getLsbD l.val = true → (y l).2 &&& fpEnables g ≠ 0 →
    (∀ k : Fin 32, k < l → (acting f.hd g r).getLsbD k.val = true → (y k).2 &&& fpEnables g = 0) →
    exec i s = .next (takeTrap s s.core n r.pc r.idx r.lanes
      { cause := 0x20, lane := if f.hd.u then none else some l
        x1 := (Rules.flagsOf (acting f.hd g r) fun l => (y l).2).setWidth 32 })

namespace Sys2Proof.Rules
open Sys2Proof Sys2Proof.Machine

/-- R239: the smaller (FMIN) or larger (FMAX) of two patterns after any flush; a NaN gives the other; −0 is below +0. -/
def selected (f : FFmt) (max ftz : Bool) (x y : Nat) : Nat := f.select max (f.flush ftz x) (f.flush ftz y)
/-- Both halves of a packed selection. -/
def selected2 (f : FFmt) (max ftz : Bool) (x y : Nat) : W32 :=
  w32 (selected f max ftz (x % 65536) (y % 65536) + 65536 * selected f max ftz (x / 65536) (y / 65536))
/-- R240: the relation of two FP32 patterns after any flush: 1 below, 2 equal, 4 above, 8 unordered. -/
def relation (ftz : Bool) (x y : Nat) : Nat :=
  let a := fp32.num (fp32.flush ftz x)
  let b := fp32.num (fp32.flush ftz y)
  if a = .nan ∨ b = .nan then 8 else if a.lt b then 1 else if b.lt a then 4 else 2
/-- The conditions of R240. -/
def relationHolds (code : Nat) (rel : Nat) : Bool :=
  match code with
  | 1 => decide (rel = 2)
  | 2 => decide (rel ≠ 2)
  | 3 => decide (rel = 1)
  | 4 => decide (rel = 1 ∨ rel = 2)
  | 5 => decide (rel = 4)
  | 6 => decide (rel = 4 ∨ rel = 2)
  | _ => decide (rel = 8)

/-- What the float and conversion instructions without flags write. -/
def selectWrites (i : Instr) (u : Bool) (g : Group) (m : Mask) : Option Writes :=
  let v (r : BitVec 8) (l : Fin 32) : Nat := (g.src u r.toNat l).toNat
  let half (x : FmtR) : FFmt := if x.h.getLsbD 3 then bf16 else fp16
  match i with
  | .fmin x => some (Writes.data u x.d.toNat m fun l => w32 (selected fp32 false x.lo.b21 (v x.a l) (v x.b l)))
  | .fmax x => some (Writes.data u x.d.toNat m fun l => w32 (selected fp32 true x.lo.b21 (v x.a l) (v x.b l)))
  | .fminI24 x => some (Writes.data u x.d.toNat m fun l => w32 (selected fp32 false x.lo.b21 (v x.a l) (x.imm.toNat * 256)))
  | .fmaxI24 x => some (Writes.data u x.d.toNat m fun l => w32 (selected fp32 true x.lo.b21 (v x.a l) (x.imm.toNat * 256)))
  | .hmin2 x => some (Writes.data u x.d.toNat m fun l => selected2 (half x) false x.lo.b21 (v x.a l) (v x.b l))
  | .hmax2 x => some (Writes.data u x.d.toNat m fun l => selected2 (half x) true x.lo.b21 (v x.a l) (v x.b l))
  | .fcmp x => some (if x.h = 0 then Writes.data u x.d.toNat m fun l => w32 (relation x.lo.b21 (v x.a l) (v x.b l))
      else Writes.pred u x.d.toNat m fun l => relationHolds x.h.toNat (relation x.lo.b21 (v x.a l) (v x.b l)))
  | .fcmpI24 x => some (Writes.data u x.d.toNat m fun l => w32 (relation x.lo.b21 (v x.a l) (x.imm.toNat * 256)))
  | .fclass x =>
    let f := if x.h = 0 then fp32 else if x.h = 1 then bf16 else fp16
    some (Writes.data u x.d.toNat m fun l => w32 (fpClass f (v x.a l % 2 ^ f.width)))
  | .frnd x => some (Writes.data u x.d.toNat m fun l =>
      let a := g.src u x.a.toNat l
      if x.h = 0 then w32 (fpInt x.lo.m.toNat (fp32.flush x.lo.b21 a.toNat))
      else if x.h = 1 then a ^^^ 0x80000000
      else if x.h = 2 then a &&& 0x7FFFFFFF
      else (a &&& 0x7FFFFFFF) ||| (g.src u x.b.toNat l &&& 0x80000000))
  | .cvtI2i x => some (Writes.data u x.d.toNat m fun l => (cvtVal x rne (!x.lo.b22) (v x.a l)).1)
  | .unpack x => some ((List.range (if fmtWidth (x.c.extractLsb' 0 5) = some 16 then 2 else 4)).foldl (fun w k =>
      w.and (Writes.data u (x.d.toNat + k) m fun l => unpackVal x (v x.a l) k)) Writes.nil)
  | _ => none

end Sys2Proof.Rules

/-- FMIN, FMAX, HMIN2, HMAX2, FCMP, FCLASS, FRND, CVT.I2I, UNPACK and the I24 forms write the selection, relation, class,
rounded or converted values of R239 to R242, R247 and R249, set no flag, and change nothing else. -/
def Sys2Proof.Rules.FloatSelectionAndClassResult : Prop :=
  ∀ (i : Instr) (s : State) (n : Slot) (f : Form) (g : Group) (r : Run) (w : Writes),
    Rules.selectWrites i f.hd.u g (acting f.hd g r) = some w → Ready i s n f g r → acting f.hd g r ≠ 0 → g.stays s →
    ∃ t, exec i s = .next t ∧ OnlyGroup s t n ∧ w.take g (t.grp s.core n)

namespace Sys2Proof.Rules
open Sys2Proof Sys2Proof.Machine

/-- The correctly rounded result of a long-latency float instruction in lane l (R244, R245). -/
def longLane (i : Instr) (u : Bool) (g : Group) (l : Fin 32) : Option (BitVec 8 × Res) :=
  let src (x : FmtR) (r : BitVec 8) : Sys2Proof.Machine.Num := srcNum fp32 x.lo.b21 false (g.src u r.toNat l).toNat
  let one (x : FmtR) (y : Rnd → Sys2Proof.Machine.Num → Res) :=
    some (x.d, fp32.flushRes x.lo.b21 (y { rm := x.lo.m.toNat, sat := x.lo.b22 } (src x x.a)))
  match i with
  | .frcp x => one x fun r a => divNum r (.fin false 1 0) a
  | .frsq x => one x rsqrtNum
  | .fsqrt x => one x sqrtNum
  | .fdiv x => one x fun r a => divNum r a (src x x.b)
  | .fexp2 x => one x exp2Num
  | .flog2 x => one x log2Res
  | .fsin x => one x sinNum
  | .fcos x => one x cosNum
  | .ftanh x => one x tanhNum
  | .fsigm x => one x sigmNum
  | _ => none

/-- The destination of lane l as a held result. -/
def heldData (u : Bool) (d : BitVec 8) (l : Fin 32) (x : W32) : RegWrite := if u then .s (d.setWidth 6) x false else .v d l x false

end Sys2Proof.Rules

/-- FRCP, FRSQ, FSQRT, FDIV, FEXP2, FLOG2, FSIN, FCOS, FTANH and FSIGM, when no lane raises an enabled flag, take a place at
the end of the group's outstanding instructions on their counter with the results and the flags that their retirement
will write, their destinations protected until then; no register changes at issue (R152, R153, R155, R231, R244). -/
def Sys2Proof.Rules.FloatLongResult : Prop :=
  ∀ (i : Instr) (s : State) (n : Slot) (f : Form) (g : Group) (r : Run) (d : BitVec 8) (y : Fin 32 → Res),
    (∀ l, Rules.longLane i f.hd.u g l = some (d, y l)) →
    Ready i s n f g r → acting f.hd g r ≠ 0 → g.stays s → (∀ o ∈ g.out, ¬ o.pending) →
    (∀ l, (acting f.hd g r).getLsbD l.val = true → (y l).flags &&& fpEnables g = 0) →
    ∃ t, exec i s = .next t ∧ OnlyGroup s t n ∧ Writes.nil.take g (t.grp s.core n)
      ∧ (t.grp s.core n).out = g.out ++ [{
          sb := f.hd.sb, kind := .done, dests := formDests f, float := true, count := g.retired, epoch := g.epoch
          pc := r.pc, idx := r.idx
          flags := Rules.flagsOf (acting f.hd g r) fun l => (y l).flags
          writes := (lanesOf (acting f.hd g r)).map fun l => Rules.heldData f.hd.u d l (w32 (y l).bits) }]

/-- FloatShortResult, FloatSelectionAndClassResult, FloatLongResult: the parts above together. -/
def Obligations.FloatInstructions : Prop :=
  Sys2Proof.Rules.FloatShortResult ∧ Sys2Proof.Rules.FloatSelectionAndClassResult ∧ Sys2Proof.Rules.FloatLongResult

/-! ## Lane instructions (R212 to R219) -/

namespace Sys2Proof.Rules
open Sys2Proof Sys2Proof.Machine

/-- The lanes of a mask, as a list. -/
def members (m : Mask) : List (Fin 32) := (List.finRange 32).filter fun l => m.getLsbD l.val
/-- R213: the lane that SHFL reads for lane l, or none outside its segment of 2^w lanes. -/
def shuffled (x : FmtR) (g : Group) (l : Fin 32) : Option (Fin 32) :=
  let w : Nat := 2 ^ (x.h.toNat % 8)
  let j : Nat := l.val % w
  let mode : Nat := x.lo.b23.toNat * 2 + x.lo.b22.toNat
  let b : W32 := if x.h.getLsbD 3 then
      (if mode = 2 then (x.b.extractLsb' 0 6).signExtend 32 else (x.b.extractLsb' 0 6).setWidth 32) else g.rdV x.b.toNat l
  let k : Int := if mode = 0 then b.toNat % w else if mode = 1 then (j + b.toNat) % w
    else if mode = 2 then j + b.toInt else (Nat.xor j (b.toNat % w) : Nat)
  if 0 ≤ k ∧ k < w then some (Fin.ofNat 32 (l.val - j + k.toNat)) else none
/-- R216: the active lanes whose Va equals that of lane l. -/
def equals (g : Group) (a : Nat) (m : Mask) (l : Fin 32) : List (Fin 32) :=
  (members m).filter fun k => g.rdV a k == g.rdV a l
/-- A mask from a list of lanes. -/
def maskFrom (ls : List (Fin 32)) : Mask := maskOf fun l => ls.contains l
/-- R217: the combination of a list of values. -/
def combined (op : Nat) (sgn : Bool) (xs : List W32) (y : W32) : Prop :=
  match op with
  | 0 => y.toNat = (xs.map (·.toNat)).sum % 2 ^ 32
  | 1 => xs ≠ [] → y ∈ xs ∧ ∀ x ∈ xs, asInt sgn y ≤ asInt sgn x
  | 2 => xs ≠ [] → y ∈ xs ∧ ∀ x ∈ xs, asInt sgn x ≤ asInt sgn y
  | 3 => ∀ k : Fin 32, y.getLsbD k.val = xs.all (·.getLsbD k.val)
  | 4 => ∀ k : Fin 32, y.getLsbD k.val = xs.any (·.getLsbD k.val)
  | 5 => ∀ k : Fin 32, y.getLsbD k.val = xs.foldl (fun b x => b != x.getLsbD k.val) false
  | 6 => y.toNat = (xs.filter (· ≠ 0)).length % 2 ^ 32
  | _ => y.toNat = (xs.map fun x => ((List.finRange 32).filter fun k => x.getLsbD k.val).length).sum % 2 ^ 32

/-- What the lane instructions without flags and REDUX write; taking: the contributing lanes. -/
def laneWrites (i : Instr) (u : Bool) (g : Group) (r : Run) (m taking : Mask) : Option Writes :=
  match i with
  | .shfl x => some ((Writes.v x.d.toNat m fun l => g.rdV x.a.toNat ((shuffled x g l).getD l)).and
      (Writes.p x.c.toNat m fun l => (shuffled x g l).any fun k => m.getLsbD k.val))
  | .bcst x =>
    let from' : Fin 32 := if x.lo.b22 then (members m).headD 0 else if x.lo.b23 then (members m).getLastD 0 else Fin.ofNat 32 x.b.toNat
    some (Writes.v x.d.toNat m fun _ => g.rdV x.a.toNat from')
  | .vote x =>
    let t := (members taking).filter fun l => g.rdP x.a.toNat l
    let n := (members taking).length
    some (match x.h.toNat % 8 with
      | 0 => Writes.pred u x.d.toNat m fun _ => decide (t.length = n)
      | 1 => Writes.pred u x.d.toNat m fun _ => decide (0 < t.length)
      | 2 => Writes.pred u x.d.toNat m fun _ => decide (t.length = n ∨ t.length = 0)
      | 3 => Writes.pred u x.d.toNat m fun _ => decide (t.length % 2 = 1)
      | 4 => Writes.data u x.d.toNat m fun _ => maskFrom t
      | _ => Writes.data u x.d.toNat m fun _ => w32 t.length)
  | .matchLanes x =>
    let e : Fin 32 → List (Fin 32) := equals g x.a.toNat m
    let one : Bool := (members m).all fun l => (members m).all fun k => g.rdV x.a.toNat k == g.rdV x.a.toNat l
    some (if x.lo.b23 then (Writes.v x.d.toNat m fun _ => if one then m else 0).and (Writes.p x.c.toNat m fun _ => one)
      else if x.lo.b22 then (Writes.v x.d.toNat m fun l => w32 ((e l).filter (· < l)).length).and
        (Writes.p x.c.toNat m fun l => (e l).all (· ≤ l))
      else (Writes.v x.d.toNat m fun l => maskFrom (e l)).and (Writes.p x.c.toNat m fun l => (e l).all (l ≤ ·)))
  | .s2v x => some (Writes.v x.d.toNat m fun _ => g.rdS x.a.toNat)
  | .v2s x => some (Writes.s x.d.toNat (g.rdV x.a.toNat
      (if x.lo.b22 then (members r.lanes).headD 0 else Fin.ofNat 32 x.b.toNat)))
  | _ => none

end Sys2Proof.Rules

/-- SHFL, BCST, VOTE, MATCH, S2V and V2S write what R213 to R216 say in every acting lane, from the registers as they stood
before, and change nothing else. -/
def Sys2Proof.Rules.LaneResult : Prop :=
  ∀ (i : Instr) (s : State) (n : Slot) (f : Form) (g : Group) (r : Run) (w : Writes),
    Rules.laneWrites i f.hd.u g r (acting f.hd g r) (takingLanes f.hd g r) = some w →
    Ready i s n f g r → acting f.hd g r ≠ 0 → g.stays s →
    ∃ t, exec i s = .next t ∧ OnlyGroup s t n ∧ w.take g (t.grp s.core n)

/-- REDUX writes the combination of Va over the contributing lanes (R217) to every acting lane of Vd or to Sd, and changes
nothing else. -/
def Sys2Proof.Rules.ReduxResult : Prop :=
  ∀ (x : FmtR) (s : State) (n : Slot) (f : Form) (g : Group) (r : Run),
    Ready (.redux x) s n f g r → acting f.hd g r ≠ 0 → g.stays s →
    ∃ (t : State) (y : W32), exec (.redux x) s = .next t ∧ OnlyGroup s t n
      ∧ Rules.combined (x.h.toNat % 8) (x.h.getLsbD 3) ((Rules.members (takingLanes f.hd g r)).map (g.rdV x.a.toNat)) y
      ∧ (Writes.data f.hd.u x.d.toNat (acting f.hd g r) fun _ => y).take g (t.grp s.core n)

namespace Sys2Proof.Rules
open Sys2Proof Sys2Proof.Machine

/-- R219: the combination of SCAN's integer operations over a list of values, lowest lane first. -/
def prefixOf (op : Nat) (xs : List W32) : W32 :=
  match op with
  | 0 => xs.foldl (· + ·) 0
  | 1 => xs.foldl (· ||| ·) 0
  | 2 => xs.foldl (· ^^^ ·) 0
  | 3 => xs.foldl (fun a x => if a.toInt ≤ x.toInt then a else x) 0x7FFFFFFF
  | _ => xs.foldl (fun a x => if x.toInt ≤ a.toInt then a else x) 0x80000000

end Sys2Proof.Rules

/-- SCAN with an integer operation: acting lane l of Vd takes the combination of Va over the acting lanes up to l, or below
l with EX (the identity when there is none), whatever the order of the tree of R183; no flag is set and nothing else
changes. -/
def Sys2Proof.Rules.IntegerScanIsPrefix : Prop :=
  ∀ (x : FmtR) (s : State) (n : Slot) (f : Form) (g : Group) (r : Run),
    Ready (.scan x) s n f g r → acting f.hd g r ≠ 0 → g.stays s → x.h.toNat % 8 ≤ 4 →
    ∃ t, exec (.scan x) s = .next t ∧ OnlyGroup s t n
      ∧ (Writes.v x.d.toNat (acting f.hd g r) fun l => Rules.prefixOf (x.h.toNat % 8)
          (((Rules.members (acting f.hd g r)).filter fun k => if x.lo.b23 then decide (k < l) else decide (k ≤ l)).map
            (g.rdV x.a.toNat))).take g (t.grp s.core n)

namespace Sys2Proof.Rules
open Sys2Proof Sys2Proof.Machine

/-- Values and node flags of FREDUX (R182, R218), float SCAN (R183, R219) and QNT (R250): what is written, and the flags of
each node or lane. -/
def treeEffect (i : Instr) (t : Team) (u : Bool) (g : Group) (m taking : Mask) : Option (Writes × (Fin 32 → BitVec 5) × BitVec 3) :=
  match i with
  | .fredux x =>
    let y := treeReduce (nodeOp (x.h.toNat % 4) x.lo) (treeOf taking fun l => fp32.flush x.lo.b21 (g.rdV x.a.toNat l).toNat)
    some (Writes.data u x.d.toNat m fun _ => w32 (y.v[(0 : Fin 32)].getD 0), fun l => y.fl[l], 0)
  | .scan x =>
    if x.h.toNat % 8 ≤ 4 then none
    else
      let y := treeScan (nodeOp (x.h.toNat % 8 - 5) x.lo) (treeOf m fun l => fp32.flush x.lo.b21 (g.rdV x.a.toNat l).toNat)
      let at' : Fin 32 → W32 := fun l => w32 (y.v[l].getD 0)
      some (Writes.v x.d.toNat m fun l =>
        if x.lo.b23 then (match ((members m).filter (· < l)).getLast? with
          | some k => at' k
          | none => if x.h.toNat % 8 = 5 then 0 else if x.h.toNat % 8 = 6 then 0x7F800000 else 0xFF800000) else at' l,
        fun l => y.fl[l], 0)
  | .qnt x =>
    let q := mxQuantise (x.h.toNat % 32) x.lo.m.toNat ((List.finRange 32).map fun l =>
      (if m.getLsbD l.val then (g.rdV x.a.toNat l).toNat else 0, laneDraw t g l 0))
    some ((Writes.v x.d.toNat m fun l => w32 ((q.2.getD l.val ⟨0, 0⟩).bits)).and (Writes.s x.c.toNat (w32 q.1)),
      fun l => if m.getLsbD l.val then (q.2.getD l.val ⟨0, 0⟩).flags else 0, x.lo.m)
  | _ => none

end Sys2Proof.Rules

/-- FREDUX, float SCAN and QNT, when no node or element raises an enabled flag: the tree's or the block's values are
written, FPSTAT takes the OR of all flags, QNT.SR counts SRCNT up, and nothing else changes. -/
def Sys2Proof.Rules.FloatTreeAndBlockResult : Prop :=
  ∀ (i : Instr) (s : State) (n : Slot) (f : Form) (g : Group) (r : Run) (w : Writes) (fl : Fin 32 → BitVec 5) (rm : BitVec 3),
    Rules.treeEffect i (s.team s.core g.team) f.hd.u g (acting f.hd g r) (takingLanes f.hd g r) = some (w, fl, rm) →
    Ready i s n f g r → acting f.hd g r ≠ 0 → g.stays s → (∀ l, fl l &&& fpEnables g = 0) →
    ∃ t, exec i s = .next t ∧ OnlyGroup s t n
      ∧ (w.and (Rules.floatMarks g rm ((List.finRange 32).foldl (fun a l => a ||| fl l) 0))).take g (t.grp s.core n)

/-- LaneResult, ReduxResult: the parts above together. -/
def Obligations.LaneInstructions : Prop :=
  Sys2Proof.Rules.LaneResult ∧ Sys2Proof.Rules.ReduxResult

/-- IntegerScanIsPrefix, FloatTreeAndBlockResult: the parts above together. -/
def Obligations.ScanAndBlockInstructions : Prop :=
  Sys2Proof.Rules.IntegerScanIsPrefix ∧ Sys2Proof.Rules.FloatTreeAndBlockResult

/-! ## Memory (R57 to R70, R253 to R277) -/

namespace Sys2Proof.Rules
open Sys2Proof Sys2Proof.Machine

/-- What a memory instruction does once it issues: R64 for each lane, the bytes moved, the access of each lane, whether it
is an atomic, and its release and acquire parts. -/
structure MemForm where
  at'  : Fin 32 → Except Trap Nat
  lh   : BitVec 6
  size : Nat
  op   : Fin 32 → AccOp
  rmw  : Bool := false
  rel  : Option (BitVec 3) := none
  acq  : Option (BitVec 3) := none

/-- The step tag of a store through an entry whose STG bit is set (R109, R259). -/
def stepTag (s : State) (g : Group) (lh : BitVec 6) : Option W32 :=
  if (entryOf s g lh).getLsbD 68 then some (s.team s.core g.team).step else none

/-- The memory and atomic instructions whose lanes each make one access. -/
def memForm (i : Instr) (s : State) (n : Slot) (h : Hd) (g : Group) : Option MemForm :=
  let at' (k : AccKind) (lh : BitVec 6) (cr : BitVec 8) (dm : BitVec 2) (off : Int) (size : Nat) (l : Fin 32) : Except Trap Nat :=
    locate s (s.team s.core g.team) ⟨s.core, g.team, n, l⟩ k lh.toNat (entryOf s g lh) (g.coords h.u cr.toNat (dm.toNat + 1) l)
      off size (if h.u then none else some l)
  let cp (lo : Low) : BitVec 2 := BitVec.ofBool lo.b23 ++ BitVec.ofBool lo.b22
  let bytes (x : FmtM) (l : Fin 32) : List Byte :=
    (List.range (2 ^ x.lo.m.toNat)).map fun k => byteAt (g.src h.u (x.d.toNat + k / 4) l) (k % 4)
  let one (r : Nat) (w64 : Bool) (l : Fin 32) : W64 := (if w64 then g.src h.u (r + 1) l else 0) ++ g.src h.u r l
  let amo (x : FmtMA) (size : Nat) (dst : Option (RegCls × Nat)) (f : Fin 32 → AtomFn) : Option MemForm :=
    some { at' := at' .atomic x.lh x.cr x.dm 0 size, lh := x.lh, size := size
           op := fun l => .atom (f l) x.sco (stepTag s g x.lh) dst, rmw := true
           rel := if x.ord.getLsbD 0 then some x.sco else none, acq := if x.ord.getLsbD 1 then some x.sco else none }
  let data (x : FmtMA) : Option (RegCls × Nat) := some (if h.u then .s else .v, x.d.toNat)
  let flt (x : FmtMA) (l : Fin 32) : AtomFn := .flt (x.op.extractLsb' 2 2) (x.op.extractLsb' 0 2) (g.src h.u x.b.toNat l)
  let w (b : Bool) : Nat := if b then 8 else 4
  match i with
  | .ld x => some { at' := at' .load x.lh x.cr x.dm x.off.toInt (2 ^ x.lo.m.toNat), lh := x.lh, size := 2 ^ x.lo.m.toNat
                    op := fun _ => .load (cp x.lo) x.lo.b21 .v x.d.toNat }
  | .ldu x => some { at' := at' .load x.lh x.cr x.dm x.off.toInt (2 ^ x.lo.m.toNat), lh := x.lh, size := 2 ^ x.lo.m.toNat
                     op := fun _ => .load (cp x.lo) x.lo.b21 .s x.d.toNat }
  | .st x | .stu x =>
    some { at' := at' .store x.lh x.cr x.dm x.off.toInt (2 ^ x.lo.m.toNat), lh := x.lh, size := 2 ^ x.lo.m.toNat
           op := fun l => .store (bytes x l) (stepTag s g x.lh) }
  | .ldf x => some { at' := at' .load x.lh x.cr x.dm x.off.toInt 32, lh := x.lh, size := 32
                     op := fun _ => .loadRow (cp x.lo) (x.d.setWidth 4) }
  | .stf x => some { at' := at' .store x.lh x.cr x.dm x.off.toInt 32, lh := x.lh, size := 32
                     op := fun l => .store ((List.range 32).map fun k => (g.rdA x.d.toNat l).extractLsb' (8 * k) 8) (stepTag s g x.lh) }
  | .cctl x => some { at' := elemAt s n h g x, lh := x.lh, size := 1, op := fun _ => .cctl x.lo.m }
  | .atom x => amo x (w x.w64) (data x) fun l => .int x.op x.w64 (one x.b.toNat x.w64 l)
  | .atomf x => amo x 4 (data x) (flt x)
  | .cas x => amo x (w x.w64) (data x) fun l =>
      .cas x.w64 (one x.b.toNat x.w64 l) (one (x.b.toNat + if x.w64 then 2 else 1) x.w64 l)
  | .red x => amo x (w x.w64) none fun l => .int x.op x.w64 (one x.b.toNat x.w64 l)
  | .redf x => amo x 4 none (flt x)
  | .ffill x => amo x 8 (some (if h.u then .q else .p, x.d.toNat)) fun l => .fill (g.src h.u x.b.toNat l)
  | .freset x => amo x 8 none fun _ => .clear
  | _ => none

/-- The entry that the instruction takes among the outstanding ones of its group. -/
def memOut (s : State) (g : Group) (r : Run) (f : Form) (m : MemForm) (u : Fin 32 → Nat) (ls : List (Fin 32)) : Out :=
  { sb := f.hd.sb
    kind := .mem (ls.map fun l => { lane := l, lh := m.lh, entry := entryOf s g m.lh, u := u l, size := m.size, op := m.op l })
    dests := formDests f, rmw := m.rmw, count := g.retired, epoch := g.epoch, pc := r.pc, idx := r.idx, rel := m.rel
    acq := m.acq }

/-- The instruction has issued: one more on its counter, the next instruction of the clause, nothing written yet; the vector
registers that it will write are live (R149). -/
def issued (g : Group) (f : Form) (o : Out) : Group :=
  { g with
    retired := g.retired + 1, cap := none, waitKids := none, mapped := g.mapped ||| formVdests f
    run := g.run.map fun r => { r with idx := r.idx + 1 }, out := g.out ++ [o] }
/-- The end of the turn of a long-latency instruction that group n has issued: what is outstanding goes on, unless its
accesses are left for turns of their own; the clause may end. -/
def afterIssue (s : State) (n : Slot) : State := endTurn (if s.later then s else runMem s s.core n) n
/-- Nothing that the group has issued before waits for memory. -/
def Clear (g : Group) : Prop := ∀ o ∈ g.out, ¬ o.pending ∧ o.acq = none

end Sys2Proof.Rules

/-- LD, ST, LDU, STU, LDF, STF, CCTL, ATOM, ATOMF, CAS, RED, REDF, FFILL and FRESET in every space, size, order and scope:
when every acting lane passes R64 the instruction stands outstanding with one access per acting lane, lowest lane first,
carrying what was read at issue, and what is outstanding goes on in issue order. -/
def Sys2Proof.Rules.MemoryInstructionIssues : Prop :=
  ∀ (i : Instr) (s : State) (n : Slot) (f : Form) (g : Group) (r : Run) (m : Rules.MemForm) (u : Fin 32 → Nat),
    Rules.memForm i s n f.hd g = some m → Ready i s n f g r → acting f.hd g r ≠ 0 →
    (∀ l, (acting f.hd g r).getLsbD l.val = true → m.at' l = .ok (u l)) →
    exec i s = .next (Rules.afterIssue (s.modGrp s.core n fun _ =>
      Rules.issued g f (Rules.memOut s g r f m u (Rules.members (acting f.hd g r)))) n)

/-- The same instructions when an acting lane fails a check of R64: the trap is that of the lowest such lane, taken from the
state before the instruction, so that no lane has accessed memory and no register has changed. -/
def Sys2Proof.Rules.MemoryInstructionTraps : Prop :=
  ∀ (i : Instr) (s : State) (n : Slot) (f : Form) (g : Group) (r : Run) (m : Rules.MemForm) (l : Fin 32) (t : Trap),
    Rules.memForm i s n f.hd g = some m → Ready i s n f g r → (acting f.hd g r).getLsbD l.val = true → m.at' l = .error t →
    (∀ k : Fin 32, k < l → (acting f.hd g r).getLsbD k.val = true → ∃ u, m.at' k = .ok u) →
    exec i s = .next (takeTrap s s.core n r.pc r.idx r.lanes t)

namespace Sys2Proof.Rules
open Sys2Proof Sys2Proof.Machine

/-- R66, R67: the place of byte k of a lane's access in a scratch space. -/
def scratchPlace (e : Ent) (u k : Nat) : Nat :=
  let o := entBase e + (u + k)
  if entPerm e = 0 then o else o ^^^ ((o / 2 ^ (6 + entPerm e) % 8) * 16)
/-- The team's memory of the entry's scratch space. -/
def scratchOf (s : State) (g : Group) (e : Ent) : MTgt := scratchTgt s.core g.team (entSpace e)
/-- R257: the words that a load of bytes b writes, sign-extended with SX. -/
def loadedWords (sx : Bool) (b : List Byte) : List W32 :=
  let v : Nat := natLE b
  if b.length < 4 then
    [if sx && decide (2 ^ (8 * b.length - 1) ≤ v) then BitVec.ofInt 32 ((v : Int) - 2 ^ (8 * b.length)) else BitVec.ofNat 32 v]
  else (List.range (b.length / 4)).map fun i => BitVec.ofNat 32 (v / 2 ^ (32 * i))
/-- The results that a load of bytes b holds for lane l. -/
def loadWrites (op : AccOp) (l : Fin 32) (b : List Byte) : List RegWrite :=
  match op with
  | .load _ sx cls reg => (loadedWords sx b).zipIdx.map fun x =>
      if cls = .s then .s (BitVec.ofNat 6 (reg + x.2)) x.1 false else .v (BitVec.ofNat 8 (reg + x.2)) l x.1 false
  | .loadRow _ reg => [.a reg l (BitVec.ofNat 256 (natLE b)) false]
  | _ => []
/-- Whether the access is a load. -/
def isLoad : AccOp → Bool
  | .load .. | .loadRow .. => true
  | _ => false

/-- Between s and t nothing has changed but group n, the memory of one scratch space of one team, wait-table entries that
a write has fired, and the task pool's split into bins. -/
structure OnlyScratch (s t : State) (n : Slot) (sp : MTgt) : Prop where
  state  : t = { s with cores := t.cores }
  core   : ∀ c : CoreId, ∃ x, t.cores[c] = { s.cores[c] with ctx := x }
  groups : ∀ c m, ¬ (c = s.core ∧ m = n) → t.grp c m = s.grp c m
  mems   : ∀ q, q ≠ sp → memOf t q = memOf s q
  teams  : ∀ c k, { t.team c k with shared := [], wbuf := [], xbuf := [], ybuf := [] }
    = { s.team c k with shared := [], wbuf := [], xbuf := [], ybuf := [] }

end Sys2Proof.Rules

/-- A load (LD, LDU, LDF) from SHARED, WBUF, XBUF or YBUF with no earlier access of the group waiting, on a turn that makes
its accesses: it is performed at issue; the group holds, for its retirement, the extended words or the fragment row of the
bytes at each acting lane's location (in the order of its line requests); no register, no byte of memory and nothing else
changes. -/
def Sys2Proof.Rules.ScratchLoadResult : Prop :=
  ∀ (i : Instr) (s : State) (n : Slot) (f : Form) (g : Group) (r : Run) (m : Rules.MemForm) (u : Fin 32 → Nat),
    Rules.memForm i s n f.hd g = some m → (∀ l, Rules.isLoad (m.op l) = true) →
    Ready i s n f g r → acting f.hd g r ≠ 0 → g.stays s →
    (∀ l, (acting f.hd g r).getLsbD l.val = true → m.at' l = .ok (u l)) →
    isScratch (entSpace (entryOf s g m.lh)) = true → Rules.Clear g → s.later = false →
    ∃ t, exec i s = .next t ∧ OnlyGroup s t n ∧ Writes.nil.take g (t.grp s.core n)
      ∧ ∃ ws : List RegWrite, (t.grp s.core n).out = g.out ++ [{ Rules.memOut s g r f m u [] with kind := .done, writes := ws }]
        ∧ ws.Perm ((Rules.members (acting f.hd g r)).flatMap fun l => Rules.loadWrites (m.op l) l
            ((List.range m.size).map fun k => placeByte s
              ⟨Rules.scratchOf s g (entryOf s g m.lh), Rules.scratchPlace (entryOf s g m.lh) (u l) k⟩))

namespace Sys2Proof.Rules
open Sys2Proof Sys2Proof.Machine

/-- Bytes and places that the lanes of a store write, in order. -/
def storeCells (e : Ent) (m : MemForm) (u : Fin 32 → Nat) (ls : List (Fin 32)) : List (Nat × Byte) :=
  ls.flatMap fun l => match m.op l with
    | .store b _ => (List.range m.size).map fun k => (scratchPlace e (u l) k, b.getD k 0)
    | _ => []
/-- The byte at a place after cells have been written in order: the last one that names the place stands. -/
def lastOf (cs : List (Nat × Byte)) (a : Nat) (old : Byte) : Byte := cs.foldl (fun b c => if c.1 = a then c.2 else b) old
/-- Whether the access is a store. -/
def isStore : AccOp → Bool
  | .store .. => true
  | _ => false

end Sys2Proof.Rules

/-- A store (ST, STU, STF) to SHARED, WBUF, XBUF or YBUF with no earlier access of the group waiting, on a turn that makes its
accesses: the bytes of each
acting lane stand at its location, those of the highest lane where lanes meet; every other byte of that memory, every
other memory, every register and every other group is unchanged. -/
def Sys2Proof.Rules.ScratchStoreResult : Prop :=
  ∀ (i : Instr) (s : State) (n : Slot) (f : Form) (g : Group) (r : Run) (m : Rules.MemForm) (u : Fin 32 → Nat),
    Rules.memForm i s n f.hd g = some m → (∀ l, Rules.isStore (m.op l) = true) →
    Ready i s n f g r → acting f.hd g r ≠ 0 → g.stays s →
    (∀ l, (acting f.hd g r).getLsbD l.val = true → m.at' l = .ok (u l)) →
    isScratch (entSpace (entryOf s g m.lh)) = true → Rules.Clear g → s.later = false →
    ∃ t, exec i s = .next t ∧ Rules.OnlyScratch s t n (Rules.scratchOf s g (entryOf s g m.lh))
      ∧ Writes.nil.take g (t.grp s.core n)
      ∧ (t.grp s.core n).out = g.out ++ [{ Rules.memOut s g r f m u [] with kind := .done }]
      ∧ ∀ a, placeByte t ⟨Rules.scratchOf s g (entryOf s g m.lh), a⟩
          = Rules.lastOf (Rules.storeCells (entryOf s g m.lh) m u (Rules.members (acting f.hd g r))) a
              (placeByte s ⟨Rules.scratchOf s g (entryOf s g m.lh), a⟩)

namespace Sys2Proof.Rules
open Sys2Proof Sys2Proof.Machine

/-- R266: the value an integer atomic leaves for old value a and operand b, of w bits. -/
def amoValue (op w a b : Nat) : Nat :=
  let sg (x : Nat) : Int := if 2 ^ (w - 1) ≤ x then (x : Int) - 2 ^ w else x
  match op with
  | 0 => (a + b) % 2 ^ w
  | 1 => min a b
  | 2 => max a b
  | 3 => if sg a ≤ sg b then a else b
  | 4 => if sg b ≤ sg a then a else b
  | 5 => Nat.land a b
  | 6 => Nat.lor a b
  | 7 => Nat.xor a b
  | 8 => b
  | 9 => if b ≤ a then 0 else a + 1
  | _ => if a = 0 ∨ b < a then b else a - 1
/-- R266 to R268, R120: what an atomic writes to a cell that holds `old`, or nothing. -/
def cellAfter (f : AtomFn) (old : Nat) : Option Nat :=
  match f with
  | .int op w64 b => some (if w64 then amoValue op.toNat 64 old b.toNat else amoValue op.toNat 32 old (b.toNat % 2 ^ 32))
  | .cas w64 cmp new => if old = (if w64 then cmp.toNat else cmp.toNat % 2 ^ 32) then some new.toNat else none
  | .fill v => if old.testBit 32 then none else some (2 ^ 32 + v.toNat)
  | .clear => some 0
  | f => (atomNew f (BitVec.ofNat 64 old)).map (·.toNat)

/-- The lanes' atomics on one scratch memory, one after the other: the memory they leave and each lane's old value. -/
def atomChain (e : Ent) (u : Fin 32 → Nat) (size : Nat) (f : Fin 32 → AtomFn) :
    List (Fin 32) → (Nat → Byte) → (Nat → Byte) × List (Fin 32 × Nat)
  | [], σ => (σ, [])
  | l :: ls, σ =>
    let old : Nat := natLE ((List.range size).map fun k => σ (scratchPlace e (u l) k))
    let σ' : Nat → Byte := match cellAfter (f l) old with
      | none => σ
      | some v => fun a => lastOf ((List.range size).map fun k => (scratchPlace e (u l) k, BitVec.ofNat 8 (v / 2 ^ (8 * k)))) a (σ a)
    let y := atomChain e u size f ls σ'
    (y.1, (l, old) :: y.2)
/-- The results a returning atomic holds for lane l: the old value in its words; FFILL's predicate says that the cell was
empty. -/
def amoWrites (dst : Option (RegCls × Nat)) (size : Nat) (l : Fin 32) (old : Nat) : List RegWrite :=
  match dst with
  | none => []
  | some (.p, r) => [.p (BitVec.ofNat 3 r) l (!old.testBit 32)]
  | some (.q, r) => [.q (BitVec.ofNat 2 r) (!old.testBit 32)]
  | some (cls, r) => (List.range (size / 4)).map fun i =>
      if cls = .s then .s (BitVec.ofNat 6 (r + i)) (BitVec.ofNat 32 (old / 2 ^ (32 * i))) false
      else .v (BitVec.ofNat 8 (r + i)) l (BitVec.ofNat 32 (old / 2 ^ (32 * i))) false

end Sys2Proof.Rules

/-- ATOM, ATOMF, CAS, RED, REDF, FFILL and FRESET on SHARED, relaxed, outside deterministic mode, with no earlier access of
the group waiting: the acting lanes perform their read and write one after the other, lowest lane first; a returning
form holds each lane's old value for its retirement; every other byte and everything else is unchanged. -/
def Sys2Proof.Rules.ScratchAtomicResult : Prop :=
  ∀ (i : Instr) (s : State) (n : Slot) (f : Form) (g : Group) (r : Run) (m : Rules.MemForm) (u : Fin 32 → Nat)
    (fn : Fin 32 → AtomFn) (sco : BitVec 3) (tag : Option W32) (dst : Option (RegCls × Nat)),
    Rules.memForm i s n f.hd g = some m → (∀ l, m.op l = .atom (fn l) sco tag dst) → m.rel = none → m.acq = none →
    Ready i s n f g r → acting f.hd g r ≠ 0 → g.stays s → s.det s.core = false →
    (∀ l, (acting f.hd g r).getLsbD l.val = true → m.at' l = .ok (u l)) →
    isScratch (entSpace (entryOf s g m.lh)) = true → Rules.Clear g → s.later = false →
    ∃ t, exec i s = .next t ∧ Rules.OnlyScratch s t n (Rules.scratchOf s g (entryOf s g m.lh))
      ∧ Writes.nil.take g (t.grp s.core n)
      ∧ (let y := Rules.atomChain (entryOf s g m.lh) u m.size fn (Rules.members (acting f.hd g r))
            fun a => placeByte s ⟨Rules.scratchOf s g (entryOf s g m.lh), a⟩
         (∀ a, placeByte t ⟨Rules.scratchOf s g (entryOf s g m.lh), a⟩ = y.1 a)
         ∧ (t.grp s.core n).out = g.out ++ [{ Rules.memOut s g r f m u [] with
             kind := .done, writes := y.2.flatMap fun x => Rules.amoWrites dst m.size x.1 x.2 }])

namespace Sys2Proof.Rules
open Sys2Proof Sys2Proof.Machine

/-- R62: the kinds of access a space allows. -/
def allows (k : AccKind) (sp : Nat) : Prop :=
  match k with
  | .load | .store => True
  | .kltLoad | .kltStore | .copySrc | .copyDst => sp ≠ 6
  | .atomic => sp = 0 ∨ sp = 2 ∨ sp = 7
  | .stageSrc => sp = 0 ∨ sp = 1
/-- R64: coordinate d with the offset. -/
def coord (cs : List W32) (off : Int) (d : Nat) : Int := ((cs.getD d 0).toNat : Int) + if d = 0 then off else 0
/-- R64: elements a lane access moves. -/
def moved (e : Ent) (size : Nat) : Nat := max 1 (size * 8 / entW e)
/-- R64: the bit offset. -/
def bitOffset (e : Ent) (cs : List W32) (off : Int) : Int :=
  (coord cs off 0 * entStride e 0 + coord cs off 1 * entStride e 1 + coord cs off 2 * entStride e 2
    + coord cs off 3 * entStride e 3) * entW e

end Sys2Proof.Rules

/-- R64: an access is allowed, at byte offset u, exactly when its entry is usable under a key of its context, the space and
the rights allow it, the shape fits, every coordinate lies inside its extent, the offset is whole bytes (and for an atomic
a multiple of its size) and every byte moved lies in the space. -/
def Obligations.AccessCheckIsComplete : Prop :=
  ∀ (s : State) (t : Team) (w : Who) (k : AccKind) (lh : Nat) (e : Ent) (cs : List W32) (off : Int) (size : Nat)
    (lane : Option (Fin 32)) (u : Nat), cs.length ≤ 4 → 0 < size →
    (locate s t w k lh e cs off size lane = .ok u ↔
      usable e = true ∧ keyOk s t.asid e = true ∧ Rules.allows k (entSpace e) ∧ (entRights e).getLsbD (rightBit k) = true
      ∧ cs.length ≤ entNdim e + 1 ∧ (1 < Rules.moved e size → entStride e 0 = 1)
      ∧ (∀ d ≤ entNdim e, 0 ≤ Rules.coord cs off d
          ∧ Rules.coord cs off d + (if d = 0 then (Rules.moved e size : Int) - 1 else 0) < entExt e d)
      ∧ Rules.bitOffset e cs off = 8 * (u : Int) ∧ (k = .atomic → u % size = 0)
      ∧ mapFits t s.hub.node.toNat w e u size = true)

/-- R66, R67: the pitch leaves the gap of every 256-byte block empty, keeps bytes apart and adds up, so that an entry moved
to an element (R69) reaches the bytes of its parent; the permutation of a scratch space keeps bytes apart and stays in
its 128-byte row. -/
def Obligations.PlacementKeepsBytesApart : Prop :=
  (∀ base u, pitch base u % 256 < 192)
  ∧ (∀ base u v, base % 256 < 192 → pitch (pitch base u) v = pitch base (u + v))
  ∧ (∀ base u v, pitch base u = pitch base v → u = v)
  ∧ (∀ base u, base % 256 < 192 → unpitch (pitch base u) = unpitch base + u)
  ∧ (∀ p o o', p ≤ 7 → permute p o = permute p o' → o = o')
  ∧ (∀ p o, p ≤ 7 → permute p o / 128 = o / 128 ∧ permute p o % 16 = o % 16)

/-- R69: LTSUB's new entry reaches no element that its parent does not: its box lies in the parent's at the origin, its
rights are those of both, and its space, key, home, strides, permutation, tags and element width are the parent's. -/
def Obligations.NarrowingNeverWidens : Prop :=
  ∀ (p old e : Ent) (same : Bool) (lp ld : Nat) (o n : Nat → Nat) (m : BitVec 5) (fmt : Option (BitVec 5)),
    (∀ d, o d < 2 ^ 32) → (∀ d, n d < 2 ^ 32) → narrow p old same lp ld o n m fmt = .ok e →
    (∀ d ≤ entNdim p, o d + entExt e d ≤ entExt p d ∧ 1 ≤ entExt e d)
    ∧ entRights e = entRights p &&& m
    ∧ entSpace e = entSpace p ∧ entKey e = entKey p ∧ entNdim e = entNdim p ∧ entPerm e = entPerm p ∧ entPst e = entPst p
    ∧ entStg e = entStg p ∧ entHpol e = entHpol p ∧ entHnode e = entHnode p ∧ entHcnt e = entHcnt p ∧ entHgran e = entHgran p
    ∧ entValid e = true ∧ entW e = entW p ∧ (∀ d < 4, entStride e d = entStride p d)

namespace Sys2Proof.Rules
open Sys2Proof Sys2Proof.Machine

/-- Between s and t nothing has changed but group n, team k of the running core, which is now T, and the task pool's split
into bins. -/
structure OnlyTeam (s t : State) (n k : Slot) (T : Team) : Prop where
  state  : t = { s with cores := t.cores }
  others : ∀ c, c ≠ s.core → t.cores[c] = s.cores[c]
  here   : ∃ gs ts p b m, t.cores[s.core] = { s.cores[s.core] with
    ctx := { (s.cores[s.core]).ctx with groups := gs, teams := ts, pool := p, bins := b, forms := m } }
  groups : ∀ m, m ≠ n → t.grp s.core m = s.grp s.core m
  teams  : ∀ m, m ≠ k → t.team s.core m = s.team s.core m
  team   : t.team s.core k = T

/-- LTSUB's derived entry or trap, from the registers it names (R263). -/
def derived (s : State) (x : FmtR) (g : Group) : Except Trap Ent :=
  narrow (entryOf s g (x.a.setWidth 6)) (entryOf s g (x.d.setWidth 6)) (x.d.setWidth 6 == x.a.setWidth 6) (x.a.toNat % 64) (x.d.toNat % 64)
    (fun d => (g.rdS (x.b.toNat + d)).toNat) (fun d => (g.rdS (x.b.toNat + 4 + d)).toNat) ((g.rdS x.c.toNat).setWidth 5)
    (if x.lo.b22 then some (x.h.setWidth 5) else none)
/-- The team with slot k of its layout store replaced. -/
def withSlot (t : Team) (k : BitVec 6) (e : Ent) : Team := { t with ls := vset t.ls k.toFin e }

end Sys2Proof.Rules

/-- LTSUB writes the derived entry to its slot or takes the first trap of R263; LTSUB.INV clears VALID of its slot and
nothing else; LTQRY reads a word, zero for an invalid slot, BASE hidden outside scratch, LAYOUT_RIGHTS for a valid entry
without RD; PREF takes no trap, whatever its lanes name, and writes no register. Registers and other slots keep their
values. -/
def Obligations.LayoutInstructions : Prop :=
  (∀ (x : FmtR) (s : State) (n : Slot) (f : Form) (g : Group) (r : Run) (e : Ent),
    Ready (.ltsub x) s n f g r → acting f.hd g r ≠ 0 → g.stays s → Rules.derived s x g = .ok e →
    ∃ t, exec (.ltsub x) s = .next t ∧ Writes.nil.take g (t.grp s.core n)
      ∧ Rules.OnlyTeam s t n g.team (Rules.withSlot (s.team s.core g.team) (x.d.setWidth 6) e))
  ∧ (∀ (x : FmtR) (s : State) (n : Slot) (f : Form) (g : Group) (r : Run) (t : Trap),
    Ready (.ltsub x) s n f g r → acting f.hd g r ≠ 0 → Rules.derived s x g = .error t →
    exec (.ltsub x) s = .next (takeTrap s s.core n r.pc r.idx r.lanes t))
  ∧ (∀ (x : FmtR) (s : State) (n : Slot) (f : Form) (g : Group) (r : Run),
    Ready (.ltsubInv x) s n f g r → acting f.hd g r ≠ 0 → g.stays s →
    ∃ (t : State) (e : Ent), exec (.ltsubInv x) s = .next t ∧ Writes.nil.take g (t.grp s.core n)
      ∧ Rules.OnlyTeam s t n g.team (Rules.withSlot (s.team s.core g.team) (x.d.setWidth 6) e)
      ∧ ∀ k < 512, e.getLsbD k = (if k = 127 then false else (entryOf s g (x.d.setWidth 6)).getLsbD k))
  ∧ (∀ (x : FmtR) (s : State) (n : Slot) (f : Form) (g : Group) (r : Run),
    Ready (.ltqry x) s n f g r → acting f.hd g r ≠ 0 → g.stays s →
    let e := entryOf s g (x.a.setWidth 6)
    let k : Nat := 8 * x.lo.b21.toNat + x.lo.m.toNat
    (if e.getLsbD 127 && !e.getLsbD 69 then
      exec (.ltqry x) s = .next (takeTrap s s.core n r.pc r.idx r.lanes { cause := 0x09, x1 := w32 (x.a.toNat % 64) })
    else ∃ (t : State) (y : W32), exec (.ltqry x) s = .next t ∧ OnlyGroup s t n ∧ (Writes.s x.d.toNat y).take g (t.grp s.core n)
      ∧ ∀ j < 32, y.getLsbD j = (e.getLsbD 127 && (isScratch (entSpace e) || decide (57 ≤ 32 * k + j)) && e.getLsbD (32 * k + j))))
  ∧ (∀ (x : FmtM) (s : State) (n : Slot) (f : Form) (g : Group) (r : Run),
    Ready (.pref x) s n f g r → acting f.hd g r ≠ 0 →
    ∃ s' t : State, exec (.pref x) s = .next t ∧ t = endTurn (s'.modGrp s.core n fun g => (g.mapDests f).finish f.hd) n
      ∧ (∀ c m, s'.grp c m = s.grp c m) ∧ (∀ c m, s'.team c m = s.team c m))

/-- MemoryInstructionIssues, MemoryInstructionTraps: the parts above together. -/
def Obligations.MemoryInstructions : Prop :=
  Sys2Proof.Rules.MemoryInstructionIssues ∧ Sys2Proof.Rules.MemoryInstructionTraps

/-- ScratchLoadResult, ScratchStoreResult, ScratchAtomicResult: the parts above together. -/
def Obligations.ScratchAccess : Prop :=
  Sys2Proof.Rules.ScratchLoadResult ∧ Sys2Proof.Rules.ScratchStoreResult ∧ Sys2Proof.Rules.ScratchAtomicResult

/-! ## Issue, traps and control (R145 to R162, R192, R220 to R230, R395 to R398) -/

/-- An instruction whose guard fails in every lane still in the clause (or whose Q guard fails) does nothing: the clause
goes on, no register, no memory and nothing else changes (R147). -/
def Sys2Proof.Rules.NoActingLaneDoesNothing : Prop :=
  ∀ (i : Instr) (s : State) (n : Slot) (f : Form) (g : Group) (r : Run),
    Ready i s n f g r → acting f.hd g r = 0 → g.stays s →
    ∃ t, exec i s = .next t ∧ OnlyGroup s t n ∧ Writes.nil.take g (t.grp s.core n)
      ∧ (r.idx < hdrN r.hdr → (t.grp s.core n).run = some { r with idx := r.idx + 1 })

namespace Sys2Proof.Rules
open Sys2Proof Sys2Proof.Machine

/-- Group n of the running core stands at instruction r.idx of its clause, whose word is w, and may issue it. -/
structure Standing (s : State) (n : Slot) (g : Group) (r : Run) (w : W64) : Prop where
  agent    : s.agent = .group n
  group    : s.grp s.core n = g
  resident : g.resident = true
  noFetch  : g.fetch = none
  awake    : g.block.looks = true
  run      : g.run = some r
  inside   : r.idx ≤ hdrN r.hdr
  word     : r.words.getD r.idx 0 = w

/-- The encoding trap of R192 with the word in XINFO1 and XINFO2 (R397). -/
def encodingTrap (s : State) (n : Slot) (r : Run) (w : W64) (cause : BitVec 8) : Host.Outcome State Fault Refusal :=
  .next (takeTrap s s.core n r.pc r.idx r.lanes { cause := cause, x1 := w.setWidth 32, x2 := (w >>> 32).setWidth 32 })

end Sys2Proof.Rules

/-- The encoding checks of R192 in their order, whatever the guard and whichever lanes are active: an unassigned opcode
(ILL among them) takes ILLEGAL_OPCODE; a class that the header's CLS does not permit BAD_HEADER; a field out of its
range or an instruction that must be last ILLEGAL_FIELD; a register above the team's allocation REG_RANGE. Each is taken at
the instruction, from the state before it. -/
def Sys2Proof.Rules.EncodingTrapsInOrder : Prop :=
  ∀ (i : Instr) (s : State) (n : Slot) (g : Group) (r : Run) (w : W64), Rules.Standing s n g r w →
    (∀ bits, i = .ill bits → exec i s = Rules.encodingTrap s n r w 0x01)
    ∧ ∀ f, i.form = some f →
        (clauseUnit i &&& hdrCls r.hdr ≠ clauseUnit i → exec i s = Rules.encodingTrap s n r w 0x04)
        ∧ (clauseUnit i &&& hdrCls r.hdr = clauseUnit i → (f.wf = false ∨ (f.last = true ∧ r.idx ≠ hdrN r.hdr)) →
            exec i s = Rules.encodingTrap s n r w 0x02)
        ∧ (clauseUnit i &&& hdrCls r.hdr = clauseUnit i → f.wf = true → (f.last = true → r.idx = hdrN r.hdr) →
            (∃ u ∈ f.regs, allocated u (LRec.nv (s.team s.core g.team).lrec) (LRec.na (s.team s.core g.team).lrec) = false) →
            exec i s = Rules.encodingTrap s n r w 0x03)

namespace Sys2Proof.Rules
open Sys2Proof Sys2Proof.Machine

/-- R395: what a trap writes into the resumption and cause registers. -/
def trapWrites (pc : W32) (idx : Nat) (lanes : Mask) (t : Trap) : Writes :=
  let lane : W32 := match t.lane with | some l => 32 + w32 l.val | none => 0
  (Writes.special .xpc pc).and <| (Writes.special .xcidx (0x80000000 ||| w32 idx)).and <| (Writes.special .xissue lanes).and <|
    (Writes.special .xcause (t.cause.setWidth 32)).and <| (Writes.special (.xinfo 0) lane).and <|
    (Writes.special (.xinfo 1) t.x1).and <| (Writes.special (.xinfo 2) t.x2).and (Writes.special (.xinfo 3) t.x3)

end Sys2Proof.Rules

/-- Taking a trap outside handler state in a launch with a handler (R395): the resumption and cause registers are written
and no other register; each lane of the clause saves its MEET, takes 0xFFFF_FFFF and the handler's address and becomes
ready; every other live lane is frozen where it stands; the clause is left, and the SLEEP it has executed is kept for its end (R159); a
sleep goes on (R228); no other group, no team and no memory changes. -/
def Sys2Proof.Rules.TrapEntersHandler : Prop :=
  ∀ (s : State) (c : CoreId) (n : Slot) (g : Group) (pc : W32) (idx : Nat) (lanes : Mask) (t : Trap),
    s.grp c n = g → g.handler = false → g.hangAct ≠ 2 → lanes ≠ 0 → LRec.handler (s.team c g.team).lrec ≠ 0xFFFFFFFF →
    (t.cause = 0x31 → (s.ctxRec (s.team c g.team).asid).desc.getLsbD 145 = false) →
    let s' := takeTrap s c n pc idx lanes t
    let g' := s'.grp c n
    (Rules.trapWrites pc idx lanes t).take g g'
    ∧ g'.handler = true ∧ g'.hlanes = lanes ∧ g'.run = none ∧ g'.resume = none ∧ g'.out = g.out
    ∧ g'.block = (match g.block with | .sleeping k => .sleeping k | _ => .free)
    ∧ g'.keptSleep = max g.sleepReq g.keptSleep ∧ g'.sleepReq = 0
    ∧ (∀ l : Fin 32, lanes.getLsbD l.val = true → g'.savedMeet[l] = g.meet[l] ∧ g'.meet[l] = 0xFFFFFFFF
        ∧ g'.pc[l] = LRec.handler (s.team c g.team).lrec ∧ g'.lane[l] = .ready)
    ∧ (∀ l : Fin 32, lanes.getLsbD l.val = false → g'.meet[l] = g.meet[l] ∧ g'.pc[l] = g.pc[l] ∧ g'.lane[l] = g.lane[l]
        ∧ g'.frozen.getLsbD l.val = (g.lane[l] != .exited))
    ∧ (∀ k m, ¬ (k = c ∧ m = n) → s'.grp k m = s.grp k m) ∧ (∀ k m, s'.team k m = s.team k m)
    ∧ s'.mem = s.mem ∧ s'.dies = s.dies

/-- A trap in handler state, or in a launch without a handler, faults the context (R395, R398): every grid of the context
that is not done is stopped, no started command of it is left, its fault log has one more record, and a nested trap leaves the resumption registers as
they were. -/
def Sys2Proof.Rules.UnhandledTrapFaultsContext : Prop :=
  ∀ (s : State) (c : CoreId) (n : Slot) (g : Group) (pc : W32) (idx : Nat) (lanes : Mask) (t : Trap),
    s.grp c n = g → (s.hub.cmds.map (·.seq)).Nodup →
    (g.handler = true ∨ (LRec.handler (s.team c g.team).lrec = 0xFFFFFFFF ∧ t.cause ≠ 0x31)) →
    let s' := takeTrap s c n pc idx lanes t
    (∀ gr ∈ s'.hub.grids, gr.asid = (s.team c g.team).asid → gr.done = true ∨ gr.killed = true)
    ∧ (s'.ctxRec (s.team c g.team).asid).flogs = (s.ctxRec (s.team c g.team).asid).flogs + 1
    ∧ (∀ q ∈ s'.hub.cmds, q.asid = (s.team c g.team).asid → q.state ≠ 2)
    ∧ (g.handler = true → ∀ ρ, (s'.grp c n).resident = true → (s'.grp c n).reg ρ = g.reg ρ)

namespace Sys2Proof.Rules
open Sys2Proof Sys2Proof.Machine

/-- The transfers: the target of each lane, and where a link is written (R221 to R223). -/
def transferOf (i : Instr) (u : Bool) (g : Group) (r : Run) : Option ((Fin 32 → Int) × Option Nat) :=
  match i with
  | .bra x => some (fun _ => (r.pc.toNat : Int) + 8 * x.off.toInt, none)
  | .call x => some (fun _ => (r.pc.toNat : Int) + 8 * x.off.toInt, some x.d.toNat)
  | .brx x | .ret x => some (fun l => ((g.src u x.a.toNat l).toNat : Int), none)
  | .callx x => some (fun l => ((g.src u x.a.toNat l).toNat : Int), some x.d.toNat)
  | _ => none
/-- The header after a clause. -/
def following (r : Run) : W32 := r.pc + w32 (8 * (hdrN r.hdr + 2))

end Sys2Proof.Rules

/-- BRA, BRX, CALL, CALLX and RET when every transferring lane's target passes R221: those lanes leave the clause with
their PC at the target, CALL and CALLX write the link in the acting lanes, and no other register changes; when a lane's
target fails, BAD_TARGET names a lane below which every target is aligned and inside the code region, and its target; no
lane transfers and no link is written. -/
def Sys2Proof.Rules.TransferResult : Prop :=
  ∀ (i : Instr) (s : State) (n : Slot) (f : Form) (g : Group) (r : Run) (target : Fin 32 → Int) (link : Option Nat),
    Rules.transferOf i f.hd.u g r = some (target, link) → Ready i s n f g r → acting f.hd g r ≠ 0 → g.stays s →
    (∀ s', checkTargets s.core n (s.team s.core g.team) target s (Rules.members (takingLanes f.hd g r)) = .ok s' →
      (∀ l, (takingLanes f.hd g r).getLsbD l.val = true → target l % 8 = 0 ∧ 0 ≤ target l
        ∧ target l < LRec.codeSize (s.team s.core g.team).lrec)
      ∧ ∃ t, exec i s = .next t
        ∧ (match link with
            | none => Writes.nil
            | some d => Writes.data f.hd.u d (acting f.hd g r) fun _ => Rules.following r).take g (t.grp s.core n)
        ∧ (∀ l, (takingLanes f.hd g r).getLsbD l.val = true → ((t.grp s.core n).pc[l]).toNat = (target l).toNat)
        ∧ (r.idx < hdrN r.hdr → (t.grp s.core n).run = some { r with idx := r.idx + 1, lanes := r.lanes &&& ~~~(takingLanes f.hd g r) })
        ∧ (∀ m, m ≠ n → t.grp s.core m = s.grp s.core m) ∧ (∀ m, t.team s.core m = s.team s.core m))
    ∧ (∀ x, checkTargets s.core n (s.team s.core g.team) target s (Rules.members (takingLanes f.hd g r)) = .bad x →
      exec i s = .next (takeTrap s s.core n r.pc r.idx r.lanes x)
      ∧ x.cause = 0x05 ∧ ∃ l, x.lane = some l ∧ (takingLanes f.hd g r).getLsbD l.val = true
          ∧ x.x1.toNat = (target l % 4294967296).toNat
          ∧ (∀ k < l, (takingLanes f.hd g r).getLsbD k.val = true → target k % 8 = 0 ∧ 0 ≤ target k
              ∧ target k < LRec.codeSize (s.team s.core g.team).lrec)
          ∧ (x.x2 = 0 ↔ target l % 8 ≠ 0) ∧ (x.x2 = 1 → target l < 0 ∨ LRec.codeSize (s.team s.core g.team).lrec ≤ target l))

namespace Sys2Proof.Rules
open Sys2Proof Sys2Proof.Machine

/-- The state after a short-latency instruction has changed its group to g'. -/
def after (s : State) (n : Slot) (f : Form) (g' : Group) : State :=
  endTurn (s.modGrp s.core n fun _ => (g'.mapDests f).finish f.hd) n

/-- JOIN: lanes whose MEET designates this clause arrive (R225). -/
def joined (x : FmtR) (g : Group) (r : Run) (m : Mask) : Group :=
  { g with run := some { r with arrive := maskOf fun l => m.getLsbD l.val && (g.meet[l]).toNat * 8 == r.pc.toNat, joinReg := x.a } }
/-- EXIT: the lanes of m exit and leave the clause; siblings all of whose outstanding lanes have exited are released (R226, R42). -/
def exited (g : Group) (r : Run) (m : Mask) : Group :=
  Group.releaseHeld { g with
    lane := Vector.ofFn fun l => if m.getLsbD l.val then .exited else g.lane[l]
    run := some { r with lanes := r.lanes &&& ~~~m } } m
/-- YIELD: the lanes of m yield (R227). -/
def yielded (g : Group) (r : Run) (m : Mask) : Group :=
  { g with lane := Vector.ofFn fun l => if m.getLsbD l.val then .yielded else g.lane[l], run := some { r with yield := true } }

end Sys2Proof.Rules

/-- MEET writes each acting lane's MEET to Vd and sets it to the designated clause, or takes BAD_TARGET outside the code
region; JOIN marks the lanes it designates; EXIT, YIELD and SLEEP act on the lanes or the group of R226 to R228. -/
def Sys2Proof.Rules.DivergenceResult : Prop :=
  (∀ (x : FmtC) (s : State) (n : Slot) (f : Form) (g : Group) (r : Run),
    Ready (.meet x) s n f g r → acting f.hd g r ≠ 0 → g.stays s →
    let target : Int := (r.pc.toNat : Int) + 8 * x.off.toInt
    if target < 0 ∨ LRec.codeSize (s.team s.core g.team).lrec ≤ target then
      exec (.meet x) s = .next (takeTrap s s.core n r.pc r.idx r.lanes
        { cause := 0x05, lane := lowLane (acting f.hd g r), x1 := BitVec.ofInt 32 target, x2 := 1 })
    else ∃ t, exec (.meet x) s = .next t ∧ OnlyGroup s t n
      ∧ (Writes.v x.d.toNat (acting f.hd g r) fun l => g.meet[l]).take g (t.grp s.core n)
      ∧ (r.idx < hdrN r.hdr → ∀ l : Fin 32, ((t.grp s.core n).meet[l]).toNat
          = if (acting f.hd g r).getLsbD l.val then (target / 8).toNat % 4294967296 else (g.meet[l]).toNat))
  ∧ (∀ (x : FmtR) (s : State) (n : Slot) (f : Form) (g : Group) (r : Run),
    Ready (.join x) s n f g r → acting f.hd g r ≠ 0 →
    exec (.join x) s = .next (Rules.after s n f (Rules.joined x g r (acting f.hd g r))))
  ∧ (∀ (x : FmtR) (s : State) (n : Slot) (f : Form) (g : Group) (r : Run),
    Ready (.exitLanes x) s n f g r → acting f.hd g r ≠ 0 →
    exec (.exitLanes x) s = .next (Rules.after s n f (Rules.exited g r (takingLanes f.hd g r))))
  ∧ (∀ (x : FmtR) (s : State) (n : Slot) (f : Form) (g : Group) (r : Run),
    Ready (.yieldTurn x) s n f g r → acting f.hd g r ≠ 0 →
    exec (.yieldTurn x) s = .next (Rules.after s n f (Rules.yielded g r (takingLanes f.hd g r))))
  ∧ (∀ (x : FmtI24) (s : State) (n : Slot) (f : Form) (g : Group) (r : Run),
    Ready (.sleep x) s n f g r → acting f.hd g r ≠ 0 → g.stays s →
    ∃ t, exec (.sleep x) s = .next t ∧ OnlyGroup s t n ∧ Writes.nil.take g (t.grp s.core n)
      ∧ (g.sleepReq = 0 → g.handler = false → r.idx = hdrN r.hdr →
          (t.grp s.core n).block = if x.imm = 0 then .free else .sleeping x.imm.toNat))

/-- The end of a clause (R154, R158, R225, R228): the lanes still in it go to the header that follows; arriving lanes are held
unless every live lane with their MEET is held or arriving, and then all of those take back the MEET that their own JOIN
recorded and are ready; a lane that was held stays so when none of its MEET arrives; registers keep their values. -/
def Obligations.ClauseEndAdvancesLanes : Prop :=
  ∀ (s : State) (n : Slot) (g : Group) (r : Run), s.grp s.core n = g → g.resident = true → g.run = some r →
    hdrN r.hdr < r.idx → g.stays s → g.handler = false → g.frozen = 0 →
    let s' := settle s s.core n
    let g' := s'.grp s.core n
    let arr : Fin 32 → Prop := fun l => r.lanes.getLsbD l.val = true ∧ r.arrive.getLsbD l.val = true
    let freed : Fin 32 → Prop := fun l => (arr l ∨ g.lane[l] = .held) ∧ (∃ k, arr k ∧ g.meet[k] = g.meet[l])
      ∧ ∀ k : Fin 32, g.lane[k] ≠ .exited → g.meet[k] = g.meet[l] → arr k ∨ g.lane[k] = .held
    OnlyGroup s s' n ∧ Writes.nil.take g g' ∧ g'.run = none
    ∧ (∀ l : Fin 32, g'.pc[l] = if r.lanes.getLsbD l.val then Rules.following r else g.pc[l])
    ∧ (∀ l : Fin 32, (freed l → g'.lane[l] = .ready
          ∧ ∃ b : Bool, (b = true ↔ arr l) ∧ g'.meet[l] = g.rdV (if b then r.joinReg else g.joinReg[l]).toNat l) ∧ (¬ freed l → arr l → g'.lane[l] = .held)
        ∧ (¬ freed l → ¬ arr l → g'.lane[l] = g.lane[l] ∧ g'.meet[l] = g.meet[l]))
    ∧ g'.block = (if g.sleepReq = 0 then .free else .sleeping g.sleepReq)

/-- TRAP and BKPT take their trap with the immediate in XINFO1 and resume after the instruction; FLT faults the context with
the immediate in the record of kind 3 and lets the group go on to the end of its clause (R229, R329). -/
def Sys2Proof.Rules.TrapInstructions : Prop :=
  (∀ (i : Instr) (x : FmtI24) (cause : BitVec 8) (s : State) (n : Slot) (f : Form) (g : Group) (r : Run),
    (i = .trap x ∧ cause = 0x30) ∨ (i = .bkpt x ∧ cause = 0x31) →
    Ready i s n f g r → acting f.hd g r ≠ 0 →
    exec i s = .next (takeTrap (s.modGrp s.core n fun _ => { g with retired := g.retired + 1 }) s.core n r.pc (r.idx + 1) r.lanes
      { cause := cause, x1 := x.imm.setWidth 32 }))
  ∧ (∀ (x : FmtI24) (s : State) (n : Slot) (f : Form) (g : Group) (r : Run),
    Ready (.flt x) s n f g r → acting f.hd g r ≠ 0 →
    exec (.flt x) s = .next (endTurn ((contextFault s (s.team s.core g.team).asid 0x10
      { kind := 3, cause := 0x40, info := x.imm.toNat * 2 ^ 32, hdr := r.pc.toNat, cidx := r.idx, gid := g.gid.toNat
        core := s.core.val, team := Team.linear (s.team s.core g.team) }).modGrp s.core n fun g => (g.mapDests f).finish f.hd) n))

namespace Sys2Proof.Rules
open Sys2Proof Sys2Proof.Machine

/-- R160, R396: handler lanes named by XISSUE take back their MEET and resume at XPC, or at the header after it when XCIDX
stands past its clause; the other handler lanes have exited; frozen lanes are free. SLEEP and YIELD of the interrupted clause
take effect at its end, which is now when nothing of it is left (R159). -/
def returned (g : Group) (r : Run) (hdr : W64) : Group :=
  let idx := g.xcidx.toNat % 32
  let past := idx = hdrN hdr + 1
  let live := g.hlanes &&& g.liveLanes
  let back := live &&& g.xissue
  let pc : W32 := if past then g.xpc + w32 (8 * (hdrN hdr + 2)) else g.xpc
  let ends : Bool := decide (past ∨ back = 0)
  Group.releaseHeld { g with
    handler := false, hlanes := 0, frozen := 0
    pc := Vector.ofFn fun l => if back.getLsbD l.val then pc else g.pc[l]
    meet := Vector.ofFn fun l => if live.getLsbD l.val then g.savedMeet[l] else g.meet[l]
    lane := Vector.ofFn fun l => if back.getLsbD l.val then .ready else if live.getLsbD l.val then .exited else g.lane[l]
    resume := if ends then none else some (g.xpc, idx, back)
    sleepReq := if ends then max g.sleepReq g.keptSleep else g.sleepReq
    keptSleep := if ends then 0 else g.keptSleep
    keptYield := !ends && g.keptYield
    run := some { r with lanes := 0, yield := r.yield || (ends && g.keptYield) } } (live &&& ~~~g.xissue)

end Sys2Proof.Rules

/-- RTE (R160, R328, R396): outside handler state RTE_STATE; with XPC beyond the code region BAD_TARGET; in handler state
with a sound resumption point it leaves handler state as R396 says and the resumed lanes go on at XPC and XCIDX. -/
def Sys2Proof.Rules.ReturnFromHandler : Prop :=
  ∀ (x : FmtR) (s : State) (n : Slot) (f : Form) (g : Group) (r : Run),
    Ready (.rte x) s n f g r → acting f.hd g r ≠ 0 →
    (g.handler = false → exec (.rte x) s = .next (takeTrap s s.core n r.pc r.idx r.lanes { cause := 0x28 }))
    ∧ (g.handler = true → LRec.codeSize (s.team s.core g.team).lrec ≤ g.xpc.toNat →
        exec (.rte x) s = .next (takeTrap s s.core n r.pc r.idx r.lanes { cause := 0x05, x1 := g.xpc, x2 := 1 }))
    ∧ (∀ hdr s', g.handler = true → g.xpc.toNat < LRec.codeSize (s.team s.core g.team).lrec →
        codeWord s s.core (s.team s.core g.team) g.xpc.toNat = (.ok hdr, s') → hdrOk hdr = true →
        (g.xcidx.getLsbD 31 = true ∨ (g.xcidx.toNat % 32 = 0 ∧ hdrBrt hdr = true)) → g.xcidx.toNat % 32 ≤ hdrN hdr + 1 →
        exec (.rte x) s = .next (Rules.after s' n f (Rules.returned g r hdr)))
    ∧ (∀ hdr s', g.handler = true → g.xpc.toNat < LRec.codeSize (s.team s.core g.team).lrec →
        codeWord s s.core (s.team s.core g.team) g.xpc.toNat = (.ok hdr, s') →
        (hdrOk hdr = false → exec (.rte x) s = .next (takeTrap s s.core n r.pc r.idx r.lanes
          { cause := 0x04, x1 := hdr.setWidth 32, x2 := (hdr >>> 32).setWidth 32 }))
        ∧ (hdrOk hdr = true → g.xcidx.getLsbD 31 = false → g.xcidx.toNat % 32 ≠ 0 →
            exec (.rte x) s = .next (takeTrap s s.core n r.pc r.idx r.lanes { cause := 0x05, x1 := g.xpc, x2 := 3 }))
        ∧ (hdrOk hdr = true → g.xcidx.getLsbD 31 = false → g.xcidx.toNat % 32 = 0 → hdrBrt hdr = false →
            exec (.rte x) s = .next (takeTrap s s.core n r.pc r.idx r.lanes { cause := 0x05, x1 := g.xpc, x2 := 2 }))
        ∧ (hdrOk hdr = true → g.xcidx.getLsbD 31 = true → hdrN hdr + 1 < g.xcidx.toNat % 32 →
            exec (.rte x) s = .next (takeTrap s s.core n r.pc r.idx r.lanes { cause := 0x05, x1 := g.xpc, x2 := 3 })))

namespace Sys2Proof.Rules
open Sys2Proof Sys2Proof.Machine

/-- A special register as lane l reads it (R27, R28, R200, R235, R327); numbers not listed have no such reading. -/
def special (s : State) (g : Group) (t : Team) (l : Fin 32) : Nat → Option W32
  | 0x000 => some (w32 l.val)
  | 0x001 => some (g.gid.setWidth 32)
  | 0x002 => some (t.z ++ t.y ++ t.x)
  | 0x003 => some (BitVec.ofNat 6 (LRec.ez t.lrec - 1) ++ BitVec.ofNat 10 (LRec.ey t.lrec - 1) ++ BitVec.ofNat 16 (LRec.ex t.lrec - 1))
  | 0x004 => some (match s.grid? t.grid with | some x => x.depth ++ x.number.getD 0 | none => 0)
  | 0x005 => some (w32 s.core.val)
  | 0x006 => some (w32 (s.core.val / 16))
  | 0x007 => some (t.node.setWidth 32)
  | 0x010 => some t.step
  | 0x011 => some (if s.det s.core then 1 else 0)
  | 0x020 => some g.fpstat
  | 0x028 => some ((LRec.seed t.lrec).extractLsb' 32 32)
  | 0x029 => some ((LRec.seed t.lrec).extractLsb' 0 32)
  | 0x02A => some g.srcnt
  | 0x040 => some g.xpc
  | 0x041 => some g.xcidx
  | 0x042 => some g.xissue
  | 0x043 => some g.xcause
  | 0x044 => some g.xinfo[0]
  | 0x045 => some g.xinfo[1]
  | 0x046 => some g.xinfo[2]
  | 0x047 => some g.xinfo[3]
  | k => if 0x018 ≤ k ∧ k ≤ 0x01F then some (vat (g.arg[l]) (k - 0x018)) else none
/-- What WRSR of a value writes (R159, R234, R326), or a refusal. -/
def srWrites (g : Group) (v : W32) : Nat → Option Writes
  | 0x020 => if v &&& ~~~0x1F1F = 0 then some (Writes.special .fpstat v) else none
  | 0x02A => some (Writes.special .srcnt v)
  | 0x040 => if v &&& 7 = 0 then some ((Writes.special .xpc v).and (Writes.special .xcidx (g.xcidx &&& 0x7FFFFFFF))) else none
  | 0x041 => if v &&& 0x7FFFFFE0 = 0 then some (Writes.special .xcidx (v &&& 0x1F)) else none
  | 0x042 => some ((Writes.special .xissue v).and (Writes.special .xcidx (g.xcidx &&& 0x7FFFFFFF)))
  | _ => none
/-- The counter of a selector (R327). -/
def counter (s : State) (g : Group) (t : Team) : Nat → W64
  | 0 => BitVec.ofNat 64 (if s.det s.core then g.retired else s.cycles s.core)
  | 1 => BitVec.ofNat 64 g.retired
  | 2 => (s.ctxRec t.asid).energy
  | 3 => (s.hub.clusters[clusterOf s.core]).eclu
  | _ => (s.ctxRec t.asid).undecl

end Sys2Proof.Rules

/-- RDSR reads the special register into the acting lanes, WRSR writes it or takes SR_RIGHTS, RDCNT reads both words of a
counter; nothing else changes. With a float result still outstanding RDSR and WRSR of FPSTAT wait with no effect. -/
def Obligations.SpecialRegisterAccess : Prop :=
  (∀ (x : FmtSY) (s : State) (n : Slot) (f : Form) (g : Group) (r : Run),
    Ready (.rdsr x) s n f g r → acting f.hd g r ≠ 0 → g.stays s →
    (x.srn = 0x020 ∧ (g.out.any fun o => o.float) = true → exec (.rdsr x) s = .next s)
    ∧ (¬ (x.srn = 0x020 ∧ (g.out.any fun o => o.float) = true) →
        ∃ (t : State) (y : Fin 32 → W32), exec (.rdsr x) s = .next t ∧ OnlyGroup s t n
          ∧ (Writes.data f.hd.u x.d.toNat (acting f.hd g r) y).take g (t.grp s.core n)
          ∧ ∀ l v, Rules.special s g (s.team s.core g.team) l x.srn.toNat = some v → y l = v))
  ∧ (∀ (x : FmtSY) (s : State) (n : Slot) (f : Form) (g : Group) (r : Run),
    Ready (.wrsr x) s n f g r → acting f.hd g r ≠ 0 → g.stays s →
    match Rules.srWrites g (g.rdS x.d.toNat) x.srn.toNat with
    | none => exec (.wrsr x) s = .next (takeTrap s s.core n r.pc r.idx r.lanes { cause := 0x27, x1 := x.srn.setWidth 32 })
    | some w => (x.srn = 0x020 ∧ (g.out.any fun o => o.float) = true → exec (.wrsr x) s = .next s)
        ∧ (¬ (x.srn = 0x020 ∧ (g.out.any fun o => o.float) = true) →
            ∃ t, exec (.wrsr x) s = .next t ∧ OnlyGroup s t n ∧ w.take g (t.grp s.core n)))
  ∧ (∀ (x : FmtSY) (s : State) (n : Slot) (f : Form) (g : Group) (r : Run),
    Ready (.rdcnt x) s n f g r → acting f.hd g r ≠ 0 → g.stays s →
    ∃ t, exec (.rdcnt x) s = .next t ∧ OnlyGroup s t n
      ∧ ((Writes.data f.hd.u x.d.toNat (acting f.hd g r) fun _ => (Rules.counter s g (s.team s.core g.team) x.srn.toNat).extractLsb' 0 32).and
          (Writes.data f.hd.u (x.d.toNat + 1) (acting f.hd g r) fun _ =>
            (Rules.counter s g (s.team s.core g.team) x.srn.toNat).extractLsb' 32 32)).take g (t.grp s.core n))

/-- NoActingLaneDoesNothing, EncodingTrapsInOrder: the parts above together. -/
def Obligations.IssueChecks : Prop :=
  Sys2Proof.Rules.NoActingLaneDoesNothing ∧ Sys2Proof.Rules.EncodingTrapsInOrder

/-- TrapEntersHandler, UnhandledTrapFaultsContext: the parts above together. -/
def Obligations.TrapEntry : Prop :=
  Sys2Proof.Rules.TrapEntersHandler ∧ Sys2Proof.Rules.UnhandledTrapFaultsContext

/-- TransferResult, DivergenceResult: the parts above together. -/
def Obligations.ControlTransfers : Prop :=
  Sys2Proof.Rules.TransferResult ∧ Sys2Proof.Rules.DivergenceResult

/-- TrapInstructions, ReturnFromHandler: the parts above together. -/
def Obligations.TrapsAndReturn : Prop :=
  Sys2Proof.Rules.TrapInstructions ∧ Sys2Proof.Rules.ReturnFromHandler

/-! ## Rules stated whole (R145, R167, R168, R211) -/

/-- R145: P7 and Q3 always read as true; a write that names P7 or Q3 is discarded, without a trap: of the register
operations, and of ICMP, whose destination is a predicate, when it issues. -/
def Obligations.TruePredicates : Prop :=
  (∀ (g : Group) (l : Fin 32) (m : Mask) (f : Fin 32 → Bool) (b : Bool),
    g.rdP 7 l = true ∧ g.rdQ 3 = true ∧ g.wrP 7 m f = g ∧ g.wrQ 3 b = g)
  ∧ (∀ (x : FmtR) (s : State) (n : Slot) (f : Form) (g : Group) (r : Run), Ready (.icmp x) s n f g r → acting f.hd g r ≠ 0 → g.stays s →
    ((x.hd.u = false ∧ x.d = 7) ∨ (x.hd.u = true ∧ x.d = 3)) →
    ∃ t, exec (.icmp x) s = .next t ∧ OnlyGroup s t n ∧ Writes.nil.take g (t.grp s.core n))

/-- R211: MOVI's D is source and destination; [20:18] = 0 writes imm, 1 adds it modulo 2^32, 2 is the exclusive or; 3 to 7, and
FI, SAT or SGN set, trap ILLEGAL_FIELD. -/
def Obligations.MoviFollowsRule : Prop :=
  (∀ (w : W64) (x : FmtI32), decode w = .ok (.movi x) → x.imm = w.extractLsb' 32 32 ∧ x.d = w.extractLsb' 24 8 ∧ x.lo.m = w.extractLsb' 18 3)
  ∧ (∀ (x : FmtI32) (s : State) (n : Slot) (f : Form) (g : Group) (r : Run), Ready (.movi x) s n f g r → acting f.hd g r ≠ 0 → g.stays s →
    x.lo.m.toNat < 3 ∧ ∃ (t : State) (y : Fin 32 → W32), exec (.movi x) s = .next t ∧ OnlyGroup s t n
      ∧ (Writes.data f.hd.u x.d.toNat (acting f.hd g r) y).take g (t.grp s.core n)
      ∧ ∀ l, let d := g.src f.hd.u x.d.toNat l
          (x.lo.m = 0 → y l = x.imm) ∧ (x.lo.m = 1 → (y l).toNat = (d.toNat + x.imm.toNat) % 2 ^ 32)
          ∧ (x.lo.m = 2 → ∀ k : Nat, (y l).getLsbD k = (d.getLsbD k != x.imm.getLsbD k)))
  ∧ (∀ (x : FmtI32) (s : State) (n : Slot) (g : Group) (r : Run) (w : W64), Rules.Standing s n g r w →
    clauseUnit (.movi x) &&& hdrCls r.hdr = clauseUnit (.movi x) →
    (3 ≤ x.lo.m.toNat ∨ x.lo.b21 = true ∨ x.lo.b22 = true ∨ x.lo.b23 = true) → exec (.movi x) s = Rules.encodingTrap s n r w 0x02)

/-- R167, R168: the 16 values of E2M1, and E8M0: code e from 0x00 to 0xFE stands for 2^(e − 127), 0xFF is NaN; no code is a
zero, an infinity or negative. -/
def Obligations.NarrowFormatValues : Prop :=
  (∀ c < 16, ∃ (m : Nat) (e : Int), numOf 6 c = .fin (decide (8 ≤ c)) m e ∧ -1 ≤ e
    ∧ m * 2 ^ (e + 1).toNat = [0, 1, 2, 3, 4, 6, 8, 12].getD (c % 8) 0)
  ∧ (∀ e < 255, numOf 7 e = .fin false 1 ((e : Int) - 127)) ∧ numOf 7 255 = .nan

/-! ## Synchronisation (R113 to R123, R265 to R288) -/

namespace Sys2Proof.Rules
open Sys2Proof Sys2Proof.Machine

/-- R116: ARR and PEND after an update, or the error code of a failure. -/
def barStep (b : Bar) (u : BarUpd) : Except (BitVec 7) (Nat × Nat) :=
  match u with
  | .arrive k x =>
    if b.mode.toNat = 2 then (if b.arr.toNat + k.toNat > b.exp.toNat then .error 0x05 else .ok (b.arr.toNat + k.toNat, b.pend.toNat))
    else if b.arr.toNat + k.toNat > b.exp.toNat then .error 0x01
    else if b.pend.toNat + x.toNat ≥ 16777216 then .error 0x02
    else .ok (b.arr.toNat + k.toNat, b.pend.toNat + x.toNat)
  | .issue y => if b.pend.toNat + y ≥ 16777216 then .error 0x02 else .ok (b.arr.toNat, b.pend.toNat + y)
  | .deliver y => .ok (b.arr.toNat, b.pend.toNat - y)
  | .fail c _ => .error c

end Sys2Proof.Rules

/-- The update of a barrier (R116): a frozen barrier keeps its state; a failure sets ERR and ECODE and leaves the counts as
they were; otherwise ARR and PEND move as the rule says, and the phase flips and ARR clears exactly when, outside
semaphore mode, every arrival has come and no byte is pending. PEND never goes below 0, and EXP and MODE never change. -/
def Obligations.BarrierUpdateFollowsRule : Prop :=
  ∀ (b : Bar) (u : BarUpd),
    (b.err = true → b.update u = b)
    ∧ (b.err = false → ∀ c, Rules.barStep b u = .error c →
        (b.update u).err = true ∧ (b.update u).ecode = c ∧ (b.update u).arr = b.arr ∧ (b.update u).pend = b.pend
        ∧ (b.update u).phase = b.phase ∧ (b.update u).exp = b.exp ∧ (b.update u).mode = b.mode)
    ∧ (b.err = false → ∀ arr pend, Rules.barStep b u = .ok (arr, pend) →
        (b.update u).err = false ∧ (b.update u).exp = b.exp ∧ (b.update u).mode = b.mode ∧ (b.update u).pend.toNat = pend
        ∧ (if b.mode.toNat ≠ 2 ∧ arr = b.exp.toNat ∧ pend = 0 then (b.update u).phase = !b.phase ∧ (b.update u).arr = 0
           else (b.update u).phase = b.phase ∧ (b.update u).arr.toNat = arr))

namespace Sys2Proof.Rules
open Sys2Proof Sys2Proof.Machine

/-- The barrier that a word names: BAR in the word, or bits 6 to 0 of S(A) (R278). -/
def barOf (x : FmtR) (g : Group) : BitVec 7 := if x.lo.b23 then (g.rdS x.a.toNat).setWidth 7 else x.a.setWidth 7
/-- Order fields: a release at SCO, an acquire at SCO (R83). -/
def relAt (x : FmtR) : Option (BitVec 3) := if x.h.getLsbD 3 then some (x.h.setWidth 3) else none
def acqAt (x : FmtR) : Option (BitVec 3) := if x.h.getLsbD 4 then some (x.h.setWidth 3) else none
/-- The state after a long-latency instruction that s' describes has taken its place. -/
def afterLong (s' : State) (n : Slot) (f : Form) (o : Out) : State :=
  afterIssue (s'.modGrp s'.core n fun g => (g.mapDests f).push f.hd f o) n
/-- The group's grid goes on and no hang report waits to fault its context (R56, R380). -/
def Goes (s : State) (g : Group) : Prop := gridKilled s (s.team s.core g.team) = false ∧ g.hangAct ≠ 2
/-- BARI's data are refused (R115, R279). -/
def barDataBad (mode exp arr : Nat) : Prop := (mode ≤ 1 ∧ (exp = 0 ∨ exp ≤ arr)) ∨ (mode = 2 ∧ exp < arr)

end Sys2Proof.Rules

/-- BARI on a barrier that nothing waits on and that has no byte pending gives it MODE, PHASE, EXP and ARR and clears ERR,
ECODE and PEND, of that barrier alone; a barrier the team lacks takes BAR_RANGE, refused data ILLEGAL_FIELD, a busy barrier
BAR_BUSY with its state, and nothing changes. BARQ reads both words of the state. BARA stands outstanding with its arrival,
behind its release when it carries one, and takes BAR_MODE for bytes outside transaction mode. -/
def Sys2Proof.Rules.BarrierInstructions : Prop :=
  (∀ (x : FmtR) (s : State) (n : Slot) (f : Form) (g : Group) (r : Run),
    Ready (.bari x) s n f g r → acting f.hd g r ≠ 0 → g.stays s →
    let k := Rules.barOf x g
    let b := (s.team s.core g.team).bar k
    let exp := (g.rdS x.b.toNat).setWidth 12
    let arr := (g.rdS x.c.toNat).setWidth 12
    let bad := Rules.barDataBad (x.lo.m.toNat % 4) exp.toNat arr.toNat
    let trap (t : Trap) := exec (.bari x) s = .next (takeTrap s s.core n r.pc r.idx r.lanes t)
    (LRec.nbars (s.team s.core g.team).lrec ≤ k.toNat → trap { cause := 0x10, x1 := k.setWidth 32 })
    ∧ (k.toNat < LRec.nbars (s.team s.core g.team).lrec → bad → trap (wordTrap 0x02 (r.words.getD r.idx 0)))
    ∧ (k.toNat < LRec.nbars (s.team s.core g.team).lrec → ¬ bad → (b.waiters ≠ [] ∨ b.pend ≠ 0) →
        trap { cause := 0x11, x1 := k.setWidth 32, x2 := b.word.setWidth 32, x3 := (b.word >>> 32).setWidth 32 })
    ∧ (k.toNat < LRec.nbars (s.team s.core g.team).lrec → ¬ bad → b.waiters = [] → b.pend = 0 →
        ∃ t, exec (.bari x) s = .next t ∧ Writes.nil.take g (t.grp s.core n) ∧ (∀ m, m ≠ n → t.grp s.core m = s.grp s.core m)
          ∧ t.mem = s.mem ∧ t.dies = s.dies
          ∧ (t.team s.core g.team).bar k = { b with err := false, ecode := 0, flog := 0, mode := x.lo.m.setWidth 2
                                                    phase := x.lo.m.getLsbD 2, pend := 0, arr := arr, exp := exp }
          ∧ ∀ j : BitVec 7, j.toNat % 96 ≠ k.toNat % 96 → (t.team s.core g.team).bar j = (s.team s.core g.team).bar j))
  ∧ (∀ (x : FmtR) (s : State) (n : Slot) (f : Form) (g : Group) (r : Run),
    Ready (.barq x) s n f g r → acting f.hd g r ≠ 0 → g.stays s →
    let k := Rules.barOf x g
    let w := ((s.team s.core g.team).bar k).word
    (LRec.nbars (s.team s.core g.team).lrec ≤ k.toNat →
      exec (.barq x) s = .next (takeTrap s s.core n r.pc r.idx r.lanes { cause := 0x10, x1 := k.setWidth 32 }))
    ∧ (k.toNat < LRec.nbars (s.team s.core g.team).lrec →
        ∃ t, exec (.barq x) s = .next t ∧ OnlyGroup s t n
          ∧ ((Writes.s x.d.toNat (w.extractLsb' 0 32)).and (Writes.s (x.d.toNat + 1) (w.extractLsb' 32 32))).take g (t.grp s.core n)))
  ∧ (∀ (x : FmtR) (s : State) (n : Slot) (f : Form) (g : Group) (r : Run),
    Ready (.bara x) s n f g r → acting f.hd g r ≠ 0 →
    let j := Rules.barOf x g
    let b := (s.team s.core g.team).bar j
    let k : BitVec 12 := if x.lo.b22 then (g.rdS x.b.toNat).setWidth 12 else 1
    let y : BitVec 24 := if x.lo.b21 then (g.rdS x.c.toNat).setWidth 24 else 0
    let trap (t : Trap) := exec (.bara x) s = .next (takeTrap s s.core n r.pc r.idx r.lanes t)
    (LRec.nbars (s.team s.core g.team).lrec ≤ j.toNat → trap { cause := 0x10, x1 := j.setWidth 32 })
    ∧ (j.toNat < LRec.nbars (s.team s.core g.team).lrec → y ≠ 0 → b.mode ≠ 1 →
        trap { cause := 0x12, x1 := j.setWidth 32, x2 := b.word.setWidth 32, x3 := (b.word >>> 32).setWidth 32 })
    ∧ (j.toNat < LRec.nbars (s.team s.core g.team).lrec → (y = 0 ∨ b.mode = 1) →
        exec (.bara x) s = .next (Rules.afterLong s n f { sb := 7, kind := .act (.arrive j k y), rel := Rules.relAt x })))

namespace Sys2Proof.Rules
open Sys2Proof Sys2Proof.Machine

/-- What a BARW waits for (R281). -/
def waitNeed (x : FmtR) (g : Group) : BarNeed :=
  let p := if x.lo.m.getLsbD 2 then (g.rdS x.c.toNat).getLsbD 0 else x.lo.m.getLsbD 0
  if x.lo.b22 then .count ((g.rdS x.b.toNat).setWidth 12) else if x.lo.b21 then .thr ((g.rdS x.b.toNat).setWidth 12) p else .phase p
/-- The condition of a wait (R118). -/
def needMet (b : Bar) : BarNeed → Prop
  | .phase p => b.phase ≠ p
  | .thr t p => t.toNat ≤ b.arr.toNat ∨ b.phase ≠ p
  | .count k => k = 0 ∨ (k.toNat ≤ b.arr.toNat ∧ b.waiters = [])
/-- The form suits the mode (R118). -/
def needSuits (b : Bar) : BarNeed → Prop
  | .count _ => b.mode = 2
  | _ => b.mode.toNat ≤ 1
/-- What satisfaction does to the barrier: a count is taken (R118). -/
def needTaken (b : Bar) : BarNeed → Bar
  | .count k => { b with arr := b.arr - k }
  | _ => b
/-- The state in which a wait has ended: with an acquire, what it observed has joined the group's persist set (R103), and the
acquire is done (R102). -/
def waitOver (s : State) (n : Slot) (f : Form) (g : Group) (k : BitVec 7) (acq : Option (BitVec 3)) : State :=
  afterLong (acqWork (if acq.isSome then joinPersists s [.bar s.core g.team k] (g.uid, g.epoch) else s) s.core acq) n f
    { sb := 7, kind := .done }
/-- The state after an instruction at which its group waits: a group whose grid has ended leaves. -/
def stopped (s : State) (n : Slot) : State := hangEnd (leave s s.core n) s.core n
/-- The wait looks again at its group's next turn; nothing else has changed. -/
def Polls (s : State) (n : Slot) (g : Group) (r : Run) (o : Host.Outcome State Fault Refusal) : Prop :=
  ∃ t, o = .next t ∧ (t.grp s.core n).block = .polling ∧ (t.grp s.core n).run = some r ∧ Writes.nil.take g (t.grp s.core n)
    ∧ (∀ m, m ≠ n → t.grp s.core m = s.grp s.core m) ∧ ∀ m, t.team s.core m = s.team s.core m

end Sys2Proof.Rules

/-- BARW (R118, R281): BAR_MODE for a form that does not suit MODE, ASYNC_FAULT on a failed barrier, an end at once when its
condition holds (a count taken from ARR), and otherwise the group parks at the instruction, last among the barrier's
waiters; a group that the barrier has released ends its wait, one that it failed takes ASYNC_FAULT. Behind an acquire of
its group that is not done it has no effect yet (R89). -/
def Sys2Proof.Rules.BarrierWait : Prop :=
  ∀ (x : FmtR) (s : State) (n : Slot) (f : Form) (g : Group) (r : Run),
    Ready (.barw x) s n f g r → acting f.hd g r ≠ 0 →
    let k := Rules.barOf x g
    let b := (s.team s.core g.team).bar k
    let need := Rules.waitNeed x g
    let fresh : Prop := k.toNat < LRec.nbars (s.team s.core g.team).lrec ∧ (g.block = .free ∨ g.block = .polling)
      ∧ g.acqPending = false
    (k.toNat < LRec.nbars (s.team s.core g.team).lrec → (g.block = .free ∨ g.block = .polling) → g.acqPending = true →
      Rules.Goes s g → Rules.Polls s n g r (exec (.barw x) s))
    ∧ (LRec.nbars (s.team s.core g.team).lrec ≤ k.toNat →
      exec (.barw x) s = .next (takeTrap s s.core n r.pc r.idx r.lanes { cause := 0x10, x1 := k.setWidth 32 }))
    ∧ (fresh → ¬ Rules.needSuits b need → exec (.barw x) s = .next (takeTrap s s.core n r.pc r.idx r.lanes
        { cause := 0x12, x1 := k.setWidth 32, x2 := b.word.setWidth 32, x3 := (b.word >>> 32).setWidth 32 }))
    ∧ (fresh → Rules.needSuits b need → b.err = true → ∃ s', (∀ m, s'.grp s.core m = s.grp s.core m) ∧ s'.mem = s.mem
        ∧ exec (.barw x) s = .next (takeTrap s' s.core n r.pc r.idx r.lanes
            { cause := 0x1C, x1 := k.setWidth 32, x2 := b.ecode.setWidth 32, x3 := b.flog }))
    ∧ (fresh → Rules.needSuits b need → b.err = false → Rules.needMet b need →
        exec (.barw x) s = .next (Rules.waitOver (s.modBar s.core g.team k fun _ => Rules.needTaken b need) n f g k (Rules.acqAt x)))
    ∧ (fresh → Rules.needSuits b need → b.err = false → ¬ Rules.needMet b need → Rules.Goes s g →
        ∃ t, exec (.barw x) s = .next t ∧ (t.grp s.core n).block = .parked ∧ (t.grp s.core n).run = some r
          ∧ Writes.nil.take g (t.grp s.core n)
          ∧ (t.team s.core g.team).bar k = { b with waiters := b.waiters ++ [(.grp n, need)] })
    ∧ (∀ i, k.toNat < LRec.nbars (s.team s.core g.team).lrec → g.block = .released i →
        exec (.barw x) s = .next (Rules.waitOver s n f g k (Rules.acqAt x)))
    ∧ (∀ x1 x2 x3, k.toNat < LRec.nbars (s.team s.core g.team).lrec → g.block = .failed x1 x2 x3 →
        ∃ s', (∀ m, s'.grp s.core m = s.grp s.core m) ∧ s'.mem = s.mem
          ∧ exec (.barw x) s = .next (takeTrap s' s.core n r.pc r.idx r.lanes { cause := 0x1C, x1 := x1, x2 := x2, x3 := x3 }))

/-- BARS (R118, R280): its release, then its arrival, then a wait for the phase to differ from the one it saw; it ends at
once when its own arrival completes the phase, and otherwise parks; BAR_MODE in semaphore mode, ASYNC_FAULT on a failed
barrier, which an arrival that fails it brings as well. With a release and accesses still waiting, or behind a release or an
acquire of its group that is not done (R88, R89), it has no effect yet. -/
def Sys2Proof.Rules.BarrierSync : Prop :=
  ∀ (x : FmtR) (s : State) (n : Slot) (f : Form) (g : Group) (r : Run),
    Ready (.bars x) s n f g r → acting f.hd g r ≠ 0 →
    let k := Rules.barOf x g
    let b := (s.team s.core g.team).bar k
    let arrival : BitVec 12 := if x.lo.b22 then (g.rdS x.b.toNat).setWidth 12 else 1
    let fresh : Prop := k.toNat < LRec.nbars (s.team s.core g.team).lrec ∧ (g.block = .free ∨ g.block = .polling)
    let held : Bool := ((Rules.relAt x).isSome && g.memPending) || g.relPending || g.acqPending
    let s1 := relWork s s.core (s.team s.core g.team).asid (Rules.relAt x)
    let s2 := if arrival = 0 then s1 else updateBar s1 s.core g.team k (.arrive arrival 0)
    let b2 := (s2.team s.core g.team).bar k
    (LRec.nbars (s.team s.core g.team).lrec ≤ k.toNat →
      exec (.bars x) s = .next (takeTrap s s.core n r.pc r.idx r.lanes { cause := 0x10, x1 := k.setWidth 32 }))
    ∧ (fresh → b.mode = 2 → exec (.bars x) s = .next (takeTrap s s.core n r.pc r.idx r.lanes
        { cause := 0x12, x1 := k.setWidth 32, x2 := b.word.setWidth 32, x3 := (b.word >>> 32).setWidth 32 }))
    ∧ (fresh → b.mode ≠ 2 → b.err = true → held = false →
        ∃ s', (∀ m, s'.grp s.core m = s.grp s.core m) ∧ s'.mem = s.mem
          ∧ exec (.bars x) s = .next (takeTrap s' s.core n r.pc r.idx r.lanes
              { cause := 0x1C, x1 := k.setWidth 32, x2 := b.ecode.setWidth 32, x3 := b.flog }))
    ∧ (fresh → b.mode ≠ 2 → held = true → Rules.Goes s g → Rules.Polls s n g r (exec (.bars x) s))
    ∧ (fresh → b.mode ≠ 2 → b.err = false → held = false → b2.err = false → b2.phase ≠ b.phase →
        exec (.bars x) s = .next (Rules.waitOver s2 n f g k (Rules.acqAt x)))
    ∧ (fresh → b.mode ≠ 2 → b.err = false → held = false → b2.err = false → b2.phase = b.phase →
        exec (.bars x) s = .next (Rules.stopped ((s2.modBar s2.core g.team k fun b => { b with
          waiters := b.waiters ++ [(.grp n, .phase b2.phase)] }).modGrp s2.core n fun g => { g with block := .parked }) n))
    ∧ (fresh → b.mode ≠ 2 → b.err = false → held = false → b2.err = true →
        exec (.bars x) s = .next (Rules.stopped (s2.modGrp s2.core n fun g => { g with
          block := .failed (k.setWidth 32) (b2.ecode.setWidth 32) b2.flog }) n))
    ∧ (∀ i, k.toNat < LRec.nbars (s.team s.core g.team).lrec → g.block = .released i →
        exec (.bars x) s = .next (Rules.waitOver s n f g k (Rules.acqAt x)))

namespace Sys2Proof.Rules
open Sys2Proof Sys2Proof.Machine

/-- Persists of a group that stand open are none (R106): none waits, none is in a queue outside the persistence domain,
none is in a write-combining buffer or in an unfinished operation. -/
def persisted (s : State) (g : Group) : Prop := openPersists s g.uid = [] ∧ persistOpen s [] g.uid (g.epoch + 1) = false

end Sys2Proof.Rules

/-- FENCE stands outstanding with the release and acquire of its order and scope; PFENCE starts the next part of the group's
persist set; PSYNC ends when the set has persisted, waits until then, and takes PERSIST_FAIL for a failed stack;
STEP.CLOSE of the team's step value raises it and stands outstanding with a release at DOM scope, after which the close counts
(R110), another value takes STEP_ORDER. -/
def Sys2Proof.Rules.FenceInstructions : Prop :=
  (∀ (x : FmtR) (s : State) (n : Slot) (f : Form) (g : Group) (r : Run),
    Ready (.fence x) s n f g r → acting f.hd g r ≠ 0 →
    exec (.fence x) s = .next (Rules.afterLong s n f { sb := 7, kind := .act .fence, rel := Rules.relAt x, acq := Rules.acqAt x }))
  ∧ (∀ (x : FmtR) (s : State) (n : Slot) (f : Form) (g : Group) (r : Run),
    Ready (.pfence x) s n f g r → acting f.hd g r ≠ 0 → g.stays s →
    ∃ t, exec (.pfence x) s = .next t ∧ OnlyGroup s t n ∧ Writes.nil.take g (t.grp s.core n)
      ∧ (t.grp s.core n).epoch = g.epoch + 1)
  ∧ (∀ (x : FmtR) (s : State) (n : Slot) (f : Form) (g : Group) (r : Run),
    Ready (.psync x) s n f g r → acting f.hd g r ≠ 0 → s.pfail = false → Rules.Goes s g →
    let s1 := admitPersists s
    (∀ base, (openPersists s1 g.uid).find? (fun b => (s1.hub.pstacks[stackOf b]).state == 3) = some base →
      exec (.psync x) s = .next (takeTrap s s.core n r.pc r.idx r.lanes { cause := 0x23, x1 := w32 (stackOf base).val }))
    ∧ (Rules.persisted s1 g → exec (.psync x) s = .next (Rules.afterLong s1 n f { sb := 7, kind := .done }))
    ∧ (¬ Rules.persisted s1 g → (∀ b ∈ openPersists s1 g.uid, (s1.hub.pstacks[stackOf b]).state ≠ 3) →
        ∃ t, exec (.psync x) s = .next t ∧ (t.grp s.core n).block = .polling ∧ (t.grp s.core n).run = some r
          ∧ Writes.nil.take g (t.grp s.core n)))
  ∧ (∀ (x : FmtR) (s : State) (n : Slot) (f : Form) (g : Group) (r : Run),
    Ready (.stepClose x) s n f g r → acting f.hd g r ≠ 0 →
    let k := g.rdS x.a.toNat
    let t := s.team s.core g.team
    (k ≠ t.step → exec (.stepClose x) s = .next (takeTrap s s.core n r.pc r.idx r.lanes { cause := 0x24, x1 := k, x2 := t.step }))
    ∧ (k = t.step → exec (.stepClose x) s = .next (Rules.afterLong
        (s.modTeam s.core g.team fun t => { t with step := k + 1 }) n f
        { sb := 7, kind := .act (.close k), rel := some 4, acq := some 0 })))

/-- SNAP (R288): SNAP_CONFIG without a snapshot configuration, STEP_ORDER for a step that is not below the team's, and the
predicate that says whether this request started the capture. -/
def Sys2Proof.Rules.SnapshotRequest : Prop :=
  ∀ (x : FmtR) (s : State) (n : Slot) (f : Form) (g : Group) (r : Run),
    Ready (.snap x) s n f g r → acting f.hd g r ≠ 0 → g.stays s →
    let k := g.rdS x.a.toNat
    let t := s.team s.core g.team
    (LRec.snap t.lrec = false → exec (.snap x) s = .next (takeTrap s s.core n r.pc r.idx r.lanes { cause := 0x25 }))
    ∧ (LRec.snap t.lrec = true → t.step.toNat ≤ k.toNat →
        exec (.snap x) s = .next (takeTrap s s.core n r.pc r.idx r.lanes { cause := 0x24, x1 := k, x2 := t.step }))
    ∧ (∀ gr e, LRec.snap t.lrec = true → k.toNat < t.step.toNat → s.grid? t.grid = some gr → snapRequest s gr k = .error e →
        exec (.snap x) s = .next (takeTrap s s.core n r.pc r.idx r.lanes e))
    ∧ (∀ gr started s', LRec.snap t.lrec = true → k.toNat < t.step.toNat → s.grid? t.grid = some gr →
        snapRequest s gr k = .ok (started, s') →
        ∃ u, exec (.snap x) s = .next u ∧ (Writes.q x.d.toNat started).take g (u.grp s.core n)
          ∧ (∀ m, m ≠ n → u.grp s.core m = s.grp s.core m)
          ∧ (started = true ↔ (∀ j, gr.snap = some j → j.toNat < k.toNat) ∧ ∀ c, s.hub.capture = some c → c.step.toNat < k.toNat))

namespace Sys2Proof.Rules
open Sys2Proof Sys2Proof.Machine

/-- The entry that a wait goes through: the one captured when it first looked (R70). -/
def waitEntry (s : State) (g : Group) (lh : BitVec 6) : Ent := g.cap.getD (entryOf s g lh)
/-- The entry is captured. -/
def captured (s : State) (n : Slot) (e : Ent) : State := s.modGrp s.core n fun g => { g with cap := some e }
/-- The locations of a future or word wait, each with what its home holds, and the state after they have been read. -/
def seen (i : Instr) (s : State) (n : Slot) (h : Hd) (g : Group) (r : Run) : Option (Except AccFail (List Seen) × State) :=
  let t := s.team s.core g.team
  match i with
  | .fwait x => match allOk (fun l => match locate s t ⟨s.core, g.team, n, l⟩ .atomic x.lh.toNat (waitEntry s g x.lh)
        (g.coords h.u x.cr.toNat (x.dm.toNat + 1) l) 0 8 (if h.u then none else some l) with
      | .error e => Except.error e | .ok u => .ok (l, u)) (members (acting h g r)) with
    | .error _ => none
    | .ok us => some (seeAll (fun l => ⟨s.core, g.team, n, l⟩) t (waitEntry s g x.lh) x.sco 8 (captured s n (waitEntry s g x.lh)) us)
  | .waita x => match allOk (fun k => locate s t ⟨s.core, g.team, n, 0⟩ .atomic x.lh.toNat (waitEntry s g x.lh)
        (g.coords h.u (x.cr.toNat + k * (x.dm.toNat + 1)) (x.dm.toNat + 1) 0) 0 4 none) (List.range (x.op.toNat % 4 + 1)) with
    | .error _ => none
    | .ok us => some (seeAll (fun l => ⟨s.core, g.team, n, l⟩) t (waitEntry s g x.lh) x.sco 4
        (captured s n (waitEntry s g x.lh)) (us.map fun u => (0, u)))
  | _ => none
/-- The group no longer waits. -/
def awake (s : State) (c : CoreId) (n : Slot) : State :=
  (s.modCtx c fun y => { y with waits := y.waits.filter fun w => w.idx != n }).modGrp c n fun g => { g with block := .free }
/-- A cell of a future wait: its places, the lanes that name it, and what it holds. -/
abbrev Cell := List PLoc × List (Fin 32) × W64
/-- An FWAIT on full, sound cells ends: with an acquire their operations' persists have joined the group's set (R103) and the
acquire is done; each lane's destination takes its cell's value. -/
def cellsOver (s : State) (n : Slot) (f : Form) (g : Group) (x : FmtMA) (cs : List Cell) : State :=
  let acq : Option (BitVec 3) := if x.ord.getLsbD 1 then some x.sco else none
  let s := if acq.isSome then joinPersists s (cs.flatMap fun c => (c.1.take 1).map .cell) (g.uid, g.epoch) else s
  afterLong (acqWork (awake s s.core n) s.core acq) n f
    { sb := 7, kind := .done, writes := cs.flatMap fun c => c.2.1.map fun l => heldData f.hd.u x.d l (c.2.2.setWidth 32) }
/-- The cells that a list of read locations names, in the order of their lowest lanes. -/
def cellsOf (l : List Seen) : List Cell :=
  (l.map (·.ps)).eraseDups.map fun ps =>
    (ps, (l.filter (·.ps == ps)).map (·.lane), ((l.filter (·.ps == ps)).map (·.val)).headD 0)

end Sys2Proof.Rules

/-- FWAIT (R274): when every acting lane's cell is full and none is in error it ends with the cells' values for its
destination, its acquire done; a full cell in error gives ASYNC_FAULT with the cell's code and value; otherwise the group
parks at the instruction with its cells in the wait tables, and ends once they have all been found full. WAITA (R276): it
ends with the lowest index whose word differs from the expected one, and otherwise parks on all its words. A poisoned
location traps POISON. Behind an acquire of the group that is not done both look again later (R89), through the entry
captured first (R70). -/
def Sys2Proof.Rules.FutureAndWordWaits : Prop :=
  (∀ (x : FmtMA) (s : State) (n : Slot) (f : Form) (g : Group) (r : Run) (l : List Seen) (s' : State),
    Ready (.fwait x) s n f g r → acting f.hd g r ≠ 0 → (∀ k, g.block ≠ .released k) → g.acqPending = false →
    Rules.seen (.fwait x) s n f.hd g r = some (.ok l, s') →
    (∀ y, l.find? (·.bad) = some y → exec (.fwait x) s
        = .next (takeTrap s s.core n r.pc r.idx r.lanes { cause := 0x1D, lane := if f.hd.u then none else some y.lane }))
    ∧ (∀ y, l.find? (·.bad) = none → l.find? (fun y => y.val.getLsbD 32 && y.val.getLsbD 33) = some y →
        ∃ s2, (∀ m, s2.grp s'.core m = s'.grp s'.core m) ∧ s2.mem = s'.mem
          ∧ exec (.fwait x) s = .next (takeTrap s2 s2.core n r.pc r.idx r.lanes
              { cause := 0x1C, lane := if f.hd.u then none else some y.lane, x1 := x.lh.setWidth 32
                x2 := (y.val.extractLsb' 40 8).setWidth 32, x3 := y.val.setWidth 32 }))
    ∧ ((∀ y ∈ l, y.bad = false ∧ y.val.getLsbD 32 = true ∧ y.val.getLsbD 33 = false) →
        exec (.fwait x) s = .next (Rules.cellsOver s' n f g x (Rules.cellsOf l)))
    ∧ ((∀ y ∈ l, y.bad = false ∧ ¬ (y.val.getLsbD 32 = true ∧ y.val.getLsbD 33 = true)) → (∃ y ∈ l, y.val.getLsbD 32 = false) →
        gridKilled s' (s'.team s.core (s'.grp s.core n).team) = false → (s'.grp s.core n).hangAct ≠ 2 →
        ∃ t, exec (.fwait x) s = .next t ∧ (t.grp s.core n).block = .parked ∧ (t.grp s.core n).run = (s'.grp s.core n).run
          ∧ ∀ y ∈ l, y.val.getLsbD 32 = false →
              ∃ w ∈ ((t.cores[s.core]).ctx).waits, w.idx = n ∧ w.ps = y.ps ∧ w.expect = none ∧ w.seen = none ∧ w.sco = x.sco))
  ∧ (∀ (x : FmtMA) (s : State) (n : Slot) (f : Form) (g : Group) (r : Run) (k : BitVec 2) (val : WaitEnt → W64),
    Ready (.fwait x) s n f g r → acting f.hd g r ≠ 0 → g.block = .released k →
    (∀ w ∈ waitsOf s s.core n, w.seen = some (val w, false) ∧ (val w).getLsbD 33 = false) →
    exec (.fwait x) s = .next (Rules.cellsOver s n f g x ((waitsOf s s.core n).map fun w => (w.ps, w.lanes, val w))))
  ∧ (∀ (x : FmtMA) (s : State) (n : Slot) (f : Form) (g : Group) (r : Run) (l : List Seen) (s' : State),
    Ready (.waita x) s n f g r → acting f.hd g r ≠ 0 → (∀ k, g.block ≠ .released k) → g.acqPending = false →
    Rules.seen (.waita x) s n f.hd g r = some (.ok l, s') →
    ((∃ y ∈ l, y.bad = true) → exec (.waita x) s = .next (takeTrap s s.core n r.pc r.idx r.lanes { cause := 0x1D }))
    ∧ (∀ k (hk : k < l.length), (∀ y ∈ l, y.bad = false) → (l[k]).val.setWidth 32 ≠ g.rdS (x.b.toNat + k) →
        (∀ j (hj : j < l.length), j < k → (l[j]).val.setWidth 32 = g.rdS (x.b.toNat + j)) →
        exec (.waita x) s = .next (Rules.afterLong (Rules.awake s' s'.core n) n f
          { sb := 7, kind := .done, writes := [.s (x.d.setWidth 6) ((BitVec.ofNat 2 k).setWidth 32) false] }))
    ∧ ((∀ y ∈ l, y.bad = false) → (∀ k (hk : k < l.length), (l[k]).val.setWidth 32 = g.rdS (x.b.toNat + k)) →
        gridKilled s' (s'.team s.core (s'.grp s.core n).team) = false → (s'.grp s.core n).hangAct ≠ 2 →
        ∃ t, exec (.waita x) s = .next t ∧ (t.grp s.core n).block = .parked ∧ (t.grp s.core n).run = (s'.grp s.core n).run
          ∧ ∀ k (hk : k < l.length), ∃ w ∈ ((t.cores[s.core]).ctx).waits, w.idx = n ∧ w.ps = (l[k]).ps
              ∧ w.expect = some (g.rdS (x.b.toNat + k)) ∧ w.index = BitVec.ofNat 2 k))
  ∧ (∀ (x : FmtMA) (s : State) (n : Slot) (f : Form) (g : Group) (r : Run) (k : BitVec 2),
    Ready (.waita x) s n f g r → acting f.hd g r ≠ 0 → g.block = .released k →
    exec (.waita x) s = .next (Rules.afterLong (Rules.awake s s.core n) n f
      { sb := 7, kind := .done, writes := [.s (x.d.setWidth 6) (k.setWidth 32) false] }))
  ∧ (∀ (i : Instr) (x : FmtMA) (s : State) (n : Slot) (f : Form) (g : Group) (r : Run), (i = .fwait x ∨ i = .waita x) →
    Ready i s n f g r → acting f.hd g r ≠ 0 → (∀ k, g.block ≠ .released k) → g.acqPending = true → Rules.Goes s g →
    (Rules.seen i s n f.hd g r).isSome = true → ∃ t, exec i s = .next t ∧ (t.grp s.core n).block = .polling
      ∧ (t.grp s.core n).run = some r ∧ (t.grp s.core n).cap = some (Rules.waitEntry s g x.lh) ∧ Writes.nil.take g (t.grp s.core n))

namespace Sys2Proof.Rules
open Sys2Proof Sys2Proof.Machine

/-- The contributions of a REDD (R271), as accesses of the acting lanes. -/
def contributions (s : State) (g : Group) (f : Form) (x : FmtMA) (u : Fin 32 → Nat) (ls : List (Fin 32)) : List Acc :=
  ls.map fun l => { lane := l, lh := x.lh, entry := entryOf s g x.lh, u := u l, size := 4
                    op := .redd (g.src f.hd.u x.b.toNat l) (x.op.setWidth 3) x.sco (x.ord.getLsbD 0)
                      ((s.cores[s.core]).ctx).pos (stepTag s g x.lh) }

end Sys2Proof.Rules

/-- REDD (R271): HOSTMEM takes LAYOUT_RIGHTS; with every lane sound, after a drain when the buffer could not take them, it
stands outstanding with one contribution per acting lane; on SHARED, relaxed, with nothing of the group waiting, they stand
at the end of the scheduler's buffer, lowest lane first, and the cells keep their values until a drain. REDFLUSH drains,
after its release, what was issued before it. -/
def Sys2Proof.Rules.DeferredReductions : Prop :=
  (∀ (x : FmtMA) (s : State) (n : Slot) (f : Form) (g : Group) (r : Run) (l : Fin 32),
    Ready (.redd x) s n f g r → lowLane (acting f.hd g r) = some l → usable (entryOf s g x.lh) = true →
    keyOk s (s.team s.core g.team).asid (entryOf s g x.lh) = true → entSpace (entryOf s g x.lh) = 7 →
    exec (.redd x) s = .next (takeTrap s s.core n r.pc r.idx r.lanes
      { cause := 0x09, lane := if f.hd.u then none else some l, x1 := w32 x.lh.toNat }))
  ∧ (∀ (x : FmtMA) (s : State) (n : Slot) (f : Form) (g : Group) (r : Run) (u : Fin 32 → Nat),
    Ready (.redd x) s n f g r → acting f.hd g r ≠ 0 → entSpace (entryOf s g x.lh) ≠ 7 →
    (∀ l, (acting f.hd g r).getLsbD l.val = true → locate s (s.team s.core g.team) ⟨s.core, g.team, n, l⟩ .atomic x.lh.toNat
      (entryOf s g x.lh) (g.coords f.hd.u x.cr.toNat (x.dm.toNat + 1) l) 0 4 (if f.hd.u then none else some l) = .ok (u l)) →
    let m := Rules.members (acting f.hd g r)
    exec (.redd x) s = .next (Rules.afterLong
      ((makeRoom s s.core g.sched (m.length + reddWaiting s s.core g.sched)).modCtx s.core fun y => { y with
        pos := ((s.cores[s.core]).ctx).pos + 1 }) n f
      { sb := 7, kind := .mem (Rules.contributions s g f x u m), rel := if x.ord.getLsbD 0 then some x.sco else none })
    ∧ (g.stays s → entSpace (entryOf s g x.lh) = 2 → x.ord.getLsbD 0 = false → Rules.Clear g → s.later = false →
      (((s.cores[s.core]).ctx.redd)[g.sched]).length + m.length + reddWaiting s s.core g.sched ≤ 1024 →
      ∃ t, exec (.redd x) s = .next t ∧ Writes.nil.take g (t.grp s.core n) ∧ t.mem = s.mem ∧ t.dies = s.dies
        ∧ (∀ m, t.team s.core m = s.team s.core m)
        ∧ ((((t.cores[s.core]).ctx).redd)[g.sched]).map (fun k => (k.value, k.lane, k.ps, k.sco, k.rel, k.gid))
          = ((((s.cores[s.core]).ctx).redd)[g.sched]).map (fun k => (k.value, k.lane, k.ps, k.sco, k.rel, k.gid))
            ++ m.map fun l => (g.src f.hd.u x.b.toNat l, l,
              (List.range 4).map fun k => ⟨.shared s.core g.team, Rules.scratchPlace (entryOf s g x.lh) (u l) k⟩, x.sco, false, g.gid)))
  ∧ (∀ (x : FmtR) (s : State) (n : Slot) (f : Form) (g : Group) (r : Run),
    Ready (.redflush x) s n f g r → acting f.hd g r ≠ 0 →
    exec (.redflush x) s = .next (Rules.afterLong s n f
      { sb := 7, kind := .act (.flush ((s.cores[s.core]).ctx).pos), rel := Rules.relAt x }))

/-- BarrierInstructions, BarrierWait, BarrierSync: the parts above together. -/
def Obligations.BarrierOperations : Prop :=
  Sys2Proof.Rules.BarrierInstructions ∧ Sys2Proof.Rules.BarrierWait ∧ Sys2Proof.Rules.BarrierSync

/-- FenceInstructions, SnapshotRequest: the parts above together. -/
def Obligations.FencesAndSnapshots : Prop :=
  Sys2Proof.Rules.FenceInstructions ∧ Sys2Proof.Rules.SnapshotRequest

/-- FutureAndWordWaits, DeferredReductions: the parts above together. -/
def Obligations.WaitsAndDeferredReductions : Prop :=
  Sys2Proof.Rules.FutureAndWordWaits ∧ Sys2Proof.Rules.DeferredReductions

/-! ## Matrix operations, rings and the array (R124 to R126, R180, R290 to R308) -/

namespace Sys2Proof.Rules
open Sys2Proof Sys2Proof.Machine

/-- SatS32. -/
def satInt (x : Int) : W32 := BitVec.ofInt 32 (max (-2147483648) (min 2147483647 x))
/-- Bit k of lane j's row in V(r) to V(r + 3). -/
def rowBit (g : Group) (r : Nat) (j : Fin 32) (k : Nat) : Bool := (g.rdV (r + k / 32) j).getLsbD (k % 32)
/-- Element e of w bits of lane j's row. -/
def rowField (g : Group) (r : Nat) (j : Fin 32) (w e : Nat) : Nat :=
  (List.range w).foldl (fun a k => if rowBit g r j (w * e + k) then a + 2 ^ k else a) 0
/-- Lane i of the quarter of lane l. -/
def mate (l : Fin 32) (i : Nat) : Fin 32 := Fin.ofNat 32 (l.val / 8 * 8 + i)
/-- The new element (l, 8k + c) of the accumulator (R180, R291): for an integer format and QMMB the saturated sum of the
accumulator and the products or counts, for a float format the exact sum rounded once. -/
def matrixElem (i : Instr) (g : Group) (l : Fin 32) (k c : Nat) : Option W32 :=
  let acc (x : FmtR) : W32 := (g.rdA (x.c.toNat + k) l).extractLsb' (32 * c) 32
  match i with
  | .qmma x =>
    let f : BitVec 5 := x.h.setWidth 5
    let w := (fmtWidth f).getD 32
    let pairs := (List.range (128 / w)).map fun j =>
      (numOf f.toNat (rowField g x.a.toNat l w j), numOf f.toNat (rowField g (x.b.toNat + 4 * k) (mate l c) w j))
    some (if fmtFloat f then dotRound true (acc x) pairs
      else satInt ((acc x).toInt + (pairs.map fun p => numInt p.1 * numInt p.2).sum))
  | .qmmb x => some (satInt ((acc x).toInt + (((List.range 128).filter fun j =>
      let a := rowBit g x.a.toNat l j
      let b := rowBit g (x.b.toNat + 4 * k) (mate l c) j
      if x.lo.b22 then a && b else a != b).length : Nat)))
  | _ => none
/-- Fields of QMMA and QMMB. -/
def matrixFields : Instr → Option FmtR
  | .qmma x | .qmmb x => some x
  | _ => none

end Sys2Proof.Rules

/-- QMMA and QMMB: the rows of every acting lane's quarter tile, computed from the registers at issue, are held for
retirement; element c of row k takes the value of R180; nothing changes at issue. -/
def Sys2Proof.Rules.MatrixMultiplyResult : Prop :=
  ∀ (i : Instr) (s : State) (n : Slot) (f : Form) (g : Group) (r : Run) (x : FmtR),
    Rules.matrixFields i = some x → Ready i s n f g r → acting f.hd g r ≠ 0 → g.stays s → (∀ o ∈ g.out, ¬ o.pending) →
    ∃ (t : State) (row : Fin 32 → Nat → BitVec 256), exec i s = .next t ∧ OnlyGroup s t n ∧ Writes.nil.take g (t.grp s.core n)
      ∧ (t.grp s.core n).out = g.out ++ [{
          sb := f.hd.sb, kind := .done, dests := formDests f, count := g.retired, epoch := g.epoch, pc := r.pc, idx := r.idx
          writes := (Rules.members (acting f.hd g r)).flatMap fun l => (List.range (if x.lo.b23 then 2 else 1)).map fun k =>
            .a (BitVec.ofNat 4 (x.d.toNat + k)) l (row l k) false }]
      ∧ ∀ l k c, k < (if x.lo.b23 then 2 else 1) → c < 8 → Rules.matrixElem i g l k c = some ((row l k).extractLsb' (32 * c) 32)

namespace Sys2Proof.Rules
open Sys2Proof Sys2Proof.Machine

/-- A row from eight words, the first lowest. -/
def rowOfWords (f : Nat → W32) : BitVec 256 := f 7 ++ f 6 ++ f 5 ++ f 4 ++ f 3 ++ f 2 ++ f 1 ++ f 0
/-- What QZERO and QMOV write (R292). -/
def fragmentWrites (i : Instr) (g : Group) (m : Mask) : Option Writes :=
  match i with
  | .qzero x => some (if x.lo.b23 then (Writes.a x.d.toNat m fun _ => 0).and (Writes.a (x.d.toNat + 1) m fun _ => 0)
      else Writes.a x.d.toNat m fun _ => 0)
  | .qmov x => some (if x.lo.b23 then Writes.a x.d.toNat m fun l => g.rdA x.a.toNat l
      else if x.lo.b22 then Writes.a x.d.toNat m fun l => rowOfWords fun c => g.rdV (x.a.toNat + c) l
      else (List.range 8).foldl (fun w c => w.and (Writes.v (x.d.toNat + c) m fun l => (g.rdA x.a.toNat l).extractLsb' (32 * c) 32)) Writes.nil)
  | _ => none

/-- R294: the words MXCFG accepts. -/
def configOk (c : Nat) : Prop :=
  let w := c % 32
  let x := c / 32 % 32
  c < 2 ^ 20 ∧ (if c.testBit 10 then w = x ∧ (w = 0x04 ∨ w = 0x06 ∨ w = 0x0C)
    else (w ∈ [2, 3] ∧ x ∈ [2, 3]) ∨ (w ∈ [4, 5] ∧ x ∈ [4, 5]) ∨ (w = 6 ∧ x = 6) ∨ (w ∈ [0x0C, 0x0D] ∧ x ∈ [0x0C, 0x0D])
      ∨ (w ∈ [0x0E, 0x0F] ∧ x ∈ [0x0E, 0x0F]))

end Sys2Proof.Rules

/-- QZERO and QMOV write the fragment rows or registers of R292 in the acting lanes; MXCFG writes MXC exactly when the word
passes R294 and takes ILLEGAL_FIELD otherwise; nothing else changes. -/
def Sys2Proof.Rules.FragmentAndConfigResult : Prop :=
  (∀ (i : Instr) (s : State) (n : Slot) (f : Form) (g : Group) (r : Run) (w : Writes),
    Rules.fragmentWrites i g (acting f.hd g r) = some w → Ready i s n f g r → acting f.hd g r ≠ 0 → g.stays s →
    ∃ t, exec i s = .next t ∧ OnlyGroup s t n ∧ w.take g (t.grp s.core n))
  ∧ (∀ (x : FmtR) (s : State) (n : Slot) (f : Form) (g : Group) (r : Run),
    Ready (.mxcfg x) s n f g r → acting f.hd g r ≠ 0 → g.stays s →
    (Rules.configOk (g.rdS x.a.toNat).toNat →
        ∃ t, exec (.mxcfg x) s = .next t ∧ OnlyGroup s t n ∧ (Writes.special .mxc (g.rdS x.a.toNat)).take g (t.grp s.core n))
    ∧ (¬ Rules.configOk (g.rdS x.a.toNat).toNat →
        exec (.mxcfg x) s = .next (takeTrap s s.core n r.pc r.idx r.lanes (wordTrap 0x02 (r.words.getD r.idx 0)))))

namespace Sys2Proof.Rules
open Sys2Proof Sys2Proof.Machine

/-- The array operation that an instruction queues: its kind, rings, PUB and rounding (R296). -/
def arrayForm : Instr → Option (ArrKind × Option (BitVec 3) × Option (BitVec 3) × Bool × BitVec 3)
  | .mxw x => some (.mxw x.lo.b22, some (x.a.setWidth 3), none, false, 0)
  | .mxmm x => some (.mxmm x.lo.b23 x.lo.b22, some (x.a.setWidth 3), some (x.b.setWidth 3), x.lo.b21, 0)
  | .mxscan x => some (.mxscan (BitVec.ofBool x.lo.b23 ++ BitVec.ofBool x.lo.b22), some (x.a.setWidth 3), some (x.b.setWidth 3), x.lo.b21, 0)
  | .mxepi x => some (.mxepi x.lo.b23 x.lo.b22 x.lo.m (x.h.setWidth 5), none, some (x.b.setWidth 3), x.lo.b21, x.lo.m)
  | .mxt x => some (.mxt, some (x.a.setWidth 3), some (x.b.setWidth 3), x.lo.b21, 0)
  | _ => none

/-- R295: bits of an element, depth of a block, and the bytes of a weight, an activation and an accumulator entry. -/
def elemWidth (c : W32) : Nat := (fmtWidth (mxcW c)).getD 8
def blockDepth (c : W32) : Nat := if elemWidth c = 4 then 1024 else 512
def weightSize (c : W32) : Nat := blockDepth c * 512 * elemWidth c / 8 + if mxcMx c then 512 * (blockDepth c / 32) else 0
def activationSize (c : W32) : Nat :=
  mxcM c * blockDepth c * elemWidth c / 8 + if mxcMx c then mxcM c * (blockDepth c / 32) else 0
def accumulatorSize (c : W32) : Nat := mxcM c * 512 * 4
/-- Bytes that an operation needs of its input entry and of its output entry (R299 to R303). -/
def inputSize (k : ArrKind) (c : W32) : Nat :=
  match k with
  | .mxw _ => weightSize c
  | .mxmm .. => activationSize c
  | .mxscan h => 2 * accumulatorSize c + if h = 2 then 2048 else 0
  | .mxepi .. => 0
  | .mxt => mxcM c * blockDepth c * elemWidth c / 8
def outputSize (k : ArrKind) (c : W32) : Nat :=
  match k with
  | .mxw _ => 0
  | .mxt => mxcM c * blockDepth c * elemWidth c / 8
  | _ => accumulatorSize c
/-- The checks of R296: the rings exist and are carved, the array has their other side and the input lies in the right
buffer, MXC is valid, the entries are large enough, and what the kind needs besides. -/
def arraySound (x : CtxCore) (t : Slot) (c : W32) (k : ArrKind) (ri ro : Option (BitVec 3)) : Prop :=
  let tm := x.teams[t]
  let ring (j : BitVec 3) : Ring := tm.rings[j.toFin]
  (∀ j, ri = some j ∨ ro = some j → j.toNat < LRec.nrings tm.lrec ∧ (ring j).val = true)
  ∧ (∀ j, ri = some j → (ring j).cna = true ∧ entSpace (ring j).entry = (match k with | .mxw _ => 3 | _ => 4))
  ∧ (∀ j, ro = some j → (ring j).pra = true)
  ∧ configOk c.toNat
  ∧ (∀ j, ri = some j → inputSize k c ≤ (ring j).bytes) ∧ (∀ j, ro = some j → outputSize k c ≤ (ring j).bytes)
  ∧ match k with
    | .mxmm _ lt => (x.latch lt).queued = some (c.setWidth 11)
    | .mxscan _ => ∃ e, mxcM c = 2 ^ e
    | .mxepi .. => x.heldAtTail t (ro.getD 0) = true
    | _ => True
/-- The core's context with the operation last in its queue, held until its fork's release is done (R100, R126); MXW is noted
as its latch's latest load. -/
def queuedOp (x : CtxCore) (g : Group) (n : Slot) (k : ArrKind) (ri ro : Option (BitVec 3)) (pub : Bool) (held : Bool) : CtxCore :=
  let y := { x with
    arrq := x.arrq ++ [{ id := x.arrId, kind := k, mxc := g.mxc, pub := pub, ringIn := ri, ringOut := ro
                         team := g.team, idx := n, gid := g.gid, draw := g.srcnt, held := held }]
    arrId := x.arrId + 1 }
  match k with
  | .mxw lt => y.modLatch lt fun l => { l with queued := some (g.mxc.setWidth 11) }
  | _ => y

end Sys2Proof.Rules

/-- MXW, MXMM, MXSCAN, MXEPI and MXT: a failed check of R296 traps and queues nothing; a full queue holds the issue with no
effect; otherwise the operation stands last in the core's queue with the issuing group's MXC and SRCNT, the instruction is
outstanding until it completes, MXW is noted as its latch's latest load, and MXEPI with RM 4 counts SRCNT. With nothing of
the group waiting and the turn making its accesses, the fork's release is done at once. -/
def Sys2Proof.Rules.ArrayOperationsQueue : Prop :=
  ∀ (i : Instr) (s : State) (n : Slot) (f : Form) (g : Group) (r : Run) (k : ArrKind) (ri ro : Option (BitVec 3)) (pub : Bool)
    (rm : BitVec 3), Rules.arrayForm i = some (k, ri, ro, pub, rm) → Ready i s n f g r → acting f.hd g r ≠ 0 →
    let x := (s.cores[s.core]).ctx
    (∀ t, arrayCheck x g.team g.mxc k ri ro = some t → exec i s = .next (takeTrap s s.core n r.pc r.idx r.lanes t))
    ∧ (Rules.arraySound x g.team g.mxc k ri ro → 32 ≤ (x.arrq.filter fun a => !a.fired).length → exec i s = .next s)
    ∧ (Rules.arraySound x g.team g.mxc k ri ro → (x.arrq.filter fun a => !a.fired).length < 32 →
        exec i s = .next (Rules.afterLong ((s.modCtx s.core fun x => Rules.queuedOp x g n k ri ro pub true).modGrp s.core n fun g =>
          { g with srcnt := if rm = 4 then g.srcnt + 1 else g.srcnt }) n f { sb := 7, kind := .array x.arrId, rel := some 1 })
        ∧ (Rules.Clear g → s.later = false → g.stays s → ∃ t, exec i s = .next t
          ∧ (if rm = 4 then Writes.special .srcnt (g.srcnt + 1) else Writes.nil).take g (t.grp s.core n)
          ∧ (∀ m, m ≠ n → t.grp s.core m = s.grp s.core m) ∧ (∀ m, t.team s.core m = s.team s.core m)
          ∧ t.mem = s.mem ∧ t.dies = s.dies ∧ t.hub = s.hub
          ∧ (t.grp s.core n).out = g.out ++ [{
              sb := f.hd.sb, kind := .array x.arrId, dests := formDests f, count := g.retired, epoch := g.epoch, pc := r.pc, idx := r.idx }]
          ∧ ((∀ a ∈ x.arrq, a.id ≠ x.arrId) → ((t.cores[s.core]).ctx).arrq = (Rules.queuedOp x g n k ri ro pub false).arrq)
          ∧ (∀ lt, k = .mxw lt → (((t.cores[s.core]).ctx).latch lt).queued = some (g.mxc.setWidth 11))
          ∧ (∀ lt, k ≠ .mxw lt → ((t.cores[s.core]).ctx).latch lt = x.latch lt)))

namespace Sys2Proof.Rules
open Sys2Proof Sys2Proof.Machine

/-- A ring trap (R397). -/
def ringCause (cause : BitVec 8) (k : BitVec 3) (n : Nat) : Trap := { cause := cause, x1 := k.setWidth 32, x2 := w32 n }
/-- The ring that a word names, its n and the team. -/
def ringIdx (x : FmtR) : BitVec 3 := x.a.setWidth 3
def ringCount (x : FmtR) (g : Group) : Nat := if x.lo.b22 then (g.rdS x.b.toNat).toNat else x.b.toNat
/-- The first failing check of a move or wait of an agent's own side (R125, R306). -/
def sideTrap (t : Team) (k : BitVec 3) (n : Nat) (put move : Bool) : Option Trap :=
  let r := t.rings[k.toFin]
  let full := (r.pp.toNat + 65536 - r.cp.toNat) % 65536
  if LRec.nrings t.lrec ≤ k.toNat ∨ r.val = false then some (ringCause 0x14 k n)
  else if (if put then r.pra else r.cna) then some (ringCause 0x15 k n)
  else if move ∧ (if put then r.cnt.toNat + 1 - full else full) < n then some (ringCause 0x17 k n)
  else none

/-- The ring that RGSET's word describes (R305). -/
def carved (s : State) (g : Group) (w : W32) : Ring :=
  { lh := w.setWidth 6, cnt := w.extractLsb' 6 6, esz := w.extractLsb' 12 12, cna := w.getLsbD 24, pra := w.getLsbD 25, val := true
    entry := entryOf s g (w.setWidth 6) }
/-- R305: no reserved bit, a ring of the team that is not busy, a usable entry of a typed buffer with RD and WR in which all
entries fit, and roles that its space admits: a producing array in YBUF, a consuming one in WBUF or XBUF. -/
def carveSound (s : State) (g : Group) (k : BitVec 3) (w : W32) : Prop :=
  let t := s.team s.core g.team
  let e := entryOf s g (w.setWidth 6)
  let q := t.rings[k.toFin]
  w.toNat < 2 ^ 26 ∧ k.toNat < LRec.nrings t.lrec ∧ usable e = true ∧ keyOk s t.asid e = true
  ∧ (entSpace e = 3 ∨ entSpace e = 4 ∨ entSpace e = 5) ∧ (entRights e).getLsbD 0 = true ∧ (entRights e).getLsbD 1 = true
  ∧ entBase e + ((w.extractLsb' 6 6).toNat + 1) * (((w.extractLsb' 12 12).toNat + 1) * 1024) ≤ allocation t (entSpace e)
  ∧ (w.getLsbD 25 = true → entSpace e = 5) ∧ (w.getLsbD 24 = true → entSpace e ≠ 5)
  ∧ ¬ (q.val = true ∧ (q.pp ≠ q.cp ∨ q.resIn ≠ 0 ∨ q.resOut ≠ 0))

end Sys2Proof.Rules

/-- RGPUT and RGGET (R125, R306): RING_RANGE, RING_ROLE and RING_OVER in that order; a move advances PP or CP of that ring by
n and changes no byte of any entry; a `.WAIT` form moves nothing and is complete at once when its condition holds;
RGPUT's release waits for the group's earlier accesses, and RGGET waits behind a release or an acquire of its group that is
not done (R88, R89). RGQRY reads both words of the ring. RGSET.CLR clears VAL of a ring that is not busy; RGSET carves the ring
that its word describes, when the word, the entry, the roles and the ring pass R305. -/
def Obligations.RingInstructions : Prop :=
  (∀ (i : Instr) (x : FmtR) (put : Bool) (s : State) (n : Slot) (f : Form) (g : Group) (r : Run),
    (i = .rgput x ∧ put = true) ∨ (i = .rgget x ∧ put = false) → Ready i s n f g r → acting f.hd g r ≠ 0 →
    let k := Rules.ringIdx x
    let num := Rules.ringCount x g
    let t := s.team s.core g.team
    let held : Bool := if put then g.memPending else g.relPending || g.acqPending
    (64 < num → exec i s = .next (takeTrap s s.core n r.pc r.idx r.lanes (wordTrap 0x02 (r.words.getD r.idx 0))))
    ∧ (num ≤ 64 → x.lo.b23 = false → held = true → exec i s = .next s)
    ∧ (∀ e, num ≤ 64 → (x.lo.b23 = true ∨ held = false) → Rules.sideTrap t k num put (!x.lo.b23) = some e →
        exec i s = .next (takeTrap s s.core n r.pc r.idx r.lanes e))
    ∧ (num ≤ 64 → x.lo.b23 = true → Rules.sideTrap t k num put false = none → exec i s = .next (Rules.afterLong s n f
        { sb := 7, kind := if (t.ring k).waitMet put num then .done else .ring put k num }))
    ∧ (num ≤ 64 → x.lo.b23 = false → held = false → Rules.sideTrap t k num put true = none → g.stays s →
        ∃ u, exec i s = .next u ∧ Writes.nil.take g (u.grp s.core n)
          ∧ (let q := (u.team s.core g.team).rings[k.toFin]
             let q0 := t.rings[k.toFin]
             if put then q = { q0 with pp := q0.pp + BitVec.ofNat 16 num } else q = { q0 with cp := q0.cp + BitVec.ofNat 16 num })
          ∧ (∀ j : Fin 8, j ≠ k.toFin → ((u.team s.core g.team).rings)[j] = (t.rings)[j])
          ∧ (∀ m, { u.team s.core m with rings := .replicate 8 {} } = { s.team s.core m with rings := .replicate 8 {} })
          ∧ u.mem = s.mem ∧ u.dies = s.dies ∧ u.hub = s.hub))
  ∧ (∀ (x : FmtR) (s : State) (n : Slot) (f : Form) (g : Group) (r : Run),
    Ready (.rgqry x) s n f g r → acting f.hd g r ≠ 0 → g.stays s →
    let k := Rules.ringIdx x
    let q := (s.team s.core g.team).rings[k.toFin]
    (LRec.nrings (s.team s.core g.team).lrec ≤ k.toNat →
      exec (.rgqry x) s = .next (takeTrap s s.core n r.pc r.idx r.lanes (Rules.ringCause 0x14 k 0)))
    ∧ (k.toNat < LRec.nrings (s.team s.core g.team).lrec →
        ∃ t, exec (.rgqry x) s = .next t ∧ OnlyGroup s t n
          ∧ ((Writes.s x.d.toNat (q.pp ++ q.cp)).and (Writes.s (x.d.toNat + 1)
              ((0 : BitVec 2) ++ BitVec.ofBool q.pra ++ BitVec.ofBool q.cna ++ q.lh ++ q.cnt ++ q.esz ++ (0 : BitVec 3)
                ++ BitVec.ofBool q.val))).take g (t.grp s.core n)))
  ∧ (∀ (x : FmtR) (s : State) (n : Slot) (f : Form) (g : Group) (r : Run),
    Ready (.rgsetClr x) s n f g r → acting f.hd g r ≠ 0 → g.stays s →
    let k := Rules.ringIdx x
    let q := (s.team s.core g.team).rings[k.toFin]
    (LRec.nrings (s.team s.core g.team).lrec ≤ k.toNat →
      exec (.rgsetClr x) s = .next (takeTrap s s.core n r.pc r.idx r.lanes (Rules.ringCause 0x14 k 0)))
    ∧ (k.toNat < LRec.nrings (s.team s.core g.team).lrec → q.val = true ∧ (q.pp ≠ q.cp ∨ q.resIn ≠ 0 ∨ q.resOut ≠ 0) →
        exec (.rgsetClr x) s = .next (takeTrap s s.core n r.pc r.idx r.lanes (Rules.ringCause 0x16 k 0)))
    ∧ (k.toNat < LRec.nrings (s.team s.core g.team).lrec → ¬ (q.val = true ∧ (q.pp ≠ q.cp ∨ q.resIn ≠ 0 ∨ q.resOut ≠ 0)) →
        ∃ t, exec (.rgsetClr x) s = .next t ∧ Writes.nil.take g (t.grp s.core n)
          ∧ ((t.team s.core g.team).rings)[k.toFin] = { q with val := false } ∧ t.mem = s.mem ∧ t.hub = s.hub))
  ∧ (∀ (x : FmtR) (s : State) (n : Slot) (f : Form) (g : Group) (r : Run),
    Ready (.rgset x) s n f g r → acting f.hd g r ≠ 0 → g.stays s →
    let k := Rules.ringIdx x
    (∀ e, carve (s.team s.core g.team) s r k (g.rdS x.b.toNat) = .error e →
      exec (.rgset x) s = .next (takeTrap s s.core n r.pc r.idx r.lanes e))
    ∧ (Rules.carveSound s g k (g.rdS x.b.toNat) →
        ∃ t, exec (.rgset x) s = .next t ∧ Writes.nil.take g (t.grp s.core n)
          ∧ ((t.team s.core g.team).rings)[k.toFin] = Rules.carved s g (g.rdS x.b.toNat) ∧ t.mem = s.mem ∧ t.hub = s.hub))

namespace Sys2Proof.Rules
open Sys2Proof Sys2Proof.Machine

/-- Eighths of the array that an operation drives (R299 to R303). -/
def drives : ArrKind → Nat
  | .mxw _ => 0
  | .mxmm .. => 8
  | .mxscan _ => 4
  | .mxepi .. => 1
  | .mxt => 2

end Sys2Proof.Rules

/-- ARRAY_OP_FIRE fires the first operation of a running core's queue that has not fired, once its fork is not held, nothing
ahead that has fired holds it back and its rings have its entries: it is marked with the cycle, the entries it reserved and HC
as it stands (R293). ARRAY_OP_COMPLETE takes the n-th fired operation out of the queue, unless its covered start still waits
(R425) or an earlier one leaves the same latch or HC (R304): it loads its latch (MXW), writes the bytes of its result to its
output entry and the last row to HC (MXSCAN), publishes or holds its output entry, lets its instruction retire and charges the
end of what it drove to its cluster (R297 to R303, R430). -/
def Sys2Proof.Rules.ArrayEvents : Prop :=
  (∀ (c : CoreId) (s : State) (ahead : List ArrOp) (a : ArrOp) (rest : List ArrOp),
    ((s.cores[c]).ctx).arrq = ahead ++ a :: rest → (∀ b ∈ ahead, b.fired = true ∧ a.waitsFor b = false ∧ b.id ≠ a.id) → a.fired = false → a.held = false →
    (s.cores[c]).run.isSome = true → (s.cores[c]).stopping = .no → (s.team c a.team).tbHere = true →
    a.ringsReady (s.team c a.team) = true →
    ∃ (t : State) (b : ArrOp), exec (.arrayOpFire c) s = .next t
      ∧ ((t.cores[c]).ctx).arrq = ahead ++ b :: rest ∧ b.fired = true ∧ b.id = a.id ∧ b.kind = a.kind ∧ b.mxc = a.mxc
      ∧ b.firedAt = s.cycles c ∧ b.hc0 = some ((s.cores[c]).ctx).hc ∧ t.mem = s.mem ∧ t.dies = s.dies
      ∧ (∀ j, a.ringIn = some j → a.ringOut ≠ some j → (((t.team c a.team).ring j).resIn = ((s.team c a.team).ring j).resIn + 1
          ∧ ((t.team c a.team).ring j).cp = ((s.team c a.team).ring j).cp)))
  ∧ (∀ (c : CoreId) (n : Nat) (s : State) (a : ArrOp),
    (((s.cores[c]).ctx.arrq).filter (·.fired))[n]? = some a → (s.cores[c]).run.isSome = true →
    (∀ x ∈ (s.hub.clusters[clusterOf c]).starts, ¬ (x.1 = c.val ∧ x.2.1 = a.id)) →
    (∀ b ∈ (((s.cores[c]).ctx.arrq).filter (·.fired)).take n, a.endsAfter b = false) →
    let byte (k : Option (BitVec 3)) (e u : Nat) : Byte := match k with
      | some j => placeByte s ⟨((s.team c a.team).ring j).tgt c a.team, ((s.team c a.team).ring j).place e u⟩
      | none => 0
    let blk : List Byte := match a.kind with | .mxmm _ lt => (((s.cores[c]).ctx).latch lt).block | _ => []
    let res := a.result (LRec.seed (s.team c a.team).lrec) (Team.linear (s.team c a.team)) (byte a.ringIn a.entIn)
      (byte a.ringOut a.entOut) (fun k => blk.getD k 0) (a.hc0.getD ((s.cores[c]).ctx).hc)
    ∃ t, exec (.arrayOpComplete c n) s = .next t
      ∧ ((t.cores[c]).ctx).arrq = (((s.cores[c]).ctx).arrq).eraseP fun b => b.id == a.id
      ∧ (∀ o ∈ (t.grp c a.idx).out, o.kind ≠ .array a.id)
      ∧ (t.hub.clusters[clusterOf c]).ends = (s.hub.clusters[clusterOf c]).ends + 16 * Rules.drives a.kind
      ∧ (∀ lt j, a.kind = .mxw lt → a.ringIn = some j →
          (((t.cores[c]).ctx).latch lt).fmt = some (a.mxc.setWidth 11)
          ∧ (((t.cores[c]).ctx).latch lt).block = (List.range (Rules.weightSize a.mxc)).map (byte a.ringIn a.entIn))
      ∧ (∀ h, a.kind = .mxscan h → ∀ q : Fin 512, (((t.cores[c]).ctx).hc)[q]
          = wordLE ((res.drop (4 * ((mxcM a.mxc - 1) * 512 + q.val))).take 4))
      ∧ (∀ j, a.ringOut = some j → ∀ u < res.length,
          placeByte t ⟨((s.team c a.team).ring j).tgt c a.team, ((s.team c a.team).ring j).place a.entOut u⟩ = res.getD u 0)
      ∧ (∀ j, a.ringOut = some j → a.ringIn ≠ some j →
          ((t.team c a.team).ring j).held = (!a.pub)
          ∧ ((t.team c a.team).ring j).pp = ((s.team c a.team).ring j).pp + (if a.pub then 1 else 0)))

/-- MatrixMultiplyResult, FragmentAndConfigResult: the parts above together. -/
def Obligations.MatrixInstructions : Prop :=
  Sys2Proof.Rules.MatrixMultiplyResult ∧ Sys2Proof.Rules.FragmentAndConfigResult

/-- ArrayOperationsQueue, ArrayEvents: the parts above together. -/
def Obligations.ArrayOperations : Prop :=
  Sys2Proof.Rules.ArrayOperationsQueue ∧ Sys2Proof.Rules.ArrayEvents

/-! ## Copy engines, tasks, children, staging (R127 to R140, R309 to R323) -/

namespace Sys2Proof.Rules
open Sys2Proof Sys2Proof.Machine

/-- The copy commands of a group: operation, fields, whether the tail of the argument block is read (R309). -/
def copyForm : Instr → Option (CopyOp × FmtRE × Bool)
  | .cpt x => some (.t, x, x.fut || x.spec.getLsbD 2 || x.spec.getLsbD 1)
  | .cpg x => some (.g, x, true)
  | .cps x => some (.s, x, true)
  | .cpf x => some (.f, x, x.fut)
  | .cpr x => some (.r, x, x.fut)
  | .cpput x => some (.put, x, true)
  | .cpget x => some (.get, x, true)
  | _ => none

/-- Destination rows: the box rows of each repeat that has its own destination box (R310, R313, R315). -/
def copyRows (op : CopyOp) (blk : Vector W32 18) : Nat :=
  (match op with | .r | .g | .s => 1 | _ => (vat blk 12).toNat % 65536 + 1) * ((vat blk 9).toNat * (vat blk 10).toNat * (vat blk 11).toNat)
/-- Counted bytes of a row: elements rounded up to bytes, and the scales that MX quantisation writes (R310, R312). -/
def copyRowBytes (op : CopyOp) (spec : BitVec 3) (dst : Ent) (blk : Vector W32 18) : Nat :=
  ((vat blk 8).toNat * entW dst + 7) / 8 + if op = .t ∧ spec.getLsbD 1 = true then (vat blk 8).toNat / 32 else 0
/-- The command as captured at issue (R128, R309, R310). -/
def command (s : State) (n : Slot) (g : Group) (op : CopyOp) (x : FmtRE) (tail : Bool) : Cmd :=
  let t := s.team s.core g.team
  let blk : Vector W32 18 := Vector.ofFn fun j => if j.val < 15 || tail then g.rdS (x.sa.toNat + j.val) else 0
  { seq := (s.cores[s.core]).jseq, asid := t.asid, team := g.team, op := op, idx := n, gid := g.gid, blk := blk, spec := x.spec, rm := x.rm
    fut := x.fut, rge := x.rge, ring := x.ring, bi := x.bi, ls := x.ls, ldh := x.ldh
    src := entryOf s g x.ls, dst := entryOf s g x.ldh, h2 := entryOf s g ((vat blk 15).extractLsb' 6 6)
    cell := entryOf s g ((vat blk 15).extractLsb' 0 6), draw := g.srcnt, step := t.step
    total := copyRows op blk, counted := copyRows op blk * copyRowBytes op x.spec (entryOf s g x.ldh) blk
    held := true
    sets := if (entryOf s g x.ldh).getLsbD 67 ∨ (op = .t ∧ x.spec.getLsbD 1 = true ∧ (entryOf s g ((vat blk 15).extractLsb' 6 6)).getLsbD 67)
      then [(g.uid, g.epoch)] else [] }
/-- The journal of a core, and a command of its running context there (R128). -/
def inJournal (s : State) (c : CoreId) (seq : W32) (k : Cmd) : Prop :=
  ((s.cores[c]).journal.find? fun j => j.seq == seq && (s.cores[c]).run == some j.asid) = some k
/-- The journal without that command. -/
def without (s : State) (c : CoreId) (seq : W32) : List Cmd :=
  (s.cores[c]).journal.eraseP fun j => j.seq == seq && (s.cores[c]).run == some j.asid
/-- The issue of a command: last in the core's journal, its number taken, its counted bytes pending at its barrier, S(DS) and
the draw count written. -/
def accepted (s : State) (n : Slot) (x : FmtRE) (k : Cmd) : State :=
  let s1 := s.modCore s.core fun y => { y with journal := y.journal ++ [k], jseq := y.jseq + 1 }
  (if k.bi = 127 ∨ k.op = .put then s1 else updateBar s1 s.core k.team k.bi (.issue k.counted)).modGrp s.core n fun g =>
    (if x.rm = 4 then { g with srcnt := g.srcnt + 1 } else g).wrS x.ds.toNat k.seq

end Sys2Proof.Rules

/-- CPT, CPG, CPS, CPF, CPR, CPPUT and CPGET (R127, R128, R309, R310): COPY_RIGHTS for another group than the producer; the
first failing check of R310 traps with no journal entry; a full journal holds the issue with no effect; otherwise the
command as captured stands last in the core's journal, S(DS) takes its sequence number, the next number is one higher, its
barrier's PEND rises by its counted bytes, and the instruction stands outstanding behind the release of its fork (R100).
With nothing of the group waiting the engines may take the command at once, and no byte of any memory has moved. -/
def Sys2Proof.Rules.CopyCommandIssues : Prop :=
  ∀ (i : Instr) (s : State) (n : Slot) (f : Form) (g : Group) (r : Run) (op : CopyOp) (x : FmtRE) (tail : Bool),
    Rules.copyForm i = some (op, x, tail) → Ready i s n f g r → acting f.hd g r ≠ 0 →
    let t := s.team s.core g.team
    let k := Rules.command s n g op x tail
    let mine : Prop := LRec.pgv t.lrec = true ∧ g.gid.toNat = LRec.producer t.lrec
    let refused := copyCheck s s.core k (wordTrap 0x02 (r.words.getD r.idx 0))
    (¬ mine → exec i s = .next (takeTrap s s.core n r.pc r.idx r.lanes
      { cause := 0x18, x1 := ((r.words.getD r.idx 0).extractLsb' 0 10).setWidth 32 }))
    ∧ (∀ e, mine → refused = some e → exec i s = .next (takeTrap s s.core n r.pc r.idx r.lanes e))
    ∧ (mine → refused = none → 256 ≤ (s.cores[s.core]).journal.length → exec i s = .next s)
    ∧ (mine → refused = none → (s.cores[s.core]).journal.length < 256 →
        exec i s = .next (Rules.afterLong (Rules.accepted s n x k) n f { sb := 7, kind := .copy k.seq, rel := some 1 }))
    ∧ (mine → refused = none → (s.cores[s.core]).journal.length < 256 → g.stays s → Rules.Clear g → s.later = false →
        (∀ j ∈ (s.cores[s.core]).journal, j.seq ≠ k.seq) →
        ∃ u, exec i s = .next u ∧ (u.cores[s.core]).journal = (s.cores[s.core]).journal ++ [{ k with held := false }]
          ∧ (u.cores[s.core]).jseq = (s.cores[s.core]).jseq + 1
          ∧ ((if x.rm = 4 then Writes.special .srcnt (g.srcnt + 1) else Writes.nil).and (Writes.s x.ds.toNat k.seq)).take g (u.grp s.core n)
          ∧ u.mem = s.mem ∧ u.dies = s.dies
          ∧ (x.bi ≠ 127 → op ≠ .put → (t.bar x.bi).err = false → (t.bar x.bi).pend.toNat + k.counted < 16777216 →
              ((u.team s.core g.team).bar x.bi).pend.toNat = (t.bar x.bi).pend.toNat + k.counted))

/-- CPQ reads STATE and DONE of the team's own command, zeros when there is none; CPC removes the team's own command from the
journal and sets its predicate, and clears it when there is none; another group than the producer may not cancel. -/
def Sys2Proof.Rules.CopyQueryAndCancel : Prop :=
  (∀ (x : FmtR) (s : State) (n : Slot) (f : Form) (g : Group) (r : Run),
    Ready (.cpq x) s n f g r → acting f.hd g r ≠ 0 → g.stays s →
    ∃ (t : State) (a b : W32), exec (.cpq x) s = .next t ∧ OnlyGroup s t n
      ∧ ((Writes.s x.d.toNat a).and (Writes.s (x.d.toNat + 1) b)).take g (t.grp s.core n)
      ∧ ((∀ k, ¬ Rules.inJournal s s.core (g.rdS x.a.toNat) k) → a = 0 ∧ b = 0)
      ∧ (∀ k, Rules.inJournal s s.core (g.rdS x.a.toNat) k → k.team ≠ g.team → a = 0 ∧ b = 0)
      ∧ (∀ k, Rules.inJournal s s.core (g.rdS x.a.toNat) k → k.team = g.team →
          a = (match k.state with | .queued => 1 | .discarded => 3 | _ => 2) ∧ b.toNat = min k.sent 0xFFFFFFFF))
  ∧ (∀ (x : FmtR) (s : State) (n : Slot) (f : Form) (g : Group) (r : Run),
    Ready (.cpc x) s n f g r → acting f.hd g r ≠ 0 →
    let t := s.team s.core g.team
    let mine : Prop := LRec.pgv t.lrec = true ∧ g.gid.toNat = LRec.producer t.lrec
    (¬ mine → exec (.cpc x) s = .next (takeTrap s s.core n r.pc r.idx r.lanes
      { cause := 0x18, x1 := ((r.words.getD r.idx 0).extractLsb' 0 10).setWidth 32 }))
    ∧ (mine → (∀ k ∈ (s.cores[s.core]).journal, k.team = g.team → k.seq ≠ g.rdS x.a.toNat) → g.stays s →
        ∃ u, exec (.cpc x) s = .next u ∧ OnlyGroup s u n ∧ (Writes.q x.d.toNat false).take g (u.grp s.core n))
    ∧ (∀ k, mine → Rules.inJournal s s.core (g.rdS x.a.toNat) k → k.team = g.team →
        k.bi = 127 → k.fut = false → g.stays s →
        ∃ u, exec (.cpc x) s = .next u ∧ (Writes.q x.d.toNat true).take g (u.grp s.core n)
          ∧ (u.cores[s.core]).journal = Rules.without s s.core k.seq
          ∧ u.mem = s.mem ∧ u.hub = s.hub ∧ ∀ m, u.team s.core m = s.team s.core m))

/-- The engines (R128 to R130, R311). COPY_DELIVERY of a command that no engine has started takes it when it is the first of
its context that waits, its fork is done and an engine is free; of a command in flight it writes the one remaining
destination sector that the event names (stated for a fill of bytes in SHARED); of a command whose sectors have all
landed, or whose fork waits, it moves nothing, and a scatter whose next index fails it is then failed. COPY_COMPLETE of a command whose sectors have all landed, in journal order in deterministic
mode, delivers the rest of its counted bytes to its barrier, publishes its ring entry and takes it out of the journal, its
instruction free to retire. ENGINE_OPERATION_FAULT of a failed command enters one record in the context's log, fails its
barrier with 0x03 and takes it out of the journal. -/
def Obligations.CopyEngineEvents : Prop :=
  (∀ (c : CoreId) (seq : W32) (m : Nat) (s : State) (k : Cmd),
    Rules.inJournal s c seq k → (s.cores[c]).run.isSome = true → (s.cores[c]).stopping ≠ .drained →
    (s.team c k.team).tbHere = true →
    (k.state = .inFlight → k.remaining (copyCtx s c k) = [] → k.stop = none → exec (.copyDelivery c seq m) s = .next s)
    ∧ (k.state = .inFlight → k.remaining (copyCtx s c k) = [] → ∀ e, k.stop = some e → ∃ t, exec (.copyDelivery c seq m) s = .next t
        ∧ Rules.inJournal t c seq { k with state := e } ∧ t.mem = s.mem ∧ t.dies = s.dies ∧ t.hub = s.hub)
    ∧ (k.state ≠ .inFlight → k.held = true → exec (.copyDelivery c seq m) s = .next s)
    ∧ (let a0 := entBase k.dst + (vat k.blk 4).toNat
       let n0 := (vat k.blk 8).toNat
       k.state = .inFlight → k.op = .f → k.stop = none → k.landed = [] → entSpace k.dst = 2 → entW k.dst = 8 → entPerm k.dst = 0 →
       entStride k.dst 0 = 1 → k.total = 1 → (∀ d : Fin 4, 0 < d.val → vat k.blk (4 + d.val) = 0 ∧ vat k.blk (8 + d.val) = 1) →
       0 < n0 → a0 / 48 + m ≤ (a0 + n0 - 1) / 48 →
       ∃ t, exec (.copyDelivery c seq m) s = .next t
         ∧ (∀ a, placeByte t ⟨.shared c k.team, a⟩ = if a / 48 = a0 / 48 + m ∧ a0 ≤ a ∧ a < a0 + n0 then (vat k.blk 0).setWidth 8
             else placeByte s ⟨.shared c k.team, a⟩)
         ∧ t.mem = s.mem ∧ t.dies = s.dies)
    ∧ (k.state = .queued → k.op = .f → k.held = false →
        ((s.cores[c]).journal.find? fun j => j.waiting && (s.cores[c]).run == some j.asid) = some k →
        (((s.cores[c]).journal.filter fun j => j.state == .inFlight).length < 2) →
        ∃ t k', exec (.copyDelivery c seq m) s = .next t ∧ Rules.inJournal t c seq k' ∧ k'.state ≠ .queued ∧ k'.taken = true))
  ∧ (∀ (c : CoreId) (seq : W32) (s : State) (k : Cmd),
    Rules.inJournal s c seq k → (s.cores[c]).run.isSome = true → (s.cores[c]).stopping ≠ .drained →
    (s.team c k.team).tbHere = true → k.state = .inFlight → k.stop = none → k.remaining (copyCtx s c k) = [] → k.op ≠ .put →
    k.fut = false → k.role = none →
    (s.det c = false ∨ ((s.cores[c]).journal.find? fun j => j.asid == k.asid).map (·.seq) = some seq) →
    (k.rge = true → ((s.team c k.team).ring k.ring).free ≠ 0) →
    ∃ t, exec (.copyComplete c seq) s = .next t
      ∧ (t.cores[c]).journal = Rules.without s c seq
      ∧ (∀ o ∈ (t.grp c k.idx).out, o.kind ≠ .copy seq)
      ∧ t.mem = s.mem ∧ t.dies = s.dies
      ∧ (k.rge = true → ((t.team c k.team).ring k.ring).pp = ((s.team c k.team).ring k.ring).pp + 1)
      ∧ (k.bi ≠ 127 → ((s.team c k.team).bar k.bi).err = false → k.counted - k.sent ≤ ((s.team c k.team).bar k.bi).pend.toNat →
          ((t.team c k.team).bar k.bi).pend.toNat = ((s.team c k.team).bar k.bi).pend.toNat - (k.counted - k.sent)))
  ∧ (∀ (c : CoreId) (seq : W32) (s : State) (k : Cmd) (cause : BitVec 8) (lh : BitVec 6) (node : BitVec 14) (x1 x2 : W32),
    Rules.inJournal s c seq k → k.state = .failed cause lh node x1 x2 → k.fut = false →
    (s.det c = false ∨ ((s.cores[c]).journal.find? fun j => j.asid == k.asid).map (·.seq) = some seq) →
    ∃ t, exec (.engineOperationFault c seq) s = .next t
      ∧ (t.cores[c]).journal = Rules.without s c seq
      ∧ (t.ctxRec (s.team c k.team).asid).flogs = (s.ctxRec (s.team c k.team).asid).flogs + 1
      ∧ (k.bi ≠ 127 → k.op ≠ .put → ((t.team c k.team).bar k.bi).err = true)
      ∧ (k.bi ≠ 127 → k.op ≠ .put → ((s.team c k.team).bar k.bi).err = false → ((t.team c k.team).bar k.bi).ecode = 0x03))

namespace Sys2Proof.Rules
open Sys2Proof Sys2Proof.Machine

/-- The task that lane l of a TSPAWN offers as number k of its team (R36, R319). -/
def taskOf (s : State) (x : FmtC) (u : Bool) (g : Group) (r : Run) (l : Fin 32) (k : Nat) : Task :=
  { num := k, team := g.team, entry := BitVec.ofInt 32 ((r.pc.toNat : Int) + 8 * x.off.toInt)
    arg := Vector.ofFn fun j => g.src u (x.d.toNat + j.val) l, born := s.cycles s.core }

end Sys2Proof.Rules

/-- TSPAWN to a sound entry: with room for every acting lane and no full bin, each acting lane's task joins the pool in lane
order with the next task numbers, and every predicate is true; with a full pool none joins and every predicate is false;
an unsound entry takes BAD_TARGET. TARG reads the lanes' argument records. -/
def Sys2Proof.Rules.TaskInstructions : Prop :=
  (∀ (x : FmtC) (s : State) (n : Slot) (f : Form) (g : Group) (r : Run) (s' : State),
    Ready (.tspawn x) s n f g r → acting f.hd g r ≠ 0 → g.stays s →
    checkTargets s.core n (s.team s.core g.team) (fun _ => (r.pc.toNat : Int) + 8 * x.off.toInt) s
      ((Rules.members (takingLanes f.hd g r)).take 1) = .ok s' →
    (let num := (Rules.members (acting f.hd g r)).length
     ((s'.cores[s.core]).ctx).pending + num ≤ 4096 →
     ((((s'.cores[s.core]).ctx).pool).filter fun k => k.team == g.team).length + num < 32 →
     ∃ t, exec (.tspawn x) s = .next t
       ∧ (Writes.pred f.hd.u x.lo.m.toNat (acting f.hd g r) fun _ => true).take g (t.grp s.core n)
       ∧ (t.team s.core g.team).tnum = (s'.team s.core g.team).tnum + num
       ∧ ((¬ (t.grp s.core n).quiet) → ((t.cores[s.core]).ctx).pool = ((s'.cores[s.core]).ctx).pool
           ++ (Rules.members (acting f.hd g r)).zipIdx.map fun y => Rules.taskOf s' x f.hd.u g r y.1 ((s'.team s.core g.team).tnum + y.2)))
    ∧ (4096 ≤ ((s'.cores[s.core]).ctx).pending →
        ∃ t, exec (.tspawn x) s = .next t
          ∧ (Writes.pred f.hd.u x.lo.m.toNat (acting f.hd g r) fun _ => false).take g (t.grp s.core n)
          ∧ (t.team s.core g.team).tnum = (s'.team s.core g.team).tnum))
  ∧ (∀ (x : FmtC) (s : State) (n : Slot) (f : Form) (g : Group) (r : Run) (e : Trap),
    Ready (.tspawn x) s n f g r → acting f.hd g r ≠ 0 →
    checkTargets s.core n (s.team s.core g.team) (fun _ => (r.pc.toNat : Int) + 8 * x.off.toInt) s
      ((Rules.members (takingLanes f.hd g r)).take 1) = .bad e →
    exec (.tspawn x) s = .next (takeTrap s s.core n r.pc r.idx r.lanes e))
  ∧ (∀ (x : FmtR) (s : State) (n : Slot) (f : Form) (g : Group) (r : Run),
    Ready (.targ x) s n f g r → acting f.hd g r ≠ 0 → g.stays s →
    ∃ t, exec (.targ x) s = .next t ∧ OnlyGroup s t n
      ∧ ((List.range 8).foldl (fun w k => w.and (Writes.v (x.d.toNat + k) (acting f.hd g r) fun l => vat g.arg[l] k)) Writes.nil).take
          g (t.grp s.core n))

/-- TCHILD (R320): CHILD_RIGHTS for another group than group 0, CHILD_DEPTH at depth 16, otherwise the read of the child's
launch record stands outstanding behind a release at PKG scope. TWAIT (R321): it flushes the team's bins; for tasks it
waits for those spawned before it, for children launched before it until they have completed, and a child's fault not yet
delivered takes ASYNC_FAULT. STAGE (R323): for launch groups; its entry is located under R64 and read; an entry without VALID is accepted
with nothing to do, an unsound barrier traps, a ninth entry is refused, and another one joins the team's stage entries. -/
def Sys2Proof.Rules.ChildAndStageInstructions : Prop :=
  (∀ (x : FmtR) (s : State) (n : Slot) (f : Form) (g : Group) (r : Run),
    Ready (.tchild x) s n f g r → acting f.hd g r ≠ 0 →
    let t := s.team s.core g.team
    let w := r.words.getD r.idx 0
    let a := g.rdS x.a.toNat
    let deep : Prop := ∃ k, s.grid? t.grid = some k ∧ k.depth = 16
    let trap (y : Trap) := exec (.tchild x) s = .next (takeTrap s s.core n r.pc r.idx r.lanes y)
    (g.gid ≠ 0 → trap { cause := 0x19, x1 := (w.extractLsb' 0 10).setWidth 32 })
    ∧ (g.gid = 0 → deep → trap { cause := 0x1A, x1 := (w.extractLsb' 0 10).setWidth 32 })
    ∧ (g.gid = 0 → ¬ deep → 64 ≤ a.toNat → trap (wordTrap 0x02 w))
    ∧ (g.gid = 0 → ¬ deep → a.toNat < 64 → ∀ y, locate s t ⟨s.core, g.team, n, 0⟩ .load a.toNat (entryOf s g (a.setWidth 6))
        [g.rdS (x.a.toNat + 1)] 0 256 none = .error y → trap y)
    ∧ (g.gid = 0 → ¬ deep → a.toNat < 64 → ∀ u, locate s t ⟨s.core, g.team, n, 0⟩ .load a.toNat (entryOf s g (a.setWidth 6))
        [g.rdS (x.a.toNat + 1)] 0 256 none = .ok u → exec (.tchild x) s = .next (Rules.afterLong s n f
          { sb := 7, rel := some 3, kind := .mem [{ lane := 0, lh := a.setWidth 6, entry := entryOf s g (a.setWidth 6), u := u, size := 256, op := .child x.d x.b }] })))
  ∧ (∀ (x : FmtR) (s : State) (n : Slot) (f : Form) (g : Group) (r : Run),
    Ready (.twait x) s n f g r → acting f.hd g r ≠ 0 → Rules.Goes s g →
    let t := s.team s.core g.team
    let s1 := if g.block = .polling then s else s.modCtx s.core fun y => y.flushTeam g.team
    let below := if g.block = .polling then g.waitTask else t.tnum
    let s2 := s1.modGrp s.core n fun g => { g with waitTask := below }
    let kids : List (BitVec 12 × BitVec 20) := if x.lo.b22 then g.waitKids.getD t.children
      else [((g.rdS x.a.toNat).extractLsb' 0 12, (g.rdS x.a.toNat).extractLsb' 12 20)]
    let s3 := s1.modGrp s.core n fun g => { g with waitKids := some kids }
    let starting : Prop := x.lo.b22 = true ∧ g.waitKids = none ∧ ∃ o ∈ g.out, ∃ accs, o.kind = .mem accs ∧ ∃ a ∈ accs, ∃ d b, a.op = .child d b
    let waits (u : State) : Prop := exec (.twait x) s = .next u ∧ (u.grp s.core n).block = .polling ∧ (u.grp s.core n).run = some r
      ∧ Writes.nil.take g (u.grp s.core n) ∧ u.mem = s.mem
    (x.lo.b23 = true → tasksOpen (s2.cores[s.core]).ctx g.team below n = true → ∃ u, waits u)
    ∧ (x.lo.b23 = true → tasksOpen (s2.cores[s.core]).ctx g.team below n = false →
        exec (.twait x) s = .next (Rules.afterLong (acqWork s2 s.core (some 1)) n f { sb := 7, kind := .done }))
    ∧ (x.lo.b23 = false → ¬ starting →
        (∀ k ∈ kids, ∀ c : Child, s.hub.childs[k.1.toFin] = c → c.held = false ∨ c.gen ≠ k.2 ∨ (c.done = true ∧ (c.fault = false ∨ c.told = true))) →
        exec (.twait x) s = .next (Rules.afterLong (acqWork (freeChildren s3 s.core g.team kids) s.core (some 3)) n f { sb := 7, kind := .done }))
    ∧ (x.lo.b23 = false → starting → ∃ u, waits u)
    ∧ (x.lo.b23 = false → ¬ starting →
        (∀ k ∈ kids, ∀ c : Child, s.hub.childs[k.1.toFin] = c → ¬ (c.held = true ∧ c.gen = k.2 ∧ c.done = true ∧ c.fault = true ∧ c.told = false)) →
        (∃ k ∈ kids, ∀ c : Child, s.hub.childs[k.1.toFin] = c → c.held = true ∧ c.gen = k.2 ∧ c.done = false) → ∃ u, waits u)
    ∧ (∀ k ∈ kids, ∀ c : Child, x.lo.b23 = false → ¬ starting → kids = [k] → s.hub.childs[k.1.toFin] = c →
        c.held = true → c.gen = k.2 → c.done = true → c.fault = true → c.told = false →
        ∃ u, (∀ m, m ≠ n → u.grp s.core m = s.grp s.core m) ∧ u.grp s.core n = { g with waitKids := some kids }
          ∧ (u.hub.childs[k.1.toFin]).told = true
          ∧ exec (.twait x) s = .next (takeTrap u s.core n r.pc r.idx r.lanes { cause := 0x1C, x1 := k.2 ++ k.1, x3 := c.flog })))
  ∧ (∀ (x : FmtM) (s : State) (n : Slot) (f : Form) (g : Group) (r : Run),
    Ready (.stage x) s n f g r → acting f.hd g r ≠ 0 →
    let t := s.team s.core g.team
    let en := g.cap.getD (entryOf s g x.lh)
    let s0 := s.modGrp s.core n fun g => { g with cap := some en }
    let place := locate s t ⟨s.core, g.team, n, 0⟩ .load x.lh.toNat en (g.coords f.hd.u x.cr.toNat (x.dm.toNat + 1) 0)
      x.off.toInt 64 (if f.hd.u then none else some 0)
    (32 ≤ g.gid.toNat → exec (.stage x) s = .next (takeTrap s s.core n r.pc r.idx r.lanes
      { cause := 0x18, x1 := ((r.words.getD r.idx 0).extractLsb' 0 10).setWidth 32 }))
    ∧ (∀ y, g.gid.toNat < 32 → place = .error y → exec (.stage x) s = .next (takeTrap s s.core n r.pc r.idx r.lanes y))
    ∧ (∀ u, g.gid.toNat < 32 → place = .ok u → g.memPending = true → Rules.Goes s g →
        ∃ t', exec (.stage x) s = .next t' ∧ (t'.grp s.core n).block = .polling ∧ (t'.grp s.core n).run = some r
          ∧ (t'.grp s.core n).cap = some en ∧ Writes.nil.take g (t'.grp s.core n) ∧ t'.mem = s.mem)
    ∧ (∀ u e s', g.gid.toNat < 32 → place = .ok u → g.memPending = false →
        stageFetch s0 n g x.lh en u = .got e s' → (∀ m, s'.team s.core m = s.team s.core m) → s'.core = s.core →
        let bi := e.extractLsb' 49 7
        let open' := (t.stages.filter fun y => !(y.landed || y.fault.isSome)).length
        let sound : Prop := bi = 127 ∨ (bi.toNat < LRec.nbars t.lrec ∧ (t.bar bi).mode = 1)
        (e.getLsbD 7 = true → bi ≠ 127 → LRec.nbars t.lrec ≤ bi.toNat →
          exec (.stage x) s = .next (takeTrap s s.core n r.pc r.idx r.lanes { cause := 0x10, x1 := bi.setWidth 32 }))
        ∧ (e.getLsbD 7 = true → bi ≠ 127 → bi.toNat < LRec.nbars t.lrec → (t.bar bi).mode ≠ 1 →
          exec (.stage x) s = .next (takeTrap s s.core n r.pc r.idx r.lanes
            { cause := 0x12, x1 := bi.setWidth 32, x2 := (t.bar bi).word.setWidth 32, x3 := ((t.bar bi).word >>> 32).setWidth 32 }))
        ∧ (e.getLsbD 7 = false ∨ (sound ∧ 8 ≤ open') → exec (.stage x) s = .next (Rules.afterLong s' n f
            { sb := 7, kind := .done, writes := [.q (x.d.setWidth 2) (!e.getLsbD 7)] }))
        ∧ (e.getLsbD 7 = true → sound → open' < 8 →
            ∃ total, let s2 := s'.modTeam s.core g.team fun t => { t with stages := t.stages ++
                [{ entry := e, handle := entryOf s g (e.extractLsb' 0 6), launch := false, total := total, no := t.stageNo }] }
              exec (.stage x) s = .next (Rules.afterLong (if bi = 127 then s2 else updateBar s2 s.core g.team bi (.issue total)) n f
                { sb := 7, kind := .done, writes := [.q (x.d.setWidth 2) true] }))))

/-- CopyCommandIssues, CopyQueryAndCancel: the parts above together. -/
def Obligations.CopyInstructions : Prop :=
  Sys2Proof.Rules.CopyCommandIssues ∧ Sys2Proof.Rules.CopyQueryAndCancel

/-- TaskInstructions, ChildAndStageInstructions: the parts above together. -/
def Obligations.TasksChildrenStages : Prop :=
  Sys2Proof.Rules.TaskInstructions ∧ Sys2Proof.Rules.ChildAndStageInstructions

/-! ## Companion cores (R333 to R341) -/

namespace Sys2Proof.Rules
open Sys2Proof Sys2Proof.Machine

/-- A companion core may run its next instruction. -/
structure KReady (s : State) (r : Role) (k : Companion) : Prop where
  agent : s.agent = .companion r
  at_   : s.comp s.core r = k
  ready : k.ready = true

/-- Core k' is k after one instruction: one register written or none, the pc, one more instruction retired. -/
def KTook (k k' : Companion) (w : Option (XReg × W32)) (pc : W32) : Prop :=
  k' = { k with x := k'.x, pc := pc, minstret := k.minstret + 1, block := .free, cap := none }
  ∧ ∀ x : XReg, k'.rd x = match w with
    | some (d, v) => if x = d ∧ x ≠ 0 then v else k.rd x
    | none => k.rd x

/-- Of state s' only companion core r changes, as KTook says of k. -/
def KStep (s' t : State) (c : CoreId) (r : Role) (k : Companion) (w : Option (XReg × W32)) (pc : W32) : Prop :=
  ∃ k', t = s'.modComp c r (fun _ => k') ∧ KTook k k' w pc

/-- The pc of the next instruction. -/
def kNext (s : State) (k : Companion) : W32 := k.pc + BitVec.ofNat 32 s.ilen

/-- Results of the register-register instructions. -/
def RegResult (o : RegOp) (a b d : W32) : Prop :=
  let n := b.toNat % 32
  match o with
  | .add => d.toNat = (a.toNat + b.toNat) % 2 ^ 32
  | .sub => (d.toNat : Int) = ((a.toNat : Int) - b.toNat) % 2 ^ 32
  | .sll => d.toNat = a.toNat * 2 ^ n % 2 ^ 32
  | .slt => d.toNat = if a.toInt < b.toInt then 1 else 0
  | .sltu => d.toNat = if a.toNat < b.toNat then 1 else 0
  | .srl => d.toNat = a.toNat / 2 ^ n
  | .sra => d.toInt = a.toInt / 2 ^ n
  | .mul => d.toNat = a.toNat * b.toNat % 2 ^ 32
  | .mulh => d.toInt = a.toInt * b.toInt / 2 ^ 32
  | .mulhsu => d.toInt = a.toInt * b.toNat / 2 ^ 32
  | .mulhu => d.toNat = a.toNat * b.toNat / 2 ^ 32
  | .div => if b.toNat = 0 then d.toInt = -1 else if a.toInt = -2147483648 ∧ b.toInt = -1 then d = a
      else d.toInt = a.toInt.tdiv b.toInt
  | .divu => if b.toNat = 0 then d.toNat = 2 ^ 32 - 1 else d.toNat = a.toNat / b.toNat
  | .rem => if b.toNat = 0 then d = a else if a.toInt = -2147483648 ∧ b.toInt = -1 then d.toNat = 0
      else d.toInt = a.toInt.tmod b.toInt
  | .remu => if b.toNat = 0 then d = a else d.toNat = a.toNat % b.toNat
  | .sh1add => d.toNat = (2 * a.toNat + b.toNat) % 2 ^ 32
  | .sh2add => d.toNat = (4 * a.toNat + b.toNat) % 2 ^ 32
  | .sh3add => d.toNat = (8 * a.toNat + b.toNat) % 2 ^ 32
  | .max => d.toInt = max a.toInt b.toInt
  | .min => d.toInt = min a.toInt b.toInt
  | .maxu => d.toNat = max a.toNat b.toNat
  | .minu => d.toNat = min a.toNat b.toNat
  | .rol => ∀ j < 32, d.getLsbD ((j + n) % 32) = a.getLsbD j
  | .ror => ∀ j < 32, d.getLsbD j = a.getLsbD ((j + n) % 32)
  | .xor => ∀ j : Nat, d.getLsbD j = (a.getLsbD j != b.getLsbD j)
  | .or => ∀ j : Nat, d.getLsbD j = (a.getLsbD j || b.getLsbD j)
  | .and => ∀ j : Nat, d.getLsbD j = (a.getLsbD j && b.getLsbD j)
  | .andn => ∀ j < 32, d.getLsbD j = (a.getLsbD j && !b.getLsbD j)
  | .orn => ∀ j < 32, d.getLsbD j = (a.getLsbD j || !b.getLsbD j)
  | .xnor => ∀ j < 32, d.getLsbD j = (a.getLsbD j == b.getLsbD j)

/-- Results of the one-operand instructions. -/
def UnaryResult (o : UnOp) (a d : W32) : Prop :=
  match o with
  | .clz => d.toNat ≤ 32 ∧ (∀ j : Nat, a.getLsbD j = true → d.toNat + j < 32) ∧ (d.toNat < 32 → a.getLsbD (31 - d.toNat) = true)
  | .ctz => d.toNat ≤ 32 ∧ (∀ j : Nat, a.getLsbD j = true → d.toNat ≤ j) ∧ (d.toNat < 32 → a.getLsbD d.toNat = true)
  | .cpop => d.toNat = ((List.range 32).filter fun j => a.getLsbD j).length
  | .sextb => d.toInt = (a.toNat : Int).bmod 256
  | .sexth => d.toInt = (a.toNat : Int).bmod 65536
  | .zexth => d.toNat = a.toNat % 65536
  | .orcb => ∀ q < 4, (d.toNat / 256 ^ q) % 256 = if (a.toNat / 256 ^ q) % 256 = 0 then 0 else 255
  | .rev8 => ∀ q < 4, (d.toNat / 256 ^ q) % 256 = (a.toNat / 256 ^ (3 - q)) % 256

/-- What an instruction of RV32I, M, Zba or Zbb that neither loads nor stores does to a core whose next instruction lies at
`next`: the register it writes and its value, the new pc. -/
def RvResult (k : Companion) (next : W32) (i : Rv) (w : Option (XReg × W32)) (pc : W32) : Prop :=
  match i with
  | .lui d imm => ∃ v, w = some (d, v) ∧ pc = next ∧ v.toNat = imm.toNat * 4096
  | .auipc d imm => ∃ v, w = some (d, v) ∧ pc = next ∧ v.toNat = (k.pc.toNat + imm.toNat * 4096) % 2 ^ 32
  | .jal d imm => w = some (d, next) ∧ (pc.toNat : Int) = (k.pc.toNat + 2 * imm.toInt) % 2 ^ 32
  | .jalr d a imm => w = some (d, next) ∧ (pc.toNat : Int) = ((k.rd a).toNat + imm.toInt) % 2 ^ 32 / 2 * 2
  | .branch o a b imm =>
    let x := k.rd a
    let y := k.rd b
    let taken := match o with
      | .beq => x = y
      | .bne => x ≠ y
      | .blt => x.toInt < y.toInt
      | .bge => y.toInt ≤ x.toInt
      | .bltu => x.toNat < y.toNat
      | .bgeu => y.toNat ≤ x.toNat
    w = none ∧ (taken → (pc.toNat : Int) = (k.pc.toNat + 2 * imm.toInt) % 2 ^ 32) ∧ (¬ taken → pc = next)
  | .opImm o d a imm =>
    let x := k.rd a
    let y : W32 := BitVec.ofInt 32 imm.toInt
    ∃ v, w = some (d, v) ∧ pc = next ∧ RegResult (match o with
      | .addi => .add
      | .slti => .slt
      | .sltiu => .sltu
      | .xori => .xor
      | .ori => .or
      | .andi => .and) x y v
  | .shift o d a sh =>
    ∃ v, w = some (d, v) ∧ pc = next ∧ RegResult (match o with
      | .slli => .sll
      | .srli => .srl
      | .srai => .sra
      | .rori => .ror) (k.rd a) (BitVec.ofNat 32 sh.toNat) v
  | .op o d a b => ∃ v, w = some (d, v) ∧ pc = next ∧ RegResult o (k.rd a) (k.rd b) v
  | .unary o d a => ∃ v, w = some (d, v) ∧ pc = next ∧ UnaryResult o (k.rd a) v
  | .load .. | .store .. | .csr .. => False

end Sys2Proof.Rules

/-- The instructions of RV32I, M, Zba and Zbb that use registers alone: the register and the pc that each gives, x0 always
zero, one instruction retired, nothing else of the package changed; in particular no divisor faults. The values are
those of the RISC-V specifications that R334 names (log entry 7). -/
def Sys2Proof.Rules.CompanionArithmetic : Prop :=
  ∀ (z : Bool) (i : Rv) (s : State) (r : Role) (k : Companion), Rules.KReady s r k →
    (match i with | .load .. | .store .. | .csr .. => False | _ => True) →
    ∃ t w pc, exec (.rv32 z i) s = .next t ∧ Rules.KStep s t s.core r k w pc ∧ Rules.RvResult k (Rules.kNext s k) i w pc

/-- Loads and stores of a companion core (R333): inside the data store and aligned they move its bytes, least significant
first, and nothing else; outside it or misaligned they fault with COMPANION_ACCESS. The fetch of an instruction at an odd
address or outside the instruction store faults so too. -/
def Sys2Proof.Rules.CompanionLoadsAndStores : Prop :=
  (∀ (z : Bool) (o : LdOp) (d a : XReg) (imm : BitVec 12) (s : State) (r : Role) (k : Companion), Rules.KReady s r k →
    let at' : W32 := k.rd a + BitVec.ofInt 32 imm.toInt
    let len := match o with | .lb | .lbu => 1 | .lh | .lhu => 2 | .lw => 4
    let byte := fun j => (Memory.get k.dmem (at'.toNat + j)).toNat
    (at'.toNat % len = 0 → 0x10000 ≤ at'.toNat → at'.toNat + len ≤ 0x18000 →
      ∃ (t : State) (v : W32), exec (.rv32 z (.load o d a imm)) s = .next t ∧ Rules.KStep s t s.core r k (some (d, v)) (Rules.kNext s k)
        ∧ (match o with
          | .lb => v.toInt = (byte 0 : Int).bmod 256
          | .lbu => v.toNat = byte 0
          | .lh => v.toInt = (byte 0 + 256 * byte 1 : Int).bmod 65536
          | .lhu => v.toNat = byte 0 + 256 * byte 1
          | .lw => v.toNat = byte 0 + 256 * byte 1 + 65536 * byte 2 + 16777216 * byte 3))
    ∧ ((at'.toNat % len ≠ 0 ∨ at'.toNat < 0x10000 ∨ 0x18000 < at'.toNat + len) →
      exec (.rv32 z (.load o d a imm)) s = .next (companionFault s s.core r { cause := 0x43, x1 := at' })))
  ∧ (∀ (z : Bool) (o : StOp) (a b : XReg) (imm : BitVec 12) (s : State) (r : Role) (k : Companion), Rules.KReady s r k →
    let at' : W32 := k.rd a + BitVec.ofInt 32 imm.toInt
    let len := match o with | .sb => 1 | .sh => 2 | .sw => 4
    (at'.toNat % len = 0 → 0x10000 ≤ at'.toNat → at'.toNat + len ≤ 0x18000 →
      ∃ (t : State) (m : Mem), exec (.rv32 z (.store o a b imm)) s = .next t
        ∧ Rules.KStep s t s.core r { k with dmem := m } none (Rules.kNext s k)
        ∧ ∀ q, (Memory.get m q).toNat = if at'.toNat ≤ q ∧ q < at'.toNat + len then (k.rd b).toNat / 256 ^ (q - at'.toNat) % 256
            else (Memory.get k.dmem q).toNat)
    ∧ ((at'.toNat % len ≠ 0 ∨ at'.toNat < 0x10000 ∨ 0x18000 < at'.toNat + len) →
      exec (.rv32 z (.store o a b imm)) s = .next (companionFault s s.core r { cause := 0x43, x1 := at' })))
  ∧ (∀ (k : Companion), (k.pc.toNat % 2 = 1 ∨ 0x10000 ≤ k.pc.toNat) → k.fetchWord = .error { cause := 0x43, x1 := k.pc })

namespace Sys2Proof.Rules
open Sys2Proof Sys2Proof.Machine

/-- R335: the value of each CSR of core r of team t. -/
def csrValue (s : State) (r : Role) (k : Companion) (n : Nat) : Option Nat :=
  let cyc := if s.det s.core then k.minstret.toNat else s.cycles s.core % 2 ^ 64
  match n with
  | 0x301 => some 0x40801104
  | 0xF14 => some (match r with | .feeder => 0 | .drain => 1)
  | 0xB00 | 0xC00 => some (cyc % 2 ^ 32)
  | 0xB80 | 0xC80 => some (match k.cycHi with | some x => x.toNat | none => cyc / 2 ^ 32)
  | 0xB02 | 0xC02 => some (k.minstret.toNat % 2 ^ 32)
  | 0xB82 | 0xC82 => some (match k.insHi with | some x => x.toNat | none => k.minstret.toNat / 2 ^ 32)
  | 0xFC0 => some (Team.linear (s.team s.core k.team) % 2 ^ 32)
  | 0xFC1 => some s.core.val
  | 0xFC2 => some s.hub.node.toNat
  | 0xFC3 => some (if s.det s.core then 1 else 0)
  | 0xFC4 => some (s.team s.core k.team).step.toNat
  | 0x7C0 => some k.ksrcnt.toNat
  | _ => none

/-- The latches after a read of CSR n: a low half latches its high half, a high half gives its latch up. -/
def csrLatches (s : State) (k : Companion) (n : Nat) : Option W32 × Option W32 :=
  let cyc := if s.det s.core then k.minstret.toNat else s.cycles s.core % 2 ^ 64
  match n with
  | 0xB00 | 0xC00 => (some (BitVec.ofNat 32 (cyc / 2 ^ 32)), k.insHi)
  | 0xB80 | 0xC80 => (none, k.insHi)
  | 0xB02 | 0xC02 => (k.cycHi, some (BitVec.ofNat 32 (k.minstret.toNat / 2 ^ 32)))
  | 0xB82 | 0xC82 => (k.cycHi, none)
  | _ => (k.cycHi, k.insHi)

end Sys2Proof.Rules

/-- CSR instructions (R335): a number that is not there, and a write to a CSR that is read-only, fault with ILLEGAL_OPCODE;
otherwise rd takes the old value, the latches move as R335 says, and KSRCNT alone takes a write. CSRRS and CSRRC with x0
or a zero immediate do not write; CSRRW with rd = x0 does not read. -/
def Sys2Proof.Rules.CompanionCsr : Prop :=
  ∀ (z imm : Bool) (o : CsrOp) (d src : XReg) (num : BitVec 12) (s : State) (r : Role) (k : Companion), Rules.KReady s r k →
    let operand : W32 := if imm then BitVec.ofNat 32 src.toNat else k.rd src
    let writes : Prop := o = .rw ∨ src ≠ 0
    (Rules.csrValue s r k num.toNat = none ∨ (writes ∧ num.toNat ≠ 0x7C0) →
      ∃ y, y.cause = 0x01 ∧ exec (.rv32 z (.csr o imm d num src)) s = .next (companionFault s s.core r y))
    ∧ (∀ v, Rules.csrValue s r k num.toNat = some v → (writes → num.toNat = 0x7C0) →
        ∃ (t : State) (n : W32) (l : Option W32 × Option W32), exec (.rv32 z (.csr o imm d num src)) s = .next t
          ∧ Rules.KStep s t s.core r { k with ksrcnt := n, cycHi := l.1, insHi := l.2 } (some (d, BitVec.ofNat 32 v)) (Rules.kNext s k)
          ∧ l = (if o = .rw ∧ d = 0 then (k.cycHi, k.insHi) else Rules.csrLatches s k num.toNat)
          ∧ (¬ writes → n = k.ksrcnt)
          ∧ (writes → match o with
              | .rw => n = operand
              | .rs => ∀ j : Nat, n.getLsbD j = (k.ksrcnt.getLsbD j || operand.getLsbD j)
              | .rc => ∀ j : Nat, n.getLsbD j = (k.ksrcnt.getLsbD j && !operand.getLsbD j)))

/-- A companion fault (R341): the core stands at the faulting instruction with no register changed and runs no more, one
record enters the context's log, and every grid of the context is over or ending. EBREAK faults with BKPT; ECALL ends the
core (R340); WFI only retires; FENCE orders the core's accesses at PKG scope, releasing before it acquires, and reports an
eviction that failed as POISON_DEFERRED (R334, R403). -/
def Sys2Proof.Rules.CompanionSystemInstructions : Prop :=
  (∀ (s : State) (c : CoreId) (r : Role) (y : Trap),
    let u := companionFault s c r y
    (u.comp c r).running = false ∧ (u.comp c r).pc = (s.comp c r).pc ∧ (u.comp c r).x = (s.comp c r).x
      ∧ (u.comp c r).dmem = (s.comp c r).dmem ∧ (u.comp c r).minstret = (s.comp c r).minstret
      ∧ (u.ctxRec (s.team c (s.comp c r).team).asid).flogs = (s.ctxRec (s.team c (s.comp c r).team).asid).flogs + 1
      ∧ (∀ gr ∈ u.hub.grids, gr.asid = (s.team c (s.comp c r).team).asid → gr.done = true ∨ gr.killed = true))
  ∧ (∀ (z : Bool) (s : State) (r : Role) (k : Companion), Rules.KReady s r k →
      exec (.ebreak z) s = .next (companionFault s s.core r { cause := 0x31 }))
  ∧ (∀ (s : State) (r : Role) (k : Companion), Rules.KReady s r k →
      exec .ecall s = .next (s.modComp s.core r fun _ => { k with running := false, block := .free, minstret := k.minstret + 1 }))
  ∧ (∀ (s : State) (r : Role) (k : Companion), Rules.KReady s r k →
      ∃ t, exec .wfi s = .next t ∧ Rules.KStep s t s.core r k none (Rules.kNext s k))
  ∧ (∀ (fm pred succ : BitVec 4) (rs1 rd : XReg) (s : State) (r : Role) (k : Companion), Rules.KReady s r k →
      let c := s.ctxRec (s.team s.core k.team).asid
      (∀ n l, c.deferL2 ++ c.deferMsc = n :: l →
        exec (.companionFence fm pred succ rs1 rd) s = .next (companionFault s s.core r { cause := 0x1E, x1 := n }))
      ∧ (c.deferL2 = [] → c.deferMsc = [] → ∃ t, exec (.companionFence fm pred succ rs1 rd) s = .next t
          ∧ let u := acquireWork (releaseWork s s.core (s.team s.core k.team).asid 3) s.core 3
            ∃ k', t = u.modComp s.core r (fun _ => k') ∧ Rules.KTook (u.comp s.core r) k' none ((u.comp s.core r).pc + BitVec.ofNat 32 s.ilen)))

namespace Sys2Proof.Rules
open Sys2Proof Sys2Proof.Machine

/-- The copy commands of a companion core: operation and registers (R336). -/
def kcopyForm : Instr → Option (CopyOp × K2)
  | .kcpt x => some (.t, x)
  | .kcpg x => some (.g, x)
  | .kcps x => some (.s, x)
  | .kcpf x => some (.f, x)
  | .kcpr x => some (.r, x)
  | .kcpput x => some (.put, x)
  | .kcpget x => some (.get, x)
  | _ => none

/-- Word j of the command block at a. -/
def kword (k : Companion) (a : W32) (j : Nat) : Nat :=
  (List.range 4).foldl (fun v q => v + (Memory.get k.dmem (a.toNat + 4 * j + q)).toNat * 256 ^ q) 0

end Sys2Proof.Rules

/-- Copy commands of a companion core (R337, R338): COMPANION_ACCESS for a block that is not aligned or not wholly in the
data store, ILLEGAL_FIELD for a reserved bit of the control word; a full journal stalls the core; otherwise the command
stands last in the core's journal with the fields that the control word and the block give, in the core's role and with no
counter, rd takes its sequence number, and KSRCNT rises by one when RM = 4. KCPQ reads STATE or DONE of the team's own
command, zero when there is none. -/
def Sys2Proof.Rules.CompanionCopyCommands : Prop :=
  (∀ (i : Instr) (op : CopyOp) (x : K2) (s : State) (r : Role) (k : Companion), Rules.kcopyForm i = some (op, x) → Rules.KReady s r k →
    let a := k.rd x.rs1
    let ctl : W32 := BitVec.ofNat 32 (Rules.kword k a 18)
    let inStore : Prop := a.toNat % 4 = 0 ∧ 0x10000 ≤ a.toNat ∧ a.toNat + 76 ≤ 0x18000
    (¬ inStore → exec i s = .next (companionFault s s.core r { cause := 0x43, x1 := a }))
    ∧ (inStore → ctl.extractLsb' 12 2 ≠ 0 → ∃ y, y.cause = 0x02 ∧ exec i s = .next (companionFault s s.core r y))
    ∧ (∀ t, inStore → exec i s = .next t →
        (t = s ∨ ∃ y, t = companionFault s s.core r y)
        ∨ (∃ c : Cmd, (t.cores[s.core]).journal = (s.cores[s.core]).journal ++ [c]
            ∧ (s.cores[s.core]).journal.length < 256 ∧ c.asid = (s.team s.core k.team).asid ∧ c.held = false
            ∧ c.seq = (s.cores[s.core]).jseq ∧ (t.cores[s.core]).jseq = (s.cores[s.core]).jseq + 1
            ∧ c.op = op ∧ c.team = k.team ∧ c.role = some r ∧ c.draw = k.ksrcnt
            ∧ c.spec = ctl.extractLsb' 26 3 ∧ c.rm = ctl.extractLsb' 29 3 ∧ c.fut = ctl.getLsbD 25 ∧ c.rge = ctl.getLsbD 24
            ∧ c.ring = ctl.extractLsb' 21 3 ∧ c.bi = ctl.extractLsb' 14 7 ∧ c.ls = ctl.extractLsb' 0 6 ∧ c.ldh = ctl.extractLsb' 6 6
            ∧ (∀ j < 15, (vat c.blk j).toNat = Rules.kword k a j)
            ∧ (t.comp s.core r).rd x.rd = (if x.rd = 0 then 0 else c.seq) ∧ (t.comp s.core r).pc = Rules.kNext s k
            ∧ (t.comp s.core r).ksrcnt = (if c.rm = 4 then k.ksrcnt + 1 else k.ksrcnt)
            ∧ (t.comp s.core r).dmem = k.dmem ∧ t.mem = s.mem)))
  ∧ (∀ (x : K2) (s : State) (r : Role) (k : Companion), Rules.KReady s r k →
      ∃ (t u : State) (a b : W32),
        exec (.kcpqState x) s = .next t ∧ Rules.KStep s t s.core r k (some (x.rd, a)) (Rules.kNext s k)
        ∧ exec (.kcpqDone x) s = .next u ∧ Rules.KStep s u s.core r k (some (x.rd, b)) (Rules.kNext s k)
        ∧ ((∀ c, Rules.inJournal s s.core (k.rd x.rs1) c → c.team ≠ k.team) → a = 0 ∧ b = 0)
        ∧ (∀ c, Rules.inJournal s s.core (k.rd x.rs1) c → c.team = k.team →
            a = (match c.state with | .queued => 1 | .discarded => 3 | _ => 2) ∧ b.toNat = min c.sent 0xFFFFFFFF))

/-- A companion copy command that no check refuses, in a core whose journal has room, is accepted (R338). -/
def Sys2Proof.Rules.CompanionCopyAccepted : Prop :=
  ∀ (i : Instr) (op : CopyOp) (x : K2) (s : State) (r : Role) (k : Companion), Rules.kcopyForm i = some (op, x) → Rules.KReady s r k →
    let a := k.rd x.rs1
    let b := k.cmdBlock a
    let f := blockFields b[18]
    let form : FmtRE → Instr := match op with
      | .t => .cpt | .g => .cpg | .s => .cps | .f => .cpf | .r => .cpr | .put => .cpput | .get => .cpget
    let tail := op ∉ [CopyOp.t, .f, .r] ∨ f.fut = true ∨ (op = .t ∧ (f.spec.getLsbD 1 = true ∨ f.spec.getLsbD 2 = true))
    let blk : Vector W32 18 := Vector.ofFn fun j => if j.val < 15 ∨ tail then vat b j.val else 0
    let c := { mkCmd s s.core k.team op blk f.spec f.rm f.fut f.rge f.ring f.bi f.ls f.ldh k.ksrcnt with role := some r }
    a.toNat % 4 = 0 → 0x10000 ≤ a.toNat → a.toNat + 76 ≤ 0x18000 → (b[18]).extractLsb' 12 2 = 0 →
    (∃ o, (form f).form = some o ∧ o.ok = true) → copyCheck s s.core c (k.wordFault 0x02) = none →
    (256 ≤ (s.cores[s.core]).journal.length → exec i s = .next s)
    ∧ ((s.cores[s.core]).journal.length < 256 → ∃ t, exec i s = .next t
        ∧ (t.cores[s.core]).journal = (s.cores[s.core]).journal ++ [c] ∧ (t.cores[s.core]).jseq = (s.cores[s.core]).jseq + 1
        ∧ (t.comp s.core r).rd x.rd = (if x.rd = 0 then 0 else c.seq) ∧ (t.comp s.core r).pc = Rules.kNext s k)

namespace Sys2Proof.Rules
open Sys2Proof Sys2Proof.Machine

/-- An eviction error of the core's context waits to be reported at a release (R403). -/
def lateErrors (s : State) (k : Companion) : List W32 :=
  (s.ctxRec (s.team s.core k.team).asid).deferL2 ++ (s.ctxRec (s.team s.core k.team).asid).deferMsc

end Sys2Proof.Rules

/-- KBARA, KBARW and the ring instructions of a companion core (R339): the checks in their order, the arrival, the wait that
parks the core or is over, the ring pointer that moves. Their releases and acquires are at TEAM scope, which empties no
cache (R95). -/
def Sys2Proof.Rules.CompanionSynchronisation : Prop :=
  (∀ (x : KArr) (s : State) (r : Role) (k : Companion), Rules.KReady s r k →
    let t := s.team s.core k.team
    let n : BitVec 7 := BitVec.ofNat 7 (k.rd x.rs1).toNat
    let b := t.bar n
    let bytes := (k.rd x.rs2).toNat % 16777216
    (LRec.nbars t.lrec ≤ n.toNat → exec (.kbara x) s = .next (companionFault s s.core r { cause := 0x10, x1 := BitVec.ofNat 32 n.toNat }))
    ∧ (n.toNat < LRec.nbars t.lrec → bytes ≠ 0 → b.mode ≠ 1 →
        exec (.kbara x) s = .next (companionFault s s.core r
          { cause := 0x12, x1 := BitVec.ofNat 32 n.toNat, x2 := b.word.setWidth 32, x3 := (b.word >>> 32).setWidth 32 }))
    ∧ (∀ y l, n.toNat < LRec.nbars t.lrec → (bytes = 0 ∨ b.mode = 1) → Rules.lateErrors s k = y :: l →
        exec (.kbara x) s = .next (companionFault s s.core r { cause := 0x1E, x1 := y }))
    ∧ (n.toNat < LRec.nbars t.lrec → (bytes = 0 ∨ b.mode = 1) → Rules.lateErrors s k = [] →
        let u := updateBar s s.core k.team n (.arrive 1 (BitVec.ofNat 24 bytes))
        ∃ v k', exec (.kbara x) s = .next v ∧ v = u.modComp s.core r (fun _ => k')
          ∧ Rules.KTook (u.comp s.core r) k' none (Rules.kNext s k)
          ∧ (b.err = false → b.mode.toNat ≤ 1 → b.waiters = [] → b.arr.toNat + 1 < b.exp.toNat → b.pend.toNat + bytes < 16777216 →
              (v.team s.core k.team).bar n = { b with arr := b.arr + 1, pend := b.pend + BitVec.ofNat 24 bytes })))
  ∧ (∀ (x : KWait) (s : State) (r : Role) (k : Companion), Rules.KReady s r k → x.form.toNat < 3 →
    let t := s.team s.core k.team
    let n : BitVec 7 := BitVec.ofNat 7 (k.rd x.rs1).toNat
    let v : BitVec 12 := BitVec.ofNat 12 (k.rd x.rs2).toNat
    let need : BarNeed := if x.form = 0 then .phase x.par else if x.form = 1 then .thr v x.par else .count v
    let b := t.bar n
    let fresh : Prop := n.toNat < LRec.nbars t.lrec ∧ (k.block = .free ∨ k.block = .polling)
    (LRec.nbars t.lrec ≤ n.toNat → exec (.kbarw x) s = .next (companionFault s s.core r { cause := 0x10, x1 := BitVec.ofNat 32 n.toNat }))
    ∧ (fresh → ¬ Rules.needSuits b need → exec (.kbarw x) s = .next (companionFault s s.core r
          { cause := 0x12, x1 := BitVec.ofNat 32 n.toNat, x2 := b.word.setWidth 32, x3 := (b.word >>> 32).setWidth 32 }))
    ∧ (fresh → Rules.needSuits b need → b.err = true → exec (.kbarw x) s = .next (companionFault s s.core r
          { cause := 0x1C, x1 := BitVec.ofNat 32 n.toNat, x2 := b.ecode.setWidth 32, x3 := b.flog }))
    ∧ (fresh → Rules.needSuits b need → b.err = false → Rules.needMet b need →
        let u := s.modBar s.core k.team n fun _ => Rules.needTaken b need
        ∃ k', exec (.kbarw x) s = .next (u.modComp s.core r fun _ => k') ∧ Rules.KTook k k' none (Rules.kNext s k))
    ∧ (fresh → Rules.needSuits b need → b.err = false → ¬ Rules.needMet b need →
        ∃ w, exec (.kbarw x) s = .next w ∧ w.comp s.core r = { k with block := .parked }
          ∧ (w.team s.core k.team).bar n = { b with waiters := b.waiters ++ [(.comp r, need)] })
    ∧ (∀ j, n.toNat < LRec.nbars t.lrec → k.block = .released j →
        ∃ w, exec (.kbarw x) s = .next w ∧ Rules.KStep s w s.core r k none (Rules.kNext s k))
    ∧ (∀ x1 x2 x3, n.toNat < LRec.nbars t.lrec → k.block = .failed x1 x2 x3 →
        exec (.kbarw x) s = .next (companionFault s s.core r { cause := 0x1C, x1 := x1, x2 := x2, x3 := x3 })))
  ∧ (∀ (put : Bool) (x : KRing) (s : State) (r : Role) (k : Companion), Rules.KReady s r k →
    let i : Instr := if put then .krgput x else .krgget x
    let t := s.team s.core k.team
    let q : BitVec 3 := BitVec.ofNat 3 (k.rd x.rs1).toNat
    let ring := t.ring q
    let n := (k.rd x.rs2).toNat
    let held := if put then ring.free else ring.full
    let role : Prop := if put then ring.pra = true else ring.cna = true
    let exists' : Prop := q.toNat < LRec.nrings t.lrec ∧ ring.val = true
    (64 < n → ∃ y, y.cause = 0x02 ∧ exec i s = .next (companionFault s s.core r y))
    ∧ (n ≤ 64 → ¬ exists' → exec i s = .next (companionFault s s.core r (ringTrap 0x14 q n)))
    ∧ (n ≤ 64 → exists' → role → exec i s = .next (companionFault s s.core r (ringTrap 0x15 q n)))
    ∧ (n ≤ 64 → exists' → ¬ role → x.wait = false → held < n → exec i s = .next (companionFault s s.core r (ringTrap 0x17 q n)))
    ∧ (n ≤ 64 → exists' → ¬ role → x.wait = true → held < n → exec i s = .next s)
    ∧ (n ≤ 64 → exists' → ¬ role → n ≤ held → x.wait = true →
        ∃ v, exec i s = .next v ∧ Rules.KStep s v s.core r k none (Rules.kNext s k))
    ∧ (n ≤ 64 → exists' → ¬ role → n ≤ held → x.wait = false →
        ∃ v, exec i s = .next v ∧ (v.comp s.core r).pc = Rules.kNext s k ∧ (v.comp s.core r).x = k.x
          ∧ (v.comp s.core r).minstret = k.minstret + 1 ∧ v.mem = s.mem
          ∧ (v.team s.core k.team).ring q = if put then { ring with pp := ring.pp + BitVec.ofNat 16 n }
              else { ring with cp := ring.cp + BitVec.ofNat 16 n }))

/-- KLT (R339): through the entry that its handle names, or the one it has captured while it waited (R70): LAYOUT_RIGHTS in
PRIVATE space, the checks of R64 with size 4 and offset 0 and one coordinate, or two when rs2 is a register. On SHARED,
WBUF, XBUF and YBUF the load writes rd with the word there, least significant byte first, and the store places its four
bytes, in order of their locations; nothing else changes. Elsewhere the word goes through the translation and the
caches: a load then writes rd or faults with POISON. -/
def Sys2Proof.Rules.CompanionKlt : Prop :=
  ∀ (x : KLt) (s : State) (r : Role) (k : Companion), Rules.KReady s r k →
    let t := s.team s.core k.team
    let e := k.cap.getD t.ls[x.h.toFin]
    let cs := if x.rs2 = 0 then [k.rd x.rs1] else [k.rd x.rs1, k.rd x.rs2]
    let priv : Prop := usable e = true ∧ keyOk s t.asid e = true ∧ entSpace e = spPrivate
    let place (a : AccKind) := locate s t ⟨s.core, k.team, 0, 0⟩ a x.h.toNat e cs 0 4 none
    let mem := scratchTgt s.core k.team (entSpace e)
    let ready (a : AccKind) (need : Need) (ps : List PLoc) (s' : State) := ∃ u, place a = .ok u
      ∧ resolveAll s s.core t.asid e need true (placesOf ⟨s.core, k.team, 0, 0⟩ (LRec.pb t.lrec) e u 4) = (.ok ps, s')
    (priv → exec (.kltLw x) s = .next (companionFault s s.core r { cause := 0x09, x1 := BitVec.ofNat 32 x.h.toNat })
      ∧ exec (.kltSw x) s = .next (companionFault s s.core r { cause := 0x09, x1 := BitVec.ofNat 32 x.h.toNat }))
    ∧ (∀ y, ¬ priv → place .load = .error y → exec (.kltLw x) s = .next (companionFault s s.core r y))
    ∧ (∀ y, ¬ priv → place .store = .error y → exec (.kltSw x) s = .next (companionFault s s.core r y))
    ∧ (∀ u, place .load = .ok u → isScratch (entSpace e) = true →
        ∃ w v, exec (.kltLw x) s = .next w ∧ Rules.KStep s w s.core r k (some (x.rd, v)) (Rules.kNext s k)
          ∧ v.toNat = natLE ((List.range 4).map fun q => placeByte s ⟨mem, Rules.scratchPlace e u q⟩))
    ∧ (∀ u, place .store = .ok u → isScratch (entSpace e) = true →
        ∃ w, exec (.kltSw x) s = .next w ∧ Rules.KTook k (w.comp s.core r) none (Rules.kNext s k)
          ∧ w.mem = s.mem ∧ w.dies = s.dies ∧ w.hub = s.hub
          ∧ ∀ a, placeByte w ⟨mem, a⟩ = Rules.lastOf ((List.range 4).map fun q =>
              (Rules.scratchPlace e u q, BitVec.ofNat 8 ((k.rd x.rd).toNat / 256 ^ q))) a (placeByte s ⟨mem, a⟩))
    ∧ (∀ ps s' bs s'', ¬ priv → ready .load .read ps s' →
        readBytes (fun s t' b => loadSector s s.core 0 t' b (keyRef s e) t.asid (t.order + 1)) s' none ps = ((bs, false), s'') →
        ∃ w k' v, exec (.kltLw x) s = .next w ∧ w = s''.modComp s.core r (fun _ => k')
          ∧ Rules.KTook (s''.comp s.core r) k' (some (x.rd, v)) ((s''.comp s.core r).pc + BitVec.ofNat 32 s.ilen)
          ∧ v.toNat = (List.range 4).foldl (fun n q => n + (bs.getD q 0).toNat * 256 ^ q) 0)
    ∧ (∀ ps s' bs s'', ¬ priv → ready .load .read ps s' →
        readBytes (fun s t' b => loadSector s s.core 0 t' b (keyRef s e) t.asid (t.order + 1)) s' none ps = ((bs, true), s'') →
        exec (.kltLw x) s = .next (companionFault s s.core r { cause := 0x1D }))
    ∧ (∀ ps s', ¬ priv → ready .store .write ps s' →
        let bytes := (List.range 4).map fun q => BitVec.ofNat 8 ((k.rd x.rd).toNat / 256 ^ q)
        let u := writeBytes (fun s y => coreStore s s.core { y with
          owner := t.asid, tag := tagOf t e, key := keyRef s e, team := t.order + 1 }) s' ps bytes
        ∃ w k', exec (.kltSw x) s = .next w ∧ w = u.modComp s.core r (fun _ => k')
          ∧ Rules.KTook (u.comp s.core r) k' none ((u.comp s.core r).pc + BitVec.ofNat 32 s.ilen))

/-- CompanionArithmetic, CompanionLoadsAndStores: the parts above together. -/
def Obligations.CompanionStandard : Prop :=
  Sys2Proof.Rules.CompanionArithmetic ∧ Sys2Proof.Rules.CompanionLoadsAndStores

/-- CompanionCsr, CompanionSystemInstructions: the parts above together. -/
def Obligations.CompanionControl : Prop :=
  Sys2Proof.Rules.CompanionCsr ∧ Sys2Proof.Rules.CompanionSystemInstructions

/-- CompanionCopyCommands, CompanionCopyAccepted: the parts above together. -/
def Obligations.CompanionCopies : Prop :=
  Sys2Proof.Rules.CompanionCopyCommands ∧ Sys2Proof.Rules.CompanionCopyAccepted

/-- CompanionSynchronisation, CompanionKlt: the parts above together. -/
def Obligations.CompanionSyncAndLayout : Prop :=
  Sys2Proof.Rules.CompanionSynchronisation ∧ Sys2Proof.Rules.CompanionKlt

/-! ## Issue, retirement, hangs, tasks and waits (R37 to R40, R46, R47, R56, R119, R122, R123, R153, R154, R228) -/

namespace Sys2Proof.Rules
open Sys2Proof Sys2Proof.Machine

/-- R40: lane l is a candidate. -/
def candidate (g : Group) (l : Fin 32) : Prop :=
  g.frozen.getLsbD l.val = false ∧
    if ∃ k : Fin 32, g.frozen.getLsbD k.val = false ∧ g.lane[k] = .ready then g.lane[l] = .ready else g.lane[l] = .yielded
/-- R154: every threshold of header h is met. -/
def waitsMet (g : Group) (h : W64) : Prop :=
  ∀ k < 6, let t := h.toNat / 2 ^ (4 * k + 4) % 16; t = 15 ∨ (g.out.filter fun o => o.sb.toNat = k).length ≤ t
/-- R157: a sound header. -/
def soundHeader (h : W64) : Prop := h.toNat / 2 ^ 56 = 0xC5 ∧ h.toNat / 2 ^ 32 % 2 ^ 24 = 0

/-- A group that may issue: resident at a clause boundary, its context running and not stopping. -/
structure MayIssue (s : State) (c : CoreId) (n : Slot) (g : Group) : Prop where
  group    : s.grp c n = g
  resident : g.resident = true
  between  : g.run = none
  resume   : g.resume = none
  free     : g.block = .free
  noFetch  : g.fetch = none
  noHang   : g.hangAct = 0
  slot     : (s.cores[c]).run.isSome = true
  going    : (s.cores[c]).stopping = .no
  here     : (s.team c g.team).tbHere = true
  grid     : gridKilled s (s.team c g.team) = false
  alone    : ∀ j ∈ ((s.cores[c]).ctx.order)[g.sched], (s.grp c j).run = none ∨ (s.grp c j).block.waits = true

/-- The registers after held results are written, the last one of a register standing (R153); x is a result's own write. -/
def resultOf (w : RegWrite) : Writes :=
  match w with
  | .v r l x bad => fun ρ => if ρ = .markV r.toFin l then some (bitVal bad) else Writes.v r.toNat (BitVec.ofNat 32 (2 ^ l.val)) (fun _ => x) ρ
  | .s r x bad => fun ρ => if ρ = .markS r.toFin then some (bitVal bad) else Writes.s r.toNat x ρ
  | .p r l b => Writes.p r.toNat (BitVec.ofNat 32 (2 ^ l.val)) fun _ => b
  | .q r b => Writes.q r.toNat b
  | .a r l x bad => fun ρ => if ρ = .markA r.toFin l then some (bitVal bad) else Writes.a r.toNat (BitVec.ofNat 32 (2 ^ l.val)) (fun _ => x) ρ

end Sys2Proof.Rules

/-- The issue set of R40: it is empty exactly when no lane is a candidate; otherwise it holds exactly the candidates whose
pc is least and, among those, whose MEET is least. -/
def Obligations.IssueSetFollowsRule : Prop :=
  ∀ g : Group, (g.issueSet.1 = 0 ↔ ∀ l, ¬ Rules.candidate g l)
    ∧ ∀ l : Fin 32, g.issueSet.1.getLsbD l.val = true ↔
        Rules.candidate g l ∧ g.pc[l] = g.issueSet.2
        ∧ ∀ k : Fin 32, Rules.candidate g k → (g.pc[l]).toNat ≤ (g.pc[k]).toNat
            ∧ (g.pc[k] = g.pc[l] → (g.meet[l]).toNat ≤ (g.meet[k]).toNat)

/-- CLAUSE_ISSUE (R154, R157): a group whose turn it is, whose header is sound and whose waits are met, opens the clause at the
issue set's pc for exactly the issue set; yielded lanes become ready and no register changes. Its turn it is, outside
deterministic mode, when it is active and R47 prefers it; in deterministic mode, with the cluster at the pinned clock
(R20), when the rotation stands at it, which then moves on (R52). A header that is not sound takes BAD_HEADER.
INSTRUCTION_RETIRE (R153), of a group with nothing left to perform: the completed instructions at the head of a counter
leave it together (without a counter, the first completed one), their held results and flags are written, and the hang
counter clears. -/
def Obligations.ClauseAndRetirementEvents : Prop :=
  (∀ (c : CoreId) (n : Slot) (s s1 s2 : State) (g : Group) (h : W64) (ws : List W64),
    Rules.MayIssue s c n g → n ∈ ((s.cores[c]).ctx.order)[g.sched] →
    (s.det c = false → g.active = true ∧ ∀ j ∈ ((s.cores[c]).ctx.order)[g.sched], (s.grp c j).active = true → groupReady s c j = true →
      lexLt (chooseKey s c j) (chooseKey s c n) = false) →
    (s.det c = true → g.active = true ∧ (s.hub.clusters[clusterOf c]).fcur = 44
      ∧ (((s.cores[c]).ctx.order)[g.sched])[((s.cores[c]).ctx.rot)[g.sched]]? = some n) →
    g.issueSet.1 ≠ 0 → codeWord s c (s.team c g.team) (g.issueSet.2).toNat = (.ok h, s1) →
    (∀ m k, s1.grp k m = s.grp k m) → (∀ m k, s1.team k m = s.team k m) →
    (¬ Rules.soundHeader h → exec (.clauseIssue c n) s = .next (takeTrap s1 c n g.issueSet.2 0 g.issueSet.1
      { cause := 0x04, x1 := h.setWidth 32, x2 := (h >>> 32).setWidth 32 }))
    ∧ (Rules.soundHeader h → Rules.waitsMet g h →
        codeWords c (s.team c g.team) s1 ((g.issueSet.2).toNat + 8) (h.toNat % 16 + 1) = (.ok ws, s2) →
        (∀ m k, s2.grp k m = s.grp k m) →
        ∃ t, exec (.clauseIssue c n) s = .next t
          ∧ (t.grp c n).run = some { pc := g.issueSet.2, hdr := h, words := ws, idx := 0, lanes := g.issueSet.1 }
          ∧ Writes.nil.take g (t.grp c n) ∧ (t.grp c n).out = g.out ∧ (t.grp c n).pc = g.pc ∧ (t.grp c n).meet = g.meet
          ∧ (∀ l : Fin 32, (t.grp c n).lane[l] = if g.lane[l] = .yielded ∧ g.frozen.getLsbD l.val = false then .ready else g.lane[l])
          ∧ (s.det c = true → (s2.cores[c]).ctx = (s.cores[c]).ctx →
              ((t.cores[c]).ctx.rot)[g.sched] = (((s.cores[c]).ctx.rot)[g.sched] + 1) % (((s.cores[c]).ctx.order)[g.sched]).length)
          ∧ t.mem = s2.mem ∧ t.dies = s2.dies))
  ∧ (∀ (c : CoreId) (n : Slot) (ctr : BitVec 3) (s : State) (g : Group), s.grp c n = g → g.resident = true →
    (∀ o ∈ g.out, o.pending = false) → g.stays s →
    let mine := g.out.filter fun o => o.sb = ctr
    let done := if ctr = 7 then (mine.filter fun o => o.kind = .done).take 1 else mine.takeWhile fun o => o.kind = .done
    done ≠ [] → (∀ o ∈ done, ∀ w ∈ o.writes, ∀ r l x b, w = .v r l x b → g.spilled.getLsbD r.toNat = false) →
    ∃ t, exec (.instructionRetire c n ctr) s = .next t
      ∧ ((t.grp c n).out.filter fun o => o.sb = ctr) = (if ctr = 7 then mine.eraseP (fun o => o.kind = .done) else mine.drop done.length)
      ∧ ((t.grp c n).out.filter fun o => o.sb ≠ ctr) = (g.out.filter fun o => o.sb ≠ ctr)
      ∧ (t.grp c n).hang = 0 ∧ (t.grp c n).run = g.run ∧ (t.grp c n).pc = g.pc
      ∧ (t.grp c n).fpstat = done.foldl (fun x o => x ||| o.flags.setWidth 32) g.fpstat
      ∧ (∀ ρ, ρ ≠ .fpstat → (t.grp c n).reg ρ = ((done.flatMap Out.writes).foldl (fun w x =>
            if g.shows x then w.and (Rules.resultOf x) else w) Writes.nil ρ).getD (g.reg ρ))
      ∧ t.mem = s.mem ∧ t.dies = s.dies ∧ ∀ m, m ≠ n → t.grp c m = s.grp c m)

/-- SLEEP_EXPIRY (R228): a group whose count has run out sleeps no more. HANG_REPORT (R56): a counter that has reached 2^HEXP
enters one record in the context's log, clears, and takes the action of HACT: none, a trap that waits for the clause
boundary, or the fault of the context, which waits for the boundary too and comes at once at one. GROUP_HANG_DELIVERY: at
the boundary the trap is taken at the header the group would issue next for its issue set, or by its lowest lane that has
not exited when it has none; by a group that waits, at its wait, which it leaves (log entry 32). XINFO1 and XINFO2 name
its held and yielded lanes. -/
def Sys2Proof.Rules.SleepAndHangEvents : Prop :=
  (∀ (c : CoreId) (n : Slot) (s : State), (s.grp c n).resident = true → (s.grp c n).block = .sleeping 0 →
    exec (.sleepExpiry c n) s = .next (s.modGrp c n fun g => { g with block := .free, readyAt := s.cycles c }))
  ∧ (∀ (c : CoreId) (n : Slot) (s : State) (g : Group), s.grp c n = g → g.resident = true → (s.cores[c]).run.isSome = true →
    let cfg := (s.cores[c]).schedcfg.toNat
    let e := cfg / 2 ^ 24 % 32
    let hact := cfg / 2 ^ 30
    let a := (s.team c g.team).asid
    let boundary : Prop := g.run = none ∨ g.block = .parked ∨ g.block = .polling
    e ≠ 0 → 2 ^ max e 16 ≤ g.hang →
    ∃ t, exec (.hangReport c n) s = .next t ∧ (t.ctxRec a).flogs = (s.ctxRec a).flogs + 1
      ∧ (hact ≠ 2 → g.hangAct ≠ 2 → (t.grp c n).hang = 0 ∧ (t.grp c n).hangAct = (if hact = 1 then 1 else g.hangAct)
          ∧ t.hub.grids = s.hub.grids ∧ Writes.nil.take g (t.grp c n))
      ∧ (hact = 2 → ¬ boundary → (t.grp c n).hang = 0 ∧ (t.grp c n).hangAct = 2 ∧ t.hub.grids = s.hub.grids
          ∧ Writes.nil.take g (t.grp c n))
      ∧ (hact = 2 → boundary → ∀ gr ∈ t.hub.grids, gr.asid = a → gr.done = true ∨ gr.killed = true))
  ∧ (∀ (c : CoreId) (n : Slot) (s : State) (g : Group), s.grp c n = g → g.resident = true → g.hangAct = 1 →
    (∀ b ∈ ((s.team c g.team).bars).toList, Waiter.grp n ∉ b.waves) →
    let u := (s.modTeam c g.team fun t => { t with bars := t.bars.map fun b => { b with
      waiters := b.waiters.filter fun w => w.1 != .grp n } }).modGrp c n fun g => { g with hangAct := 0 }
    let y : Trap := { cause := 0x29, x1 := maskOf fun l => g.lane[l] == .held, x2 := maskOf fun l => g.lane[l] == .yielded }
    (g.run = none → g.resume = none → (∃ l, Rules.candidate g l) →
      exec (.groupHangDelivery c n) s = .next (takeTrap u c n g.issueSet.2 0 g.issueSet.1 y))
    ∧ (∀ pc idx lanes, g.run = none → g.resume = some (pc, idx, lanes) →
        exec (.groupHangDelivery c n) s = .next (takeTrap u c n pc idx lanes y))
    ∧ (∀ r, g.run = some r → (g.block = .parked ∨ g.block = .polling) →
        exec (.groupHangDelivery c n) s = .next (takeTrap u c n r.pc r.idx r.lanes y))
    ∧ (∀ l : Fin 32, g.run = none → g.resume = none → (∀ k, ¬ Rules.candidate g k) → g.lane[l] ≠ .exited →
        (∀ k : Fin 32, k < l → g.lane[k] = .exited) →
        exec (.groupHangDelivery c n) s = .next (takeTrap u c n g.pc[l] 0 (BitVec.ofNat 32 (2 ^ l.val)) y)))

/-- TASK_BIN_TIMEOUT (R37): outside deterministic mode a bin whose oldest task has waited 2^TFEXP cycles becomes a task
group with exactly its tasks. TASK_GROUP_RESIDENT (R38): a formed group (in deterministic mode the first) takes a free slot
when one is free, with a GROUPID of its team and room in the register file and on a scheduler: one ready lane a task at
the entry clause with its argument record, the other lanes exited, a GROUPID from 32 up unused in its team, and leaves the
list of formed groups. CLASS_RISE (R49): a queued team of another context that has waited 2^SLEXP cycles rises (log entry
95). -/
def Obligations.TaskAndClassEvents : Prop :=
  (∀ (c : CoreId) (tm : Slot) (entry : W32) (s : State) (o : Task) (l : List Task),
    ((s.cores[c]).ctx.pool.filter fun k => k.team = tm ∧ k.entry = entry) = o :: l → s.det c = false → (s.cores[c]).run.isSome = true →
    let e := (s.cores[c]).schedcfg.toNat / 2 ^ 20 % 16
    e ≠ 0 → o.born + 2 ^ e ≤ s.cycles c →
    ∃ t, exec (.taskBinTimeout c tm entry) s = .next t
      ∧ (t.cores[c]).ctx.bins = (s.cores[c]).ctx.bins ++
          [{ team := tm, entry := entry, tasks := o :: l, no := (s.cores[c]).ctx.forms + 1 }]
      ∧ (t.cores[c]).ctx.pool = (s.cores[c]).ctx.pool.filter fun k => ¬ (k.team = tm ∧ k.entry = entry)
      ∧ (∀ m, t.grp c m = s.grp c m) ∧ t.mem = s.mem)
  ∧ (∀ (c : CoreId) (n : Nat) (s : State) (b : FBin), (s.cores[c]).ctx.bins[n]? = some b →
    (s.cores[c]).run.isSome = true → (s.cores[c]).stopping = .no → gridKilled s (s.team c b.team) = false →
    ((s.cores[c]).ctx.det = true → n = 0) →
    (∃ i : Slot, (s.grp c i).resident = false) →
    (∃ id, 32 ≤ id ∧ id < 64 ∧ ∀ m, (s.grp c m).resident = true → (s.grp c m).team = b.team → (s.grp c m).gid.toNat ≠ id) →
    vecUsed (s.cores[c]).ctx + (8 * LRec.na (s.team c b.team).lrec + 8) ≤ 8192 →
    (∀ k : Fin 4, ((s.cores[c]).ctx.order)[k].length < 16) →
    ∃ t j id, exec (.taskGroupResident c n) s = .next t
      ∧ (s.grp c j).resident = false ∧ 32 ≤ id ∧ id < 64 ∧ (∀ m, (s.grp c m).resident = true → (s.grp c m).team = b.team → (s.grp c m).gid.toNat ≠ id)
      ∧ (t.grp c j).resident = true ∧ (t.grp c j).team = b.team ∧ (t.grp c j).gid.toNat = id
      ∧ ((s.cores[c]).ctx.det = true → (t.grp c j).sched.val = id % 4)
      ∧ j ∈ ((t.cores[c]).ctx.order)[(t.grp c j).sched]
      ∧ (∀ l : Fin 32, (t.grp c j).lane[l] = if l.val < b.tasks.length then .ready else .exited)
      ∧ (∀ l : Fin 32, (t.grp c j).pc[l] = b.entry)
      ∧ (∀ (l : Fin 32) (x : Task), b.tasks[l.val]? = some x → (t.grp c j).arg[l] = x.arg)
      ∧ (t.cores[c]).ctx.bins.length + 1 = (s.cores[c]).ctx.bins.length ∧ (∀ m, m ≠ j → t.grp c m = s.grp c m) ∧ t.mem = s.mem)
  ∧ (∀ (c : CoreId) (n : Nat) (s : State) (q : QTeam), (s.cores[c]).queued[n]? = some q → q.risen = false → (s.cores[c]).run ≠ some q.asid →
    let e := (s.cores[c]).schedcfg.toNat / 2 ^ 15 % 32
    e ≠ 0 → q.offered + 2 ^ max e 10 ≤ s.cycles c →
    ∃ t, exec (.classRise c n) s = .next t ∧ (t.cores[c]).queued[n]? = some { q with risen := true }
      ∧ (∀ m, m ≠ n → (t.cores[c]).queued[m]? = (s.cores[c]).queued[m]?) ∧ t.hub = s.hub ∧ t.mem = s.mem)

namespace Sys2Proof.Rules
open Sys2Proof Sys2Proof.Machine

/-- The entries of group n in the wait tables of a core (R122). -/
def waitsOn (s : State) (c : CoreId) (n : Slot) : List WaitEnt := (s.cores[c]).ctx.waits.filter fun w => w.idx = n
/-- The cells of an FWAIT are done (R120, R274): one was found failed or poisoned, or all were found. -/
def foundAll (l : List WaitEnt) : Prop :=
  (∃ w ∈ l, ∃ v bad, w.seen = some (v, bad) ∧ (bad = true ∨ (v.getLsbD 32 = true ∧ v.getLsbD 33 = true)))
  ∨ ∀ w ∈ l, w.seen ≠ none

end Sys2Proof.Rules

/-- BARRIER_WAVE_RELEASE (R119, R428): at a slot boundary after that of the wave before, the next groups that the barrier's
waves hold, as many as a wave has, are released in their order and charged to the cluster; at any other time none is.
WATCHED_WRITE_WAKE (R122, R123): a parked WAITA leaves its table and is released with the lowest location that a write
reached; a parked FWAIT is released when its cells are done. WAIT_RECHECK: a waiter without table room reads its location
again: a WAITA is released when it no longer holds what it expects, and looks itself when it is poisoned (R255); an FWAIT
is released when its cell is full. -/
def Sys2Proof.Rules.WaitEvents : Prop :=
  (∀ (c : CoreId) (tm : Slot) (nb : BitVec 7) (s : State), nb.toNat < 96 →
    let b := (s.team c tm).bar nb
    (s.cycles c % 64 ≠ 0 ∨ s.cycles c / 64 ≤ b.waveAt ∨ b.waves = [] → exec (.barrierWaveRelease c tm nb) s = .next s)
    ∧ (s.cycles c % 64 = 0 → b.waveAt < s.cycles c / 64 → b.waves ≠ [] →
        ∃ t, exec (.barrierWaveRelease c tm nb) s = .next t
          ∧ (t.team c tm).bar nb = { b with waves := b.waves.drop b.waveN, waveAt := s.cycles c / 64 }
          ∧ (∀ m : Slot, Waiter.grp m ∈ b.waves.take b.waveN → (t.grp c m) = { s.grp c m with block := .released 0 })
          ∧ (∀ m : Slot, Waiter.grp m ∉ b.waves.take b.waveN → t.grp c m = s.grp c m)
          ∧ (t.hub.clusters[clusterOf c]).waveA = (s.hub.clusters[clusterOf c]).waveA
              + b.waveI * ((b.waves.take b.waveN).filter fun w => match w with | .grp _ => true | _ => false).length
          ∧ t.mem = s.mem))
  ∧ (∀ (c : CoreId) (n : Slot) (s : State),
    let l := Rules.waitsOn s c n
    (s.grp c n).block = .parked →
    ((∃ w ∈ l, w.fired = true) → (∃ w ∈ l, w.expect ≠ none) →
      ∃ (t : State) (k : BitVec 2), exec (.watchedWriteWake c n) s = .next t
        ∧ (∃ w ∈ l, w.fired = true ∧ w.index = k) ∧ (∀ w ∈ l, w.fired = true → k.toNat ≤ w.index.toNat)
        ∧ t.grp c n = { s.grp c n with block := .released k }
        ∧ (t.cores[c]).ctx.waits = (s.cores[c]).ctx.waits.filter (fun w => w.idx ≠ n) ∧ t.mem = s.mem ∧ ∀ m, m ≠ n → t.grp c m = s.grp c m)
    ∧ (l ≠ [] → (∀ w ∈ l, w.expect = none) → Rules.foundAll l →
        exec (.watchedWriteWake c n) s = .next (s.modGrp c n fun g => { g with block := .released 0 }))
    ∧ ((∀ w ∈ l, w.expect = none) → ¬ Rules.foundAll l → exec (.watchedWriteWake c n) s = .next s))
  ∧ (∀ (c : CoreId) (n : Slot) (s u : State) (w : WaitEnt) (v : W64) (bad : Bool),
    Rules.waitsOn s c n = [w] → (s.grp c n).block = .parked → w.recheck = true →
    placeRead s c (s.team c (s.grp c n).team).asid w.key w.sco w.ps = ((v, bad), u) →
    let leave (b : Block) : State :=
      (u.modCtx c fun x => { x with waits := x.waits.filter fun w => w.idx != n }).modGrp c n fun g => { g with block := b }
    (∀ x, w.expect = some x → bad = true → exec (.waitRecheck c n) s = .next (leave .polling))
    ∧ (∀ x, w.expect = some x → bad = false → v.setWidth 32 ≠ x → exec (.waitRecheck c n) s = .next (leave (.released w.index)))
    ∧ (w.expect = some (v.setWidth 32) → bad = false → exec (.waitRecheck c n) s = .next u)
    ∧ (w.expect = none → (bad = true ∨ v.getLsbD 32 = true) → ∃ t, exec (.waitRecheck c n) s = .next t
        ∧ t.grp c n = { u.grp c n with block := .released 0 }
        ∧ Rules.waitsOn t c n = [{ w with seen := some (v, bad), recheck := false }]))

/-- SleepAndHangEvents, WaitEvents: the parts above together. -/
def Obligations.SleepHangAndWaitEvents : Prop :=
  Sys2Proof.Rules.SleepAndHangEvents ∧ Sys2Proof.Rules.WaitEvents

/-! ## Staging, admission and retirement of teams (R29 to R32, R133 to R140, R340) -/

/-- STAGING_START (R135, R139): the next team of a grid that may take the core joins its queue with its launch entries when
the die's budget and the core's space have room, and the grid's next team is one higher; before it a team that the core
holds and that a pre-emption has sent away is offered again with all its entries. ADMISSION_DEADLINE (R136): a team that
has waited as long as its record says is marked late. -/
def Sys2Proof.Rules.StagingStartEvents : Prop :=
  (∀ (c : CoreId) (id : Nat) (s : State) (g : Grid), s.grid? id = some g → g.killed = false → g.done = false →
    (∀ q ∈ (s.cores[c]).queued, q.grid = id → q.away = false) →
    g.next < LRec.teams g.lrec → coreFits g g.next c = true → boundTo (s.cores[c]) g.asid = true →
    let q : QTeam := { grid := id, t := g.next, asid := g.asid, offered := s.cycles c, no := (s.dies[dieOf c]).stageNo }
    let st := launchStages s c (q.stub s)
    let bytes := (st.filter fun x => !x.ended).foldl (fun n x => n + x.total) 0
    stagingBytes s (dieOf c) + bytes ≤ (s.dies[dieOf c]).stgbud.toNat * 65536 →
    (∀ sp ∈ [spShared, spWbuf, spXbuf, spYbuf], (∃ x ∈ st, x.holds = true) →
      held (s.cores[c]).ctx sp + reserved s (s.cores[c]) g.asid sp (s.cores[c]).queued.length + allocation { lrec := g.lrec } sp ≤ spaceBytes sp) →
    g.id = id →
    ∃ t g', exec (.stagingStart c id) s = .next t
      ∧ (t.cores[c]).queued = (s.cores[c]).queued ++ [{ q with stages := st }]
      ∧ t.grid? id = some g' ∧ g'.next = g.next + 1 ∧ g'.number.isSome = true ∧ (∀ k, g.number = some k → g'.number = some k)
      ∧ (g.number = none → g'.number = some s.hub.gridNo) ∧ t.mem = s.mem)
  ∧ (∀ (c : CoreId) (id : Nat) (s : State) (g : Grid) (q : QTeam) (rest : List QTeam), s.grid? id = some g → g.killed = false →
      g.done = false → (s.cores[c]).queued = q :: rest → q.grid = id → q.away = true →
      let st := launchStages s c (q.stub s)
      let bytes := (st.filter fun x => !x.ended).foldl (fun n x => n + x.total) 0
      stagingBytes s (dieOf c) + bytes ≤ (s.dies[dieOf c]).stgbud.toNat * 65536 →
      (∀ sp ∈ [spShared, spWbuf, spXbuf, spYbuf], (∃ x ∈ st, x.holds = true) →
        held (s.cores[c]).ctx sp + reserved s (s.cores[c]) g.asid sp 0 + allocation { lrec := g.lrec } sp ≤ spaceBytes sp) →
      ∃ t, exec (.stagingStart c id) s = .next t
        ∧ (t.cores[c]).queued = { q with away := false, stages := st, no := (s.dies[dieOf c]).stageNo } :: rest
        ∧ t.hub = s.hub ∧ t.mem = s.mem)
  ∧ (∀ (c : CoreId) (id : Nat) (s : State) (g : Grid), s.grid? id = some g →
      (g.killed = true ∨ g.done = true ∨ ((∀ q ∈ (s.cores[c]).queued, q.grid = id → q.away = false)
        ∧ (LRec.teams g.lrec ≤ g.next ∨ coreFits g g.next c = false))) →
      exec (.stagingStart c id) s = .next s)
  ∧ (∀ (c : CoreId) (n : Nat) (s : State) (q : QTeam), (s.cores[c]).queued[n]? = some q →
      (s.cycles c < q.offered + 1024 * LRec.deadline (q.lrec s) → exec (.admissionDeadline c n) s = .next s)
      ∧ (q.offered + 1024 * LRec.deadline (q.lrec s) ≤ s.cycles c → ∃ t, exec (.admissionDeadline c n) s = .next t
          ∧ (t.cores[c]).queued[n]? = some { q with late := true } ∧ (∀ m, m ≠ n → (t.cores[c]).queued[m]? = (s.cores[c]).queued[m]?)
          ∧ t.hub = s.hub ∧ t.mem = s.mem))

namespace Sys2Proof.Rules
open Sys2Proof Sys2Proof.Machine

/-- The n-th entry of core c that still stages is entry j of resident team k, whose engines run; an engine serves it, and the
die's engines have no other entry to take (R135). -/
structure Serving (s : State) (c : CoreId) (n : Nat) (k : Slot) (j : Nat) (e : Stage) : Prop where
  place : (stagesOf (s.cores[c]))[n]? = some (.team k, j)
  entry : (s.team c k).stages[j]? = some e
  busy  : e.busy = true
  run   : (s.cores[c]).run.isSome = true
  going : (s.cores[c]).stopping ≠ .drained
  here  : (s.team c k).tbHere = true
  taken : ∀ x ∈ dieStages s (dieOf c), x.2.2.busy = true
/-- The memory of TGT (R133). -/
def stageMem (c : CoreId) (k : Slot) (tgt : Nat) : MTgt := if tgt = 1 then .shared c k else if tgt = 2 then .wbuf c k else .xbuf c k
/-- Entry j of team k has landed between s and t, and its barrier counts its bytes. -/
def Landed (s t : State) (c : CoreId) (k : Slot) (j : Nat) (e : Stage) : Prop :=
  ∃ u, t = (if stgBi e.entry = 127 then u else updateBar u c k (stgBi e.entry) (.deliver e.total))
    ∧ (u.team c k).stages[j]? = some { e with landed := true, busy := false } ∧ (u.team c k).bars = (s.team c k).bars
    ∧ (∀ m, u.grp c m = s.grp c m) ∧ u.mem = s.mem ∧ u.dies = s.dies

end Sys2Proof.Rules

/-- STAGE_ENTRY_LAND and STAGE_ENTRY_FAULT of a resident team's entry that an engine serves (R133 to R135, R140): a valid box
that can be read is laid densely from TOFF in its target and nowhere else, or in the staging ways for TGT = 0, the entry
has landed and its barrier counts its bytes; an entry that is invalid or cannot be read enters one record, is marked with
its index, and its barrier fails with 0x04. -/
def Sys2Proof.Rules.StageEntryEvents : Prop :=
  (∀ (c : CoreId) (n : Nat) (s s1 : State) (k : Slot) (j : Nat) (e : Stage) (bs : List Byte), Rules.Serving s c n k j e →
    let t := s.team c k
    let tgt := e.entry.toNat / 2 ^ 8 % 8
    let toff := e.entry.toNat / 2 ^ 16 % 2 ^ 24
    stageCause s c t e.entry e.handle (!e.launch) = none → tgt ≠ 0 → tgt < 4 →
    stageRead s (stageCtx s c t) t e.entry e.handle = (.ok bs, s1) → (∀ m, s1.team c m = s.team c m) →
    ∃ u, exec (.stageEntryLand c n) s = .next u ∧ Rules.Landed s1 u c k j e
      ∧ ∀ a, placeByte u ⟨Rules.stageMem c k tgt, a⟩
          = if toff ≤ a ∧ a < toff + bs.length then bs.getD (a - toff) 0 else placeByte s1 ⟨Rules.stageMem c k tgt, a⟩)
  ∧ (∀ (c : CoreId) (n : Nat) (s s1 : State) (k : Slot) (j : Nat) (e : Stage), Rules.Serving s c n k j e →
    stageCause s c (s.team c k) e.entry e.handle (!e.launch) = none → e.entry.toNat / 2 ^ 8 % 8 = 0 →
    ((s.dies[dieOf c]).sways = 0 → ∃ u, exec (.stageEntryLand c n) s = .next u ∧ Rules.Landed s u c k j e)
    ∧ ((s.dies[dieOf c]).sways ≠ 0 → stageLines s c (s.team c k) e.entry e.handle = (none, s1) → (∀ m, s1.team c m = s.team c m) →
        ∃ u, exec (.stageEntryLand c n) s = .next u ∧ Rules.Landed s1 u c k j e))
  ∧ (∀ (c : CoreId) (n : Nat) (s : State) (k : Slot) (j : Nat) (e : Stage) (cause : BitVec 8), Rules.Serving s c n k j e →
    let t := s.team c k
    let bi := stgBi e.entry
    let failed (s1 u : State) : Prop := (u.ctxRec t.asid).flogs = (s1.ctxRec t.asid).flogs + 1
      ∧ (u.team c k).stages[j]? = some { e with fault := some (BitVec.ofNat 32 (s1.ctxRec t.asid).flogs), busy := false }
      ∧ (bi.toNat < LRec.nbars t.lrec → bi ≠ 127 → bi.toNat < 96 → (t.bar bi).err = false →
          ((u.team c k).bar bi).err = true ∧ ((u.team c k).bar bi).ecode = 0x04)
    (stageCause s c t e.entry e.handle (!e.launch) = some cause →
      exec (.stageEntryLand c n) s = .next s ∧ ∃ u, exec (.stageEntryFault c n) s = .next u ∧ failed s u)
    ∧ (∀ y s1, stageCause s c t e.entry e.handle (!e.launch) = none → e.entry.toNat / 2 ^ 8 % 8 ≠ 0 →
        stageRead s (stageCtx s c t) t e.entry e.handle = (.error y, s1) → (∀ m, s1.team c m = s.team c m) →
        ∃ u, exec (.stageEntryFault c n) s = .next u ∧ failed s1 u))

/-- TEAM_ADMIT (R29, R31, R135, R136, R340): with every resource there, the team that waits, for this core or for any of its die, leaves its queue and becomes resident
whole: its record under the lowest of its slots, one group a launch group with its GROUPID, every lane ready at the entry
clause with its registers zero, each barrier that no entry names expecting one arrival a launch group; no other group
changes. -/
def Sys2Proof.Rules.TeamAdmission : Prop :=
  ∀ (c d : CoreId) (n m : Nat) (s : State) (q : QTeam) (g : Grid) (f : Slot) (rest : List Slot) (sc : List (Fin 4)) (ps : Nat × Nat × Nat),
    (waitingFor s c)[n]? = some (d, m, q) → s.grid? q.grid = some g → s.hub.puts = [] → mayAdmit s c q g = true →
    let k := s.cores[c]
    let r := g.lrec
    let stub := q.stub s
    let ng := LRec.ngroups r
    let own := if d = c then m else k.queued.length
    let shared := held k.ctx spShared + allocation stub spShared
    let cap := if carveOpen s c then spaceBytes spShared else k.carve
    vecUsed k.ctx + ng * vecSlots r ≤ 8192 → heldBars k.ctx + LRec.nbars r ≤ 96 → shared + reserved s k q.asid spShared own ≤ cap →
    (∀ sp ∈ [spWbuf, spXbuf, spYbuf], held k.ctx sp + allocation stub sp + reserved s k q.asid sp own ≤ spaceBytes sp) →
    (LRec.feederImg r ≠ 0 ∨ LRec.drainImg r ≠ 0 → ∀ m : Slot, (k.ctx.teams[m]).live = true → (k.ctx.teams[m]).companions = false) →
    pickSlots k.ctx ng = some (f :: rest) → pickScheds k.ctx (LRec.det r || k.ctx.det) (schedLoad k.ctx) (List.range ng) = some sc →
    placeParts k.ctx stub = some ps → blockedParts k { stub with tbw := ps.1, tbx := ps.2.1, tby := ps.2.2 } = false →
    ∃ t, exec (.teamAdmit c n) s = .next t
      ∧ (t.cores[d]).queued.length + 1 = (s.cores[d]).queued.length
      ∧ (t.team c f).live = true ∧ (t.team c f).grid = q.grid ∧ (t.team c f).asid = q.asid ∧ (t.team c f).lrec = r
      ∧ (t.team c f).x = stub.x ∧ (t.team c f).y = stub.y ∧ (t.team c f).z = stub.z ∧ (t.team c f).order = k.ctx.admits
      ∧ (∀ b, b ≠ f → t.team c b = s.team c b)
      ∧ (f :: rest).length = ng ∧ (f :: rest).Nodup
      ∧ (∀ (j : Nat) (i : Slot), (f :: rest)[j]? = some i → (s.grp c i).resident = false ∧ (t.grp c i).resident = true ∧ (t.grp c i).team = f
          ∧ (t.grp c i).gid.toNat = j ∧ (∀ l : Fin 32, (t.grp c i).lane[l] = .ready ∧ (t.grp c i).pc[l] = LRec.entry r)
          ∧ (∀ (v : Fin 256) (l : Fin 32), (t.grp c i).reg (.v v l) = 0) ∧ (∀ v, (t.grp c i).reg (.s v) = 0) ∧ (t.grp c i).run = none)
      ∧ (∀ i : Slot, i ∉ f :: rest → t.grp c i = s.grp c i)
      ∧ (∀ b : BitVec 7, b.toNat < LRec.nbars r → b.toNat < 96 → (∀ e ∈ q.stages, stgBi e.entry ≠ b) →
          ((t.team c f).bar b).exp.toNat = ng % 4096 ∧ ((t.team c f).bar b).arr = 0 ∧ ((t.team c f).bar b).pend = 0
          ∧ ((t.team c f).bar b).phase = false ∧ ((t.team c f).bar b).mode = 0)

/-- TEAM_RETIRE (R32, R34): a team of which nothing is left leaves its slot empty and its grid counts it; a grid all of whose
teams have retired completes, and the command that launched it is not running any more. A team with a resident group, a task, a copy or an
array operation stays. -/
def Sys2Proof.Rules.TeamRetirement : Prop :=
  (∀ (c : CoreId) (tm : Slot) (s : State) (g : Grid), mayRetire s c tm = true → s.grid? (s.team c tm).grid = some g →
    ∃ t g', exec (.teamRetire c tm) s = .next t ∧ (t.team c tm).live = false
      ∧ t.grid? (s.team c tm).grid = some g' ∧ g'.retired = g.retired + 1 ∧ g'.next = g.next ∧ g'.killed = g.killed
      ∧ (g'.done = true ↔ g.done = true ∨ (g.next ≤ g.retired + 1 ∧ (g.killed = true ∨ LRec.teams g.lrec ≤ g.next)))
      ∧ (∀ w x, g.done = false → g'.done = true → g.killed = false → g.parent = none → g.cmd = some w → t.cmd? w = some x → 3 ≤ x.state.toNat))
  ∧ (∀ (c : CoreId) (tm : Slot) (s : State),
      ((∃ m, (s.grp c m).resident = true ∧ (s.grp c m).team = tm) ∨ (∃ k ∈ (s.cores[c]).ctx.pool, k.team = tm)
        ∨ (∃ k ∈ (s.cores[c]).journal, k.team = tm ∧ k.asid = (s.team c tm).asid) ∨ (∃ a ∈ (s.cores[c]).ctx.arrq, a.team = tm)) →
      exec (.teamRetire c tm) s = .next s)

/-- StagingStartEvents, StageEntryEvents: the parts above together. -/
def Obligations.StagingEvents : Prop :=
  Sys2Proof.Rules.StagingStartEvents ∧ Sys2Proof.Rules.StageEntryEvents

/-- TeamAdmission, TeamRetirement: the parts above together. -/
def Obligations.TeamEvents : Prop :=
  Sys2Proof.Rules.TeamAdmission ∧ Sys2Proof.Rules.TeamRetirement

/-! ## Commands and context switches (R48 to R53, R132, R371 to R383, R400 to R402) -/

/-- COMMAND_START, CANCEL, HEAD_ADVANCE, TAIL_WATCH and ACCEPTANCE_ROUND (R373, R374, R378, R380): a command whose
dependences have completed starts with a grid of its own; one with a faulted or cancelled dependence is cancelled with
CANCEL_DEP; CANCEL ends a command that is not final with CANCEL_HOST and stops its grid, and says so in CSTAT; HEAD passes a
slot that has been taken and no other; a tail too far ahead disables its queue with QERR 1; a round with nothing pending,
with no journal space or before READY changes nothing. A command, a dependence's end and a slot count only once the record
of it has persisted. -/
def Sys2Proof.Rules.CommandEvents : Prop :=
  (∀ (q : W64) (s : State) (c : Command), s.cmd? q = some c → c.seq = q → c.state = 1 → c.kept = true → LRec.ver c.lrec = 1 →
    let dep := fun d => ((s.cmd? d).map fun y => if 3 ≤ y.state.toNat ∧ y.kept = false then 2 else y.state).getD 3
    ((∃ d ∈ c.deps, dep d = 4 ∨ dep d = 5) → exec (.commandStart q) s = .next (endCommand s q 5 0x13 0 0xFFFFFFFF))
    ∧ ((∀ d ∈ c.deps, dep d = 3) → (s.ctxRec c.asid).hold = false →
        ∃ t c' g, exec (.commandStart q) s = .next t ∧ t.cmd? q = some c' ∧ c'.state = 2 ∧ c'.status = c.status ∧ c'.grid = some s.hub.gridId
          ∧ g ∈ t.hub.grids ∧ t.hub.grids.length = s.hub.grids.length + 1 ∧ g.id = s.hub.gridId ∧ g.cmd = some q ∧ g.asid = c.asid ∧ g.lrec = c.lrec ∧ g.next = 0
          ∧ g.number = some s.hub.gridNo ∧ g.killed = false ∧ g.done = false)
    ∧ ((∀ d ∈ c.deps, dep d ≠ 4 ∧ dep d ≠ 5) → ((∃ d ∈ c.deps, dep d ≠ 3) ∨ (s.ctxRec c.asid).hold = true) → exec (.commandStart q) s = .next s))
  ∧ (∀ (v : W64) (s : State), s.hub.boot.minimal = true → exec (.cancel v) s = .next s)
  ∧ (∀ (v : W64) (s : State), s.hub.boot.minimal = false →
    (v.toNat < s.hub.jlow.toNat ∨ s.hub.jseq.toNat ≤ v.toNat → exec (.cancel v) s = .next (s.modHub fun h => { h with cstat := 3 }))
    ∧ (s.hub.jlow.toNat ≤ v.toNat → v.toNat < s.hub.jseq.toNat → s.cmd? v = none →
        exec (.cancel v) s = .next (s.modHub fun h => { h with cstat := 2 }))
    ∧ (∀ c, s.hub.jlow.toNat ≤ v.toNat → v.toNat < s.hub.jseq.toNat → s.cmd? v = some c → 3 ≤ c.state.toNat →
        exec (.cancel v) s = .next (s.modHub fun h => { h with cstat := 2 }))
    ∧ (∀ c, s.hub.jlow.toNat ≤ v.toNat → v.toNat < s.hub.jseq.toNat → s.cmd? v = some c → c.seq = v → c.state.toNat < 3 →
        ∃ t c', exec (.cancel v) s = .next t ∧ t.hub.cstat = 1 ∧ t.cmd? v = some c' ∧ c'.state = 5 ∧ c'.status = 0x12
          ∧ ∀ id, c.grid = some id → ∀ g ∈ t.hub.grids, g.id = id → g.killed = true))
  ∧ (∀ (q : Fin 256) (s : State),
    ((s.hub.queues[q]).taken = 0 → exec (.headAdvance q) s = .next s)
    ∧ ((s.hub.queues[q]).taken ≠ 0 → (∀ c ∈ s.hub.cmds, c.queue = q → c.slot = (s.hub.queues[q]).head → c.kept = true) → ∃ t, exec (.headAdvance q) s = .next t
        ∧ (t.hub.queues[q]).head = (s.hub.queues[q]).head + 1 ∧ (t.hub.queues[q]).taken + 1 = (s.hub.queues[q]).taken
        ∧ ∀ k : Fin 256, k ≠ q → t.hub.queues[k] = s.hub.queues[k])
    ∧ ((s.hub.queues[q]).en = false → exec (.tailWatch q) s = .next s)
    ∧ (∀ bs u, (s.hub.queues[q]).en = true →
        hubRead s (s.hub.queues[q]).loc (s.hub.queues[q]).tailAt 8 = (some bs, u) → u.hub = s.hub →
        let tail := wordLE (bs.take 4)
        ∃ t, exec (.tailWatch q) s = .next t ∧ (∀ k : Fin 256, k ≠ q → t.hub.queues[k] = s.hub.queues[k])
          ∧ (2 ^ (s.hub.queues[q]).lsize.toNat < (tail - (s.hub.queues[q]).head).toNat →
              (t.hub.queues[q]).en = false ∧ (t.hub.queues[q]).dis = true ∧ (t.hub.queues[q]).qerr = 1)
          ∧ ((tail - (s.hub.queues[q]).head).toNat ≤ 2 ^ (s.hub.queues[q]).lsize.toNat →
              t.hub.queues[q] = { s.hub.queues[q] with tail := tail })))
  ∧ (∀ s : State,
    (s.hub.boot.ready = false ∨ s.hub.boot.minimal = true ∨ (s.hub.jseq - s.hub.jlow).toNat = 2 ^ s.hub.boot.lj.toNat
      ∨ (∀ q : Fin 256, (s.hub.queues[q]).en = false ∨ (s.hub.queues[q]).pending = 0) → exec .acceptanceRound s = .next s))

/-- ACCEPTANCE_ROUND over one queue with a record pending (R374, R376, R378): the record that the queue's next slot holds
becomes a command with the next sequence number, in the state accepted with status 0 or faulted with a status from 1 to 8;
its record stands in the journal at the index that the sequence number gives, on the media, before HEAD has moved; the
slot is taken, and the next round begins with the queue after it. -/
def Sys2Proof.Rules.AcceptanceJournalsFirst : Prop :=
  ∀ (s : State) (q : Fin 256) (bs : List Byte) (u : State),
    let x := s.hub.queues[q]
    let pa := densePa (s.hub.boot.jbase.toNat + 48 * (s.hub.jseq.toNat % 2 ^ s.hub.boot.lj.toNat))
    s.hub.boot.ready = true → s.hub.boot.minimal = false → (s.hub.jseq - s.hub.jlow).toNat ≠ 2 ^ s.hub.boot.lj.toNat →
    x.en = true → x.pending ≠ 0 → (∀ k : Fin 256, k ≠ q → (s.hub.queues[k]).en = false ∨ (s.hub.queues[k]).pending = 0) →
    hubRead s x.loc (256 * (x.qbase.toNat / 256) + 256 * ((x.head + BitVec.ofNat 32 x.taken).toNat % 2 ^ x.lsize.toNat)) 256 = (some bs, u) →
    u.hub = s.hub → u.pfail = false → (s.hub.pstacks[stackOf pa]).state ≠ 3 →
    ∃ t c, exec .acceptanceRound s = .next t ∧ t.hub.cmds = s.hub.cmds ++ [c] ∧ c.seq = s.hub.jseq ∧ c.queue = q ∧ c.asid = x.asid
      ∧ c.lrec = recordOf bs ∧ c.slot = x.head + BitVec.ofNat 32 x.taken ∧ c.kept = true
      ∧ (c.state = 1 ∧ c.status = 0 ∨ c.state = 4 ∧ 1 ≤ c.status.toNat ∧ c.status.toNat ≤ 8)
      ∧ t.hub.jseq = s.hub.jseq + 1 ∧ (t.hub.queues[q]).taken = x.taken + 1 ∧ (t.hub.queues[q]).head = x.head
      ∧ t.hub.rrFrom = (q.val + 1) % 256
      ∧ ∀ j < 48, Memory.get t.mem.media (pa + j) = (withCrc (journalRecord c)).getD j 0

/-- Pre-emption and switches (R48, R50, R132, R400): a contender two classes above every resident team stops the core's
groups; when they have stopped the drain window opens; 2,048 cycles later, with no fired array operation left, unfinished
copies are discarded, to be replayed; then the contender takes the core, and the context that leaves is kept whole. A core
without a resident team passes to the best contender. -/
def Sys2Proof.Rules.ContextSwitchEvents : Prop :=
  (∀ (c : CoreId) (s : State), (s.cores[c]).run.isSome = true → (s.cores[c]).stopping = .no → (contenders s c).any (preempts s c) = true →
    (s.cores[c]).stopAt = none → let u := s.modCore c fun k => { k with stopping := .groups }
    exec (.preemptStop c) s = .next (if coreStopped u c then u.modCore c fun k => { k with stopAt := some (s.cycles c) } else u))
  ∧ (∀ (c : CoreId) (s : State) (n : Nat), (s.cores[c]).stopping = .groups → (s.cores[c]).stopAt = some n →
    (s.cycles c < n + 2048 ∨ (∃ a ∈ (s.cores[c]).ctx.arrq, a.fired = true) → exec (.drainWindowClose c) s = .next s)
    ∧ (n + 2048 ≤ s.cycles c → (∀ a ∈ (s.cores[c]).ctx.arrq, a.fired = false) → coreStopped s c = true →
        ((s.cores[c]).journal.map (·.seq)).Nodup →
        ∃ t, exec (.drainWindowClose c) s = .next t ∧ (t.cores[c]).stopping = .drained
          ∧ ∀ (j : Nat) (k : Cmd), (s.cores[c]).journal[j]? = some k → ∃ k', (t.cores[c]).journal[j]? = some k'
              ∧ ((s.cores[c]).run = some k.asid → (∀ a b d e f, k.state ≠ .failed a b d e f) →
                  k' = (if k.reduces then { k with state := .discarded, taken := false, idxs := [], stop := none }
                    else { k with state := .discarded, taken := false, idxs := [], stop := none, landed := [], sent := 0 }))
              ∧ ((s.cores[c]).run ≠ some k.asid → k' = k)
              ∧ ((∃ a b d e f, k.state = .failed a b d e f) → k' = k)))
  ∧ (∀ (c : CoreId) (s : State), (s.cores[c]).stopping = .drained → (s.cores[c]).stream = none →
    (∀ a, (s.cores[c]).run = some a → (s.ctxRec a).debug = false) →
    ((∀ x ∈ contenders s c, preempts s c x = false) → exec (.contextSwitch c) s = .next (s.modCore c fun k => { k with stopping := .no, stopAt := none }))
    ∧ (∀ x r, bestContender ((contenders s c).filter (preempts s c)) = some x → (s.cores[c]).run = some r → r ≠ x.asid →
        (∀ y ∈ (s.cores[c]).saved, y.1 ≠ x.asid) → s.hub.puts = [] →
        ∃ t, exec (.contextSwitch c) s = .next t ∧ (t.cores[c]).run = some x.asid ∧ (t.cores[c]).stopping = .no
          ∧ (t.cores[c]).stream = some r ∧ (t.cores[c]).ctx = {}
          ∧ ∃ y, (r, y) ∈ (t.cores[c]).saved ∧ y.order = (s.cores[c]).ctx.order ∧ y.pool = (s.cores[c]).ctx.pool ∧ (t.cores[c]).journal = (s.cores[c]).journal
            ∧ ∀ n : Slot, (y.groups[n]).pc = (s.grp c n).pc ∧ (y.groups[n]).meet = (s.grp c n).meet ∧ (y.groups[n]).lane = (s.grp c n).lane
              ∧ (y.groups[n]).out = (s.grp c n).out ∧ Writes.nil.take (s.grp c n) y.groups[n]))
  ∧ (∀ (c : CoreId) (s : State) (x : Contender), (s.cores[c]).stopping = .no → (s.cores[c]).stream = none → (s.cores[c]).run = none →
    bestContender (contenders s c) = some x → (∀ y ∈ (s.cores[c]).saved, y.1 ≠ x.asid) → s.hub.puts = [] →
    ∃ t, exec (.contextHandover c) s = .next t ∧ (t.cores[c]).run = some x.asid ∧ (t.cores[c]).ctx = {} ∧ (t.cores[c]).stream = none
      ∧ t.mem = s.mem)

/-- Save areas and typed buffers (R53, R356, R401, R402): a context that waits for the core is loaded only when its records
read as they were saved, and faults otherwise; the context in STREAM, its live registers spilled, is written to its save
areas with its device-private bytes, and leaves STREAM; a resident team whose partitions are away, with nothing in their
way, has its bytes again. -/
def Sys2Proof.Rules.SaveAreaEvents : Prop :=
  (∀ (c : CoreId) (a : Asid) (s : State), (s.cores[c]).run ≠ some a → (s.cores[c]).stream ≠ some a →
    (∃ y ∈ contenders s c, y.asid = a) →
    ((s.cores[c]).saved.find? (fun y => y.1 == a) = none →
      exec (.contextRestore c a) s = .next (s.modCore c fun k => { k with shadow := some a }))
    ∧ ∀ x : CtxCore, (s.cores[c]).saved.find? (fun y => y.1 == a) = some (a, x) →
        let whole : Prop := (∀ r ∈ saveRecords c x, recordHolds a s r = true) ∧ coreHolds s c a x.priv = true
        (whole → exec (.contextRestore c a) s = .next (s.modCore c fun k => { k with shadow := some a }))
        ∧ (¬ whole → ∃ t, exec (.contextRestore c a) s = .next t ∧ (t.cores[c]).shadow = (s.cores[c]).shadow
            ∧ (t.ctxRec a).flogs = (s.ctxRec a).flogs + 1 ∧ ∀ g ∈ t.hub.grids, g.asid = a → g.done = true ∨ g.killed = true))
  ∧ (∀ (c : CoreId) (s : State),
    ((s.cores[c]).stream = none → exec (.streamComplete c) s = .next s)
    ∧ (∀ a, (s.cores[c]).stream = some a → (∀ y ∈ (s.cores[c]).saved, y.1 ≠ a) →
        exec (.streamComplete c) s = .next (s.modCore c fun k => { k with stream := none }))
    ∧ (∀ a x, (s.cores[c]).stream = some a → ((s.cores[c]).saved.map (·.1)).Nodup → (a, x) ∈ (s.cores[c]).saved →
        (∀ n : Slot, (x.groups[n]).resident = true → (x.groups[n]).spills = [] ∧ (x.groups[n]).mapped &&& ~~~(x.groups[n]).spilled = 0) →
        let y : CtxCore := { x with priv := s.fresh }
        let u := saveCore ((saveRecords c y).foldl (saveRecord a) { s with fresh := s.fresh + privateCount }) c a s.fresh
        exec (.streamComplete c) s = .next (u.modCore c fun k => { k with
          saved := k.saved.map (fun z => if z.1 == a then (a, y) else z), stream := none })))
  ∧ (∀ (c : CoreId) (s : State) (k : Slot), (s.team c k).live = true → (s.team c k).tbHere = false →
    (∀ j : Slot, j < k → (s.team c j).live = false ∨ (s.team c j).tbHere = true) →
    (∀ y ∈ (s.cores[c]).saved, ∀ m : Slot, (y.2.teams[m]).live = true → (y.2.teams[m]).tbHere = true → partsMeet y.2.teams[m] (s.team c k) = false) →
    ∃ t, exec (.typedBufferStream c) s = .next t ∧ (t.team c k).tbHere = true ∧ (t.team c k).shared = (s.team c k).shared
      ∧ (∀ n, t.grp c n = s.grp c n) ∧ t.mem = s.mem)

/-- CommandEvents, AcceptanceJournalsFirst: the parts above together. -/
def Obligations.LaunchEvents : Prop :=
  Sys2Proof.Rules.CommandEvents ∧ Sys2Proof.Rules.AcceptanceJournalsFirst

/-- ContextSwitchEvents, SaveAreaEvents: the parts above together. -/
def Obligations.ContextEvents : Prop :=
  Sys2Proof.Rules.ContextSwitchEvents ∧ Sys2Proof.Rules.SaveAreaEvents

/-! ## The memory path, errors and persistence (R76, R79, R84, R85, R95, R255, R371, R403 to R405, R407) -/

/-- A sector performed at the coherence point of PKG scope in DRAM (R84), under the key that the place already has, with no
snapshot armed: its dirty bytes stand there, every other byte of every memory is unchanged. -/
def Sys2Proof.Rules.HomeWriteStoresDirtyBytes : Prop :=
  ∀ (s : State) (w : Sector), w.tgt = .dram → s.hub.capture = none → (∀ k, keyAt s ⟨.dram, w.base⟩ = some k → k = w.key) →
    (∀ a, Memory.get (homeWrite s w).mem.dram a = if h : w.base ≤ a ∧ a < w.base + 48 then
        if w.dirty.getLsbD (a - w.base) then w.data[a - w.base]'(by omega) else Memory.get s.mem.dram a
      else Memory.get s.mem.dram a)
    ∧ (homeWrite s w).mem.pst = s.mem.pst ∧ (homeWrite s w).mem.media = s.mem.media ∧ (homeWrite s w).mem.fabric = s.mem.fabric
    ∧ (homeWrite s w).mem.host = s.mem.host ∧ (homeWrite s w).hub = s.hub ∧ ∀ c n, (homeWrite s w).grp c n = s.grp c n

/-- WAY_CONVERSION_DONE, DIRTY_SECTOR_WRITEBACK, WRITE_COMBINING_DRAIN and HOST_SNOOP (R76, R79, R85, R95): the highest way
under conversion is emptied and given to staging; a dirty sector's bytes at its home and the copy clean; a buffered sector's bytes in the die L2 and out of the buffer;
a dirty host block's bytes in host memory, the block given up when the host takes it. -/
def Sys2Proof.Rules.CacheEvents : Prop :=
  (∀ (d : Fin 4) (s : State), (s.dies[d]).blocked = 0 → exec (.wayConversionDone d) s = .next s)
  ∧ (∀ (d : Fin 4) (n : Fin 16) (s : State), (s.dies[d]).blocked.getLsbD n.val = true →
    (∀ m : Fin 16, n < m → (s.dies[d]).blocked.getLsbD m.val = false) →
    ∃ t, exec (.wayConversionDone d) s = .next t ∧ (t.dies[d]).sways = (s.dies[d]).sways
      ∧ (t.dies[d]).staging = setBit (s.dies[d]).staging n.val true ∧ (t.dies[d]).blocked = setBit (s.dies[d]).blocked n.val false
      ∧ (∀ w ∈ (t.dies[d]).ways, w.way ≠ n.val ∧ w ∈ (s.dies[d]).ways)
      ∧ (∀ x ∈ (t.dies[d]).l2, ∀ w ∈ (s.dies[d]).ways, w.way = n.val → ¬ (x.tgt = w.tgt ∧ lineOf x.base = w.line))
      ∧ (∀ e : Fin 4, e ≠ d → t.dies[e] = s.dies[e]) ∧ ∀ c m, t.grp c m = s.grp c m)
  ∧ (∀ (d : Fin 4) (n : Nat) (s : State),
    (((s.dies[d]).l2.filter fun x => x.dirty ≠ 0).length ≤ n → exec (.dirtySectorWriteback d n) s = .next s)
    ∧ (∀ x, ((s.dies[d]).l2.filter fun x => x.dirty ≠ 0)[n]? = some x → ∃ t, exec (.dirtySectorWriteback d n) s = .next t
        ∧ t.mem = (homeWrite s x).mem ∧ (∀ y ∈ (t.dies[d]).l2, y.tgt = x.tgt → y.base = x.base → y.dirty = 0)
        ∧ (t.dies[d]).l2.map (fun y => (y.tgt, y.base, y.data, y.valid)) = ((homeWrite s x).dies[d]).l2.map fun y => (y.tgt, y.base, y.data, y.valid)))
  ∧ (∀ (c : CoreId) (n : Nat) (s : State) (x : Sector), (s.cores[c]).wcb[n]? = some x → x.tgt ≠ .pst →
    ∃ t y, exec (.writeCombiningDrain c n) s = .next t ∧ (t.cores[c]).wcb.length + 1 = (s.cores[c]).wcb.length
      ∧ secFind (t.dies[dieOf c]).l2 x.tgt x.base = some y ∧ y.dirty &&& x.dirty = x.dirty ∧ y.owner = x.owner ∧ y.key = x.key ∧ y.tag = x.tag
      ∧ ∀ j : Fin 48, x.dirty.getLsbD j.val = true → y.data[j] = x.data[j])
  ∧ (∀ (addr : Nat) (own : Bool) (s : State),
    (s.mem.hcache.find? (·.base == addr / 64 * 64) = none → exec (.hostSnoop addr own) s = .next s)
    ∧ (∀ x, s.mem.hcache.find? (·.base == addr / 64 * 64) = some x → ∃ t, exec (.hostSnoop addr own) s = .next t
        ∧ (∀ a, Memory.get t.mem.host a = if h : x.dirty = true ∧ addr / 64 * 64 ≤ a ∧ a < addr / 64 * 64 + 64 then x.data[a - addr / 64 * 64]'(by omega)
            else Memory.get s.mem.host a)
        ∧ (own = true → ∀ y ∈ t.mem.hcache, y.base ≠ addr / 64 * 64)
        ∧ (own = false → ∀ y ∈ t.mem.hcache, y.base = addr / 64 * 64 → y.dirty = false ∧ y.own = false)
        ∧ t.mem.dram = s.mem.dram ∧ t.mem.pst = s.mem.pst ∧ t.cores = s.cores ∧ t.hub = s.hub))

namespace Sys2Proof.Rules
open Sys2Proof Sys2Proof.Machine

/-- Where the next record of a context's fault log goes (R394). -/
def logPlace (s : State) (a : Asid) : Nat :=
  let c := s.ctxRec a
  pitch (c.desc.toNat / 2 ^ 64 % 2 ^ 57) (48 * (c.flogs % 2 ^ (6 + c.desc.toNat / 2 ^ 121 % 16)))

end Sys2Proof.Rules

/-- ECC_ERROR (R255, R403, R453): a correctable error is counted and changes nothing else; an uncorrectable one in a clean L2
copy, or in a clean one of the memory-side cache, drops the copy; in a dirty one it poisons the sector at its home, enters
one record in its last writer's log, and the record waits for a release of that context; one on the media poisons the
sector. A memory-side cache and a stack meet errors only at their own frames (R77, R80). -/
def Sys2Proof.Rules.ErrorEvents : Prop :=
  (∀ (d : Fin 4) (n : Nat) (s : State) (x : Sector), (s.dies[d]).l2[n]? = some x →
    let e := (s.dies[d]).l2err.toNat
    (∃ t, exec (.eccError (.l2 d) n true) s = .next t
        ∧ ((t.dies[d]).l2err.toNat = if e % 2 ^ 24 = 2 ^ 24 - 1 then e else e + 1) ∧ (t.dies[d]).l2 = (s.dies[d]).l2 ∧ t.mem = s.mem ∧ t.hub = s.hub)
    ∧ (x.dirty = 0 → ∃ t, exec (.eccError (.l2 d) n false) s = .next t ∧ secFind (t.dies[d]).l2 x.tgt x.base = none ∧ t.mem = s.mem ∧ t.hub = s.hub
        ∧ ((t.dies[d]).l2err.toNat = if e / 2 ^ 24 % 2 ^ 24 = 2 ^ 24 - 1 then e else e + 2 ^ 24))
    ∧ (x.dirty ≠ 0 → ∃ t k, exec (.eccError (.l2 d) n false) s = .next t
        ∧ (t.ctxRec x.owner).flogs = (s.ctxRec x.owner).flogs + 1 ∧ (t.ctxRec x.owner).deferL2 = (s.ctxRec x.owner).deferL2 ++ [k]
        ∧ (x.tgt ≠ .dram ∨ x.base ≠ Rules.logPlace s x.owner → (⟨x.tgt, x.base⟩ : PLoc) ∈ t.mem.poison)))
  ∧ (∀ (k : Fin 8) (addr : Nat) (correctable : Bool) (s : State), addr / 4096 % 8 ≠ k.val →
    exec (.eccError (.msc k) addr correctable) s = .next s)
  ∧ (∀ (k : Fin 8) (addr : Nat) (s : State), addr / 4096 % 8 = k.val →
    (∃ t, exec (.eccError (.msc k) addr true) s = .next t ∧ t.mem = s.mem ∧ t.cores = s.cores ∧ ∀ j : Fin 8, j ≠ k → t.hub.mscerr[j] = s.hub.mscerr[j])
    ∧ (s.mem.mscDirty.find? (·.1 == sectorBase addr) = none → ∃ t, exec (.eccError (.msc k) addr false) s = .next t
        ∧ t.mem = { s.mem with mscRemote := s.mem.mscRemote.filter fun x => x.base != sectorBase addr })
    ∧ (∀ o, s.mem.mscDirty.find? (·.1 == sectorBase addr) = some (sectorBase addr, o) → ∃ t x, exec (.eccError (.msc k) addr false) s = .next t
        ∧ (t.ctxRec o).deferMsc = (s.ctxRec o).deferMsc ++ [x] ∧ (t.ctxRec o).flogs = (s.ctxRec o).flogs + 1))
  ∧ (∀ (k : Fin 4) (addr : Nat) (correctable : Bool) (s : State), stackOf (sectorBase addr) ≠ k →
    exec (.eccError (.media k) addr correctable) s = .next s)
  ∧ (∀ (k : Fin 4) (addr : Nat) (s : State), stackOf (sectorBase addr) = k →
    (∃ t, exec (.eccError (.media k) addr true) s = .next t ∧ t.mem = s.mem
        ∧ ((t.hub.pstacks[k]).ce.toNat = min ((s.hub.pstacks[k]).ce.toNat + 1) 65535) ∧ (t.hub.pstacks[k]).uce = (s.hub.pstacks[k]).uce)
    ∧ (∃ t, exec (.eccError (.media k) addr false) s = .next t ∧ (⟨.pst, sectorBase addr⟩ : PLoc) ∈ t.mem.poison ∧ t.mem.pst = s.mem.pst
        ∧ ((t.hub.pstacks[k]).uce.toNat = min ((s.hub.pstacks[k]).uce.toNat + 1) 65535)))

/-- PERSISTENT_STACK_FAIL, WRITE_BACK_QUEUE_DRAIN and PFAIL (R404, R405, R407): a failed stack stays failed and its queue
keeps its entries; the oldest entry of another reaches the media; at PFAIL every write outside a queue is lost, the queues
stand, and the package is off when they are empty or on failed stacks. CXL_MEM_READ and CXL_MEM_WRITE (R370, R371): nothing
without the link, its key or in minimal mode; no bytes of a tenant's page; a write there, or in the tier's journal or firmware
regions, changes no memory and is logged; a write of the tier takes place only where it persists. -/
def Sys2Proof.Rules.PersistenceEvents : Prop :=
  (∀ (k : Fin 4) (s : State), ∃ t, exec (.persistentStackFail k) s = .next t ∧ (t.hub.pstacks[k]).state = 3
      ∧ (∀ j : Fin 4, j ≠ k → t.hub.pstacks[j] = s.hub.pstacks[j]) ∧ t.mem = s.mem ∧ t.cores = s.cores)
  ∧ (∀ (k : Fin 4) (s : State), (s.mem.queues[k] = [] ∨ (s.hub.pstacks[k]).state = 3) → exec (.writeBackQueueDrain k) s = .next s)
  ∧ (∀ (k : Fin 4) (s : State) (w : PWrite) (r : List PWrite), s.mem.queues[k] = w :: r → (s.hub.pstacks[k]).state ≠ 3 →
    ∃ t more, exec (.writeBackQueueDrain k) s = .next t ∧ t.mem.queues[k] = r ++ more ∧ t.mem.pst = s.mem.pst
      ∧ (∀ a, Memory.get t.mem.media a = w.bytes.foldl (fun x c => if c.1 = a then c.2 else x) (Memory.get s.mem.media a))
      ∧ ∀ x ∈ more, x ∈ s.mem.pwait)
  ∧ (∀ s : State, ∃ t, exec .pfail s = .next t ∧ t.pfail = true ∧ t.mem.pwait = [] ∧ t.mem.queues = s.mem.queues ∧ t.mem.media = s.mem.media
      ∧ ((∀ k : Fin 4, s.mem.queues[k] = [] ∨ (s.hub.pstacks[k]).state = 3) → t.off = true)
      ∧ ((∃ k : Fin 4, s.mem.queues[k] ≠ [] ∧ (s.hub.pstacks[k]).state ≠ 3) → t.off = s.off))
  ∧ (∀ (p : Bool) (off : Nat) (s : State), (s.hub.linkUp = false ∨ s.hub.boot.minimal = true ∨ s.hub.mgmt.ide[2] = none) →
      exec (.cxlMemRead p off) s = .next s ∧ ∀ bs, exec (.cxlMemWrite p off bs) s = .next s)
  ∧ (∀ (p : Bool) (off : Nat) (s : State), s.hub.linkUp = true → s.hub.boot.minimal = false → s.hub.mgmt.ide[2].isSome = true → off < (if p then 2 ^ 40 else 2 ^ 39) →
    let ps := (List.range 64).map fun j => winPlace p (off / 64 * 64 + j)
    ((∃ x ∈ ps, tenantPage s x = true) → exec (.cxlMemRead p off) s = .next (s.modHub fun h => { h with remote := [] }))
    ∧ (∀ bs bad u, (∀ x ∈ ps, tenantPage s x = false) → readBytes (fun s t b => (homeSector s t b {}, s)) s none ps = ((bs, bad), u) →
        exec (.cxlMemRead p off) s = .next (u.modHub fun h => { h with remote := if bad then [] else bs }))
    ∧ (∀ b bs, (tenantPage s (winPlace p off) = true ∨ (p = true ∧ (Sys2Proof.Machine.inJournal s off = true ∨ inRegions s.hub.boot.fwTier off = true))) → ∃ t, exec (.cxlMemWrite p off (b :: bs)) s = .next t ∧ t.mem = s.mem ∧ t.dies = s.dies
        ∧ t.hub.mgmt.errNo = s.hub.mgmt.errNo + 1)
    ∧ (∀ b, tenantPage s (winPlace p off) = false → p = false → exec (.cxlMemWrite p off [b]) s = .next (writeBytes homeWrite s [winPlace p off] [b]))
    ∧ (∀ b, tenantPage s (winPlace p off) = false → p = true → Sys2Proof.Machine.inJournal s off = false → inRegions s.hub.boot.fwTier off = false →
        exec (.cxlMemWrite p off [b]) s = .next (ackedOr s (writeBytes hostPersist s [winPlace p off] [b]))))

/-- PHINT (R141): with I = 0 the core's windows close; otherwise one window joins those that have not ended, opening
64 × onset cycles from now for 2^(4 + d) cycles with its intensity at most the cap; a fifth takes the place of the one that
ends soonest. No register changes. -/
def Sys2Proof.Rules.PowerHint : Prop :=
  ∀ (x : FmtI24) (s : State) (n : Slot) (f : Form) (g : Group) (r : Run), Ready (.phint x) s n f g r → acting f.hd g r ≠ 0 → g.stays s →
    let now := s.cycles s.core
    let level := x.imm.toNat / 16 % 16
    let opens := now + 64 * (x.imm.toNat % 16)
    let live := ((s.cores[s.core]).ctx.hints).filter fun w => now < w.ends
    ∃ t, exec (.phint x) s = .next t ∧ Writes.nil.take g (t.grp s.core n) ∧ (∀ m, m ≠ n → t.grp s.core m = s.grp s.core m) ∧ t.mem = s.mem
      ∧ (level = 0 → (t.cores[s.core]).ctx.hints = [])
      ∧ (level ≠ 0 → ∃ w kept, (t.cores[s.core]).ctx.hints = kept ++ [w]
          ∧ w.opens = opens ∧ w.ends = opens + 2 ^ (4 + x.imm.toNat / 256 % 16) ∧ w.int = min level (LRec.hintCap (s.team s.core g.team).lrec)
          ∧ (live.length < 4 → kept = live)
          ∧ (4 ≤ live.length → kept.length + 1 = live.length ∧ (∀ y ∈ kept, y ∈ live) ∧ ∃ z ∈ live, (∀ y ∈ live, z.ends ≤ y.ends) ∧ kept = live.erase z))

/-- POWER_SLOT, FREQ_HANDOVER, CPWR_WRITE, ENERGY_UPDATE and the three ECLR writes (R424 to R434): a slot is charged once, at a
multiple of 64 cycles, under the limit in force from it on, and the modelled current falls by no more than that limit; a
cluster goes to its target frequency over one idle cycle; a limit below 64 or a frequency out of range is refused; energy
adds up and stays at all ones; a clear empties one accumulator. -/
def Sys2Proof.Rules.PowerEvents : Prop :=
  (∀ (k : Fin 16) (s : State), let x := s.hub.clusters[k]
    ((x.cycles % 64 ≠ 0 ∨ x.cycles / 64 < x.slot) → exec (.powerSlot k) s = .next s)
    ∧ (x.cycles % 64 = 0 → x.slot ≤ x.cycles / 64 → ∃ t, exec (.powerSlot k) s = .next t
        ∧ (t.hub.clusters[k]).slot = x.cycles / 64 + 1 ∧ (t.hub.clusters[k]).isl = x.islNext ∧ (t.hub.clusters[k]).ends = 0
        ∧ x.modelled ≤ (t.hub.clusters[k]).modelled + 4 * x.islNext.toNat
        ∧ (∀ j : Fin 16, j ≠ k → t.hub.clusters[j] = s.hub.clusters[j]) ∧ t.cores = s.cores ∧ t.mem = s.mem))
  ∧ (∀ (k : Fin 16) (s : State), let x := s.hub.clusters[k]
    let goal := if detPin s k then 44 else x.freq
    (goal = x.fcur → exec (.freqHandover k) s = .next s)
    ∧ (goal ≠ x.fcur → ∃ t, exec (.freqHandover k) s = .next t ∧ t.hub.clusters[k] = { x with fcur := goal, cksel := !x.cksel, cycles := x.cycles + 1 }
        ∧ (∀ j : Fin 16, j ≠ k → t.hub.clusters[j] = s.hub.clusters[j]) ∧ t.cores = s.cores))
  ∧ (∀ (k : Fin 16) (v : W64) (s : State), let x := s.hub.clusters[k]
    let f := v.toNat / 2 ^ 24 % 64
    let bad : Prop := v.toNat / 2 ^ 40 ≠ 0 ∨ v.getLsbD 30 = true ∨ v.toNat / 2 ^ 8 % 2 ^ 16 ≠ 0 ∨ f < 24 ∨ 50 < f ∨ v.toNat % 256 < 64
    ∃ t, exec (.cpwrWrite k v) s = .next t ∧ t.mem = s.mem ∧ t.cores = s.cores
      ∧ (bad → t.hub.clusters = s.hub.clusters ∧ t.hub.mgmt.errNo = s.hub.mgmt.errNo + 1)
      ∧ (¬ bad → t.hub.clusters[k] = { x with islNext := BitVec.ofNat 8 v.toNat, freq := if f = x.fcur.toNat then x.freq else BitVec.ofNat 6 f }))
  ∧ (∀ (k : Fin 16) (total sys : Nat) (shares : List (Asid × Nat)) (s : State), let x := s.hub.clusters[k]
    ((x.cycles % 1024 ≠ 0 ∨ x.cycles / 1024 < x.esample) → exec (.energyUpdate k total shares sys) s = .next s)
    ∧ (x.cycles % 1024 = 0 → x.esample ≤ x.cycles / 1024 → ∃ t, exec (.energyUpdate k total shares sys) s = .next t
        ∧ (t.hub.clusters[k]).eclu.toNat = min (x.eclu.toNat + total) (2 ^ 64 - 1) ∧ t.hub.esys.toNat = min (s.hub.esys.toNat + sys) (2 ^ 64 - 1)
        ∧ (∀ a m, shares = [(a, m)] → (t.ctxRec a).energy.toNat = min ((s.ctxRec a).energy.toNat + m) (2 ^ 64 - 1))
        ∧ (∀ a, (∀ y ∈ shares, y.1 ≠ a) → (t.ctxRec a).energy = (s.ctxRec a).energy)))
  ∧ (∀ (a : BitVec 12) (s : State),
    (∃ t, exec (.eclrContext 0 a) s = .next t ∧ (t.ctxRec a).energy = 0 ∧ (t.ctxRec a).esat = false ∧ (t.ctxRec a).undecl = 0
        ∧ t.hub.clusters = s.hub.clusters ∧ t.hub.esys = s.hub.esys)
    ∧ (∀ k : Fin 16, a.toNat = k.val → ∃ t, exec (.eclrCluster 0 a) s = .next t ∧ t.hub.clusters[k] = { s.hub.clusters[k] with eclu := 0, esat := false })
    ∧ (16 ≤ a.toNat → ∃ t, exec (.eclrCluster 0 a) s = .next t ∧ t.hub.clusters = s.hub.clusters ∧ t.hub.mgmt.errNo = s.hub.mgmt.errNo + 1)
    ∧ (∃ t, exec (.eclrSystem 0 a) s = .next t ∧ t.hub.esys = 0 ∧ t.hub.esysSat = false ∧ t.hub.clusters = s.hub.clusters)
    ∧ (∀ rsv : BitVec 50, rsv ≠ 0 → ∀ y ∈ [Instr.eclrContext rsv a, .eclrCluster rsv a, .eclrSystem rsv a],
        ∃ t, exec y s = .next t ∧ t.hub.clusters = s.hub.clusters ∧ t.hub.esys = s.hub.esys ∧ t.hub.mgmt.errNo = s.hub.mgmt.errNo + 1))

/-- HomeWriteStoresDirtyBytes, CacheEvents: the parts above together. -/
def Obligations.CachePathEvents : Prop :=
  Sys2Proof.Rules.HomeWriteStoresDirtyBytes ∧ Sys2Proof.Rules.CacheEvents

/-- ErrorEvents, PersistenceEvents: the parts above together. -/
def Obligations.ErrorAndPersistenceEvents : Prop :=
  Sys2Proof.Rules.ErrorEvents ∧ Sys2Proof.Rules.PersistenceEvents

/-- PowerHint, PowerEvents: the parts above together. -/
def Obligations.PowerOperations : Prop :=
  Sys2Proof.Rules.PowerHint ∧ Sys2Proof.Rules.PowerEvents

/-! ## Snapshots, restores, dead granules, start-up (R288, R406 to R418, R446, R456) -/

/-- The capture of a step (R412 to R416): while a capture is armed its lowest frame left is copied and marked; with every
frame copied, every team and every member past the step, no image write on its way and its padding and manifest persisted, the
capture is complete and COMP holds its step; parity stands only when the members agree on D and it persists; acknowledged and
with its manifest persisted, PROT holds the step; refused, one record enters the context's log and the capture ends. A
notice is noted once. -/
def Sys2Proof.Rules.SnapshotEvents : Prop :=
  (∀ s : State, (s.hub.capture = none ∨ ∃ c, s.hub.capture = some c ∧ (c.armed = false ∨ framesLeft c = [])) → exec .snapshotFrameCopy s = .next s)
  ∧ (∀ (s : State) (c : Capture) (f : PLoc) (r : List PLoc), s.hub.capture = some c → c.armed = true → framesLeft c = f :: r →
    ∃ t, exec .snapshotFrameCopy s = .next t ∧ t.hub.capture = some { c with frames := f :: c.frames }
      ∧ t.mem.dram = s.mem.dram ∧ t.cores = s.cores ∧ t.dies = s.dies)
  ∧ (∀ (n : BitVec 14) (step : W32) (s : State), ∃ t, exec (.closeNotice n step) s = .next t
      ∧ (s.hub.nodeEn = false → t = s) ∧ (s.hub.nodeEn = true → (n, step) ∈ t.hub.notices)
      ∧ (∀ y, y ≠ (n, step) → (y ∈ t.hub.notices ↔ y ∈ s.hub.notices)) ∧ t.mem = s.mem ∧ t.cores = s.cores)
  ∧ (∀ (s : State) (c : Capture), s.hub.capture = some c →
    (c.armed = false ∨ framesLeft c ≠ [] ∨ allClosed s c = false ∨ noticesIn s c = false ∨ imageSettled s = false → exec .snapshotComplete s = .next s)
    ∧ (∀ p u padded v kept w, c.armed = true → framesLeft c = [] → allClosed s c = true → noticesIn s c = true → imageSettled s = true →
        s.takeWord = (p, u) → padImage u c = (padded, v) → putManifest v c 1 (some (p.setWidth 32)) = (kept, w) →
        ∃ t, exec .snapshotComplete s = .next t
          ∧ (padded = true → kept = true → t.hub.capture = some { c with armed := false, complete := true }
            ∧ t.hub.comp.toNat = max s.hub.comp.toNat c.step.toNat ∧ t.hub.prot = s.hub.prot ∧ t.mem = w.mem)
          ∧ (padded = false ∨ kept = false → t = s))
    ∧ (∀ bs u kept v, c.complete = true → c.parity = false → takeBytes c.parityBytes s = (bs, u) → slotPut u c c.parityAt bs = (kept, v) →
        ∃ t, exec (.parityCompute true) s = .next t
          ∧ (kept = true → t.hub.capture = some { c with parity := true } ∧ t.mem = v.mem)
          ∧ (kept = false → t.hub.capture = none ∧ (t.ctxRec c.asid).flogs = (s.ctxRec c.asid).flogs + 1))
    ∧ (c.complete = true → c.parity = false →
        (∃ t, exec (.parityCompute false) s = .next t ∧ t.hub.capture = none ∧ (t.ctxRec c.asid).flogs = (s.ctxRec c.asid).flogs + 1))
    ∧ (∀ kept u, c.parity = true → putManifest s c 2 (parityCrc s c) = (kept, u) →
        ∃ t, exec (.snapshotProtected true) s = .next t ∧ t.hub.capture = none
          ∧ (kept = true → t.hub.prot.toNat = max s.hub.prot.toNat c.step.toNat ∧ t.mem = u.mem)
          ∧ (kept = false → t.hub.prot = s.hub.prot ∧ (t.ctxRec c.asid).flogs = (s.ctxRec c.asid).flogs + 1))
    ∧ (c.parity = true → (∃ t, exec (.snapshotProtected false) s = .next t ∧ t.hub.capture = none ∧ t.hub.prot = s.hub.prot
            ∧ (t.ctxRec c.asid).flogs = (s.ctxRec c.asid).flogs + 1))
    ∧ (c.parity = false → ∀ b, exec (.snapshotProtected b) s = .next s))

/-- RESTCTL and the restore (R446): a GO with a reserved bit set, while a restore runs, for a context that is not held or
with an invalid block is refused whole and logged; otherwise the restore runs, with REB as the row says; without a slot that
holds the step protected and whole it ends in state 3 with one record and no byte of memory restored; a rebuild writes the
manifest of the slot with the lower step, or of one without a manifest, and ends in state 2 with COMP and PROT at least the
step, or in state 3 where that manifest does not persist. -/
def Sys2Proof.Rules.RestoreEvents : Prop :=
  (∀ (v : W64) (s : State), s.hub.boot.minimal = false →
    let a : Asid := v.setWidth 12
    let ok : Prop := v.toNat / 2 ^ 44 % 2 ^ 16 = 0 ∧ s.hub.restState ≠ 1 ∧ (s.ctxRec a).hold = true ∧ ∃ b, restBlock s a = some b ∧ cfgFault s a b = none
    (¬ ok → ∃ t u, exec (.restoreSnapshot v) s = .next t ∧ exec (.rebuildManifest v) s = .next u
        ∧ t.hub.mgmt.errNo = s.hub.mgmt.errNo + 1 ∧ u.hub.mgmt.errNo = s.hub.mgmt.errNo + 1 ∧ t.hub.restState = s.hub.restState
        ∧ u.hub.restState = s.hub.restState ∧ t.hub.restJob = s.hub.restJob ∧ u.hub.restJob = s.hub.restJob ∧ t.mem = s.mem ∧ u.mem = s.mem)
    ∧ (∀ b, ok → restBlock s a = some b → ∃ t u, exec (.restoreSnapshot v) s = .next t ∧ exec (.rebuildManifest v) s = .next u
        ∧ t.hub.restState = 1 ∧ u.hub.restState = 1 ∧ t.hub.restJob = some (false, v.extractLsb' 12 32, a, b)
        ∧ u.hub.restJob = some (true, v.extractLsb' 12 32, a, b) ∧ t.mem = s.mem ∧ u.mem = s.mem))
  ∧ (∀ s : State, s.hub.restJob = none → exec .restoreDone s = .next s)
  ∧ (∀ (s : State) (step : W32) (a : Asid) (b : Vector W64 24), s.hub.restJob = some (false, step, a, b) →
      (∀ k ∈ [0, 1], slotGood s (restSlot s a b step k) = false) →
      exec .restoreDone s = .next (restEnd s a false)
      ∧ (restEnd s a false).hub.restState = 3 ∧ (restEnd s a false).hub.restJob = none
      ∧ ((restEnd s a false).ctxRec a).flogs = (s.ctxRec a).flogs + 1)
  ∧ (∀ (s : State) (step : W32) (a : Asid) (b : Vector W64 24) (k : Nat), s.hub.restJob = some (false, step, a, b) → k < 2 →
      slotGood s (restSlot s a b step k) = true → (∀ j < k, slotGood s (restSlot s a b step j) = false) →
      exec .restoreDone s = .next (restEnd (restoreImage s (restSlot s a b step k)) a true)
      ∧ (restEnd (restoreImage s (restSlot s a b step k)) a true).hub.restState = 2)
  ∧ (∀ (s : State) (step : W32) (a : Asid) (b : Vector W64 24) (k : Nat) (kept : Bool) (u : State),
      s.hub.restJob = some (true, step, a, b) →
      let z := restSlot s a b step
      (k = 0 ∧ manifestStep s (z 0) = none ∨ k = 1 ∧ (∃ x, manifestStep s (z 0) = some x) ∧ manifestStep s (z 1) = none
        ∨ ∃ x y, manifestStep s (z 0) = some x ∧ manifestStep s (z 1) = some y ∧ k = if y < x then 1 else 0) →
      putManifest s (z k) 2 (parityCrc s (z k)) = (kept, u) →
      ∃ t, exec .restoreDone s = .next t ∧ t.hub.restJob = none
        ∧ (kept = true → t.hub.restState = 2 ∧ t.mem = u.mem
          ∧ t.hub.comp.toNat = max s.hub.comp.toNat step.toNat ∧ t.hub.prot.toNat = max s.hub.prot.toNat step.toNat)
        ∧ (kept = false → t.hub.restState = 3 ∧ t.hub.comp = s.hub.comp ∧ t.hub.prot = s.hub.prot
          ∧ (t.ctxRec a).flogs = (s.ctxRec a).flogs + 1))

/-- DEADOP (R408, R409): a mark or a query is refused whole, with DEADREF set, for a reserved bit, a range that is not all
DRAM or reaches into a firmware region, or while a mark runs; a mark then runs granule by granule, and when one is done every
byte of it is zero, wherever a copy stood, and it is marked; a query of one granule answers whether it is. -/
def Sys2Proof.Rules.DeadGranules : Prop :=
  (∀ (v : BitVec 62) (s : State), s.hub.boot.minimal = false →
    let g := v.toNat / 2 ^ 16 % 2 ^ 24
    let n := v.toNat / 2 ^ 48 + 1
    let sound : Prop := v.toNat % 2 ^ 16 = 0 ∧ v.toNat / 2 ^ 40 % 2 ^ 8 = 0 ∧ s.hub.deadOp = none
    let range : Prop := paExists 0 (65536 * g) = true ∧ paExists 0 (65536 * (g + n - 1)) = true
      ∧ ∀ r ∈ s.hub.boot.fwDram, ¬ (r.1 < 65536 * (g + n) ∧ 65536 * g < r.1 + r.2)
    (sound → range → ∃ t, exec (.deadMark v) s = .next t ∧ t.hub.deadOp = some (g, n) ∧ t.hub.deadRef = false ∧ t.mem = s.mem)
    ∧ (¬ (sound ∧ range) → ∃ t, exec (.deadMark v) s = .next t ∧ t.hub.deadOp = s.hub.deadOp ∧ t.hub.deadRef = true ∧ t.mem = s.mem
        ∧ t.hub.mgmt.errNo = s.hub.mgmt.errNo + 1)
    ∧ (sound → range → n = 1 → ∃ t, exec (.deadQuery v) s = .next t ∧ t.hub.deadRes = decide (g ∈ s.mem.dead) ∧ t.hub.deadRef = false ∧ t.mem = s.mem)
    ∧ (¬ (sound ∧ range ∧ n = 1) → ∃ t, exec (.deadQuery v) s = .next t ∧ t.hub.deadRes = s.hub.deadRes ∧ t.hub.deadRef = true ∧ t.mem = s.mem
        ∧ t.hub.mgmt.errNo = s.hub.mgmt.errNo + 1))
  ∧ (∀ s : State, s.hub.deadOp = none → exec .deadMarkDone s = .next s)
  ∧ (∀ (s : State) (g n : Nat), s.hub.deadOp = some (g, n) → ∃ t, exec .deadMarkDone s = .next t
      ∧ t.hub.deadOp = (if n ≤ 1 then none else some (g + 1, n - 1))
      ∧ (∀ a, Memory.get t.mem.dram a = if a / 65536 = g then 0 else Memory.get s.mem.dram a)
      ∧ (∀ k, k ∈ t.mem.dead ↔ k = g ∨ k ∈ s.mem.dead)
      ∧ (∀ (d : Fin 4), ∀ x ∈ (t.dies[d]).l2, x.tgt = .dram → x.base / 65536 ≠ g)
      ∧ (∀ (c : CoreId), ∀ x ∈ (t.cores[c]).l1 ++ (t.cores[c]).wcb, x.tgt = .dram → x.base / 65536 ≠ g)
      ∧ t.mem.pst = s.mem.pst ∧ t.mem.host = s.mem.host)

/-- STARTUP (R418, R456): the fourth start in a row that does not reach READY enters minimal mode; a start whose stages all
pass reaches READY, runs the firmware of the higher version that passes, clears the count, enables the four stacks, empties every key slot and brings the host link up in its
mode (R370); the first stage that fails gives
REASON and STAGE and leaves READY clear. The journal's place stands, the media keep every byte of the tier. -/
def Obligations.StartupRule : Prop :=
  ∀ (e : BootEnv) (s : State),
    let count := min 15 (s.hub.boot.startcnt + 1)
    ∃ t, exec (.startup e) s = .next t ∧ t.mem.dram = [] ∧ (s.hub.pdconf = false → t.mem.media = s.mem.media ∧ t.mem.pst = s.mem.media)
      ∧ (∀ (c : CoreId) (n : Slot), (t.grp c n).resident = false) ∧ t.hub.grids = []
      ∧ (4 ≤ count → t.hub.boot.minimal = true ∧ t.hub.boot.ready = false)
      ∧ (count < 4 → e.pfailed = false →
          (∀ r g, startFailure (s.hub.boot.verify e) e = some (r, g) →
              t.hub.boot.ready = false ∧ t.hub.boot.minimal = false ∧ t.hub.boot.reason = r ∧ t.hub.boot.stage = g ∧ t.hub.boot.startcnt = count)
          ∧ (startFailure (s.hub.boot.verify e) e = none →
              t.hub.boot.ready = true ∧ t.hub.boot.minimal = false ∧ t.hub.boot.startcnt = 0 ∧ t.hub.boot.reason = 0
              ∧ (let b := s.hub.boot.verify e
                t.hub.boot.fw = if b.badB = false ∧ e.secB = true ∧ (b.badA = true ∨ e.secA = false ∨ b.verA < b.verB) then b.imgB else b.imgA)
              ∧ (∀ k : Fin 4, (t.hub.pstacks[k]).state = 1) ∧ (∀ k : Fin 1024, (t.hub.kslots[k]).state = 0)
              ∧ t.hub.link = some e.link ∧ (∀ p : Fin 3, t.hub.mgmt.ide[p] = some e.ide[p])
              ∧ (t.hub.pdconf = true ↔ ∃ h, e.holdup = some h ∧ 70 ≤ h)))
      ∧ (count < 4 → e.pfailed = true → t.hub.boot.ready = false ∧ t.hub.boot.reason = 0x09)

/-- SnapshotEvents, RestoreEvents, DeadGranules: the parts above together. -/
def Obligations.SnapshotAndRestoreEvents : Prop :=
  Sys2Proof.Rules.SnapshotEvents ∧ Sys2Proof.Rules.RestoreEvents ∧ Sys2Proof.Rules.DeadGranules

/-! ## Spacen, sessions, aborts, Ethernet and the host link (R370, R383, R436 to R445) -/

/-- Nodes and ports (R436, R438): NODE is refused while EN = 1 and changes otherwise; a trained port counts its flits; a lost
node is declared once; its notice sets LOSS and LOST, fails the sessions that wait for it with 0x06 and the copies in flight to
it, and does nothing for a node that has not been declared. -/
def Sys2Proof.Rules.NodeEvents : Prop :=
  (∀ (v : W64) (s : State),
    let bad : Prop := v.toNat / 2 ^ 32 ≠ 0 ∨ v.toNat / 2 ^ 14 % 2 ^ 17 ≠ 0 ∨ (s.hub.nodeEn = true ∧ v.setWidth 14 ≠ s.hub.node)
    ∃ t, exec (.nodecfgWrite v) s = .next t ∧ t.mem = s.mem ∧ t.cores = s.cores
      ∧ (bad → t.hub.node = s.hub.node ∧ t.hub.nodeEn = s.hub.nodeEn ∧ t.hub.mgmt.errNo = s.hub.mgmt.errNo + 1)
      ∧ (¬ bad → t.hub.node = v.setWidth 14 ∧ t.hub.nodeEn = v.getLsbD 31 ∧ t.hub.mgmt.errNo = s.hub.mgmt.errNo))
  ∧ (∀ (p : Fin 18) (s : State),
    (s.hub.portup.getLsbD p.val = false → exec (.idleFlit p) s = .next s)
    ∧ (s.hub.portup.getLsbD p.val = true → ∃ t, exec (.idleFlit p) s = .next t ∧ t.hub.flits[p] = s.hub.flits[p] + 1
        ∧ (∀ q : Fin 18, q ≠ p → t.hub.flits[q] = s.hub.flits[q]) ∧ t.cores = s.cores ∧ t.mem = s.mem)
    ∧ (∀ up, ∃ t, exec (.spacenPortTrain p up) s = .next t ∧ t.hub.portup.getLsbD p.val = up
        ∧ (∀ q : Fin 18, q ≠ p → t.hub.portup.getLsbD q.val = s.hub.portup.getLsbD q.val) ∧ t.cores = s.cores ∧ t.mem = s.mem))
  ∧ (∀ (n : BitVec 14) (s : State), ∃ t, exec (.nodeLost n) s = .next t ∧ n ∈ t.hub.declared
      ∧ (n ∈ s.hub.declared → t = s) ∧ t.hub.loss = s.hub.loss ∧ t.hub.lost = s.hub.lost ∧ t.cores = s.cores ∧ t.mem = s.mem)
  ∧ (∀ (n : BitVec 14) (s : State), n ∉ s.hub.declared → exec (.lostNodeNotice n) s = .next s)
  ∧ (∀ (n : BitVec 14) (s : State), n ∈ s.hub.declared → ∃ t, exec (.lostNodeNotice n) s = .next t ∧ t.hub.loss = true ∧ t.hub.lost = n
      ∧ n ∈ t.hub.lostAll ∧ n ∉ t.hub.declared
      ∧ (∀ j : Fin 64, (s.hub.sessions[j]).awaits n = true → (t.hub.sessions[j]).state = 3 ∧ (t.hub.sessions[j]).en = false)
      ∧ (∀ j : Fin 64, (s.hub.sessions[j]).awaits n = false → t.hub.sessions[j] = s.hub.sessions[j]))

/-- Reduction sessions (R439 to R442): a session opens with its list read, rising and of NCON nodes, and takes the
contributions that wait for it; a sound contribution joins it, and more sectors of its put join that; a second put of a node,
another operation, another format or other bytes fail it; a sector that every node has sent is written, once; with every
node's contribution the sums that remain stand at the place of their bytes and the session is complete; a timeout, a close and
a loss fail it. A failed session discards what it held and enters one record. -/
def Sys2Proof.Rules.SessionEvents : Prop :=
  (∀ (j : Fin 64) (v : W64) (s : State) (nodes : List Nat), s.hub.boot.minimal = false → (s.hub.sessions[j]).en = false →
    v.toNat / 2 ^ 58 % 8 = 0 → v.toNat % 2 ^ 24 = 0 → sessionRange (setBit v 63 true) = true →
    nodeList s (s.hub.sessions[j]).rslist.toNat (v.toNat / 2 ^ 37 % 2 ^ 14) = some nodes → rising nodes = true → (∀ n ∈ nodes, n < 16384) →
    ((s.hub.sessions[j]).bi.toNat ≤ 95 ∨ (s.hub.sessions[j]).bi = 127) → (∀ y ∈ s.hub.early, y.1 ≠ j) →
    ∃ t, exec (.sessionOpen j v) s = .next t ∧ (t.hub.sessions[j]).en = true ∧ (t.hub.sessions[j]).state = 1
      ∧ (t.hub.sessions[j]).nodes = nodes.map (BitVec.ofNat 14) ∧ (t.hub.sessions[j]).cons = []
      ∧ (∀ k : Fin 64, k ≠ j → t.hub.sessions[k] = s.hub.sessions[k]) ∧ t.mem = s.mem)
  ∧ (∀ (j : Fin 64) (v : W64) (s : State), s.hub.boot.minimal = false → (v.toNat / 2 ^ 58 % 8 ≠ 0 ∨ v.toNat % 2 ^ 24 ≠ 0) →
    ∃ t u, exec (.sessionOpen j v) s = .next t ∧ exec (.sessionClose j v) s = .next u ∧ t.hub.sessions = s.hub.sessions
      ∧ u.hub.sessions = s.hub.sessions ∧ t.hub.mgmt.errNo = s.hub.mgmt.errNo + 1 ∧ u.hub.mgmt.errNo = s.hub.mgmt.errNo + 1)
  ∧ (∀ (j : Fin 64) (s : State), s.hub.boot.minimal = false → (s.hub.sessions[j]).en = true → (s.hub.sessions[j]).state = 1 →
    ∃ t, exec (.sessionClose j (setBit (s.hub.sessions[j]).ctl 63 false)) s = .next t ∧ (t.hub.sessions[j]).en = false
      ∧ (t.hub.sessions[j]).state = 3 ∧ (t.hub.sessions[j]).cons = [])
  ∧ (∀ (j : Fin 64) (c : Contribution) (s : State), let x := s.hub.sessions[j]
    (s.hub.nodeEn = false ∨ contributionOk s c = false → exec (.reductionContribution j c) s = .next s)
    ∧ (s.hub.nodeEn = true → contributionOk s c = true → x.state ≠ 1 →
        exec (.reductionContribution j c) s = .next (s.modHub fun h => { h with early := h.early ++ [(j, c)] }))
    ∧ (s.hub.nodeEn = true → contributionOk s c = true → x.state = 1 → c.node ∈ x.nodes → c.op = x.op → c.fmt = x.fmt →
        (∀ d ∈ x.cons, d.node ≠ c.node ∧ d.whole = c.whole ∧ d.asid = c.asid ∧ d.pst = c.pst) →
        ∃ t, exec (.reductionContribution j c) s = .next t ∧ t.hub.sessions[j] = { x with cons := x.cons ++ [c] }
          ∧ (∀ k : Fin 64, k ≠ j → t.hub.sessions[k] = s.hub.sessions[k]) ∧ t.mem = s.mem)
    ∧ (s.hub.nodeEn = true → contributionOk s c = true → x.state = 1 → c.node ∈ x.nodes → c.op = x.op → c.fmt = x.fmt →
        (∀ d ∈ x.cons, d.whole = c.whole ∧ d.asid = c.asid ∧ d.pst = c.pst) → (∃ d ∈ x.cons, d.node = c.node) →
        (∀ d ∈ x.cons, d.node = c.node → d.put = c.put ∧ ∀ y ∈ d.cells, ∀ z ∈ c.cells, z.1 ≠ y.1) →
        ∃ t, exec (.reductionContribution j c) s = .next t
          ∧ t.hub.sessions[j] = { x with cons := x.cons.map fun d => if d.node = c.node then { d with cells := d.cells ++ c.cells } else d }
          ∧ (∀ k : Fin 64, k ≠ j → t.hub.sessions[k] = s.hub.sessions[k]) ∧ t.mem = s.mem)
    ∧ (s.hub.nodeEn = true → contributionOk s c = true → x.state = 1 →
        (c.node ∉ x.nodes ∨ c.op ≠ x.op ∨ c.fmt ≠ x.fmt ∨ (∃ d ∈ x.cons, d.whole ≠ c.whole) ∨ (∃ d ∈ x.cons, d.node = c.node ∧ d.put ≠ c.put)) →
        ∃ t, exec (.reductionContribution j c) s = .next t ∧ (t.hub.sessions[j]).state = 3 ∧ (t.hub.sessions[j]).cons = []))
  ∧ (∀ (j : Fin 64) (s : State) (c : Contribution) (l : List Contribution) (ps : List PLoc), let x := s.hub.sessions[j]
    x.state = 1 → x.order = c :: l → (∀ n ∈ x.nodes, x.has n = true) → x.bi = 127 →
    vaPlaces s c.asid c.pst .write x.unwritten = some ps →
    let u := writeBytes (remoteStore c.asid ⟨c.key, (s.hub.kslots[c.key.toFin]).gen⟩) s ps (sessionSum x x.unwritten)
    exec (.sessionComplete j) s = .next (u.modSession j fun y => { y with en := false, state := 2, cons := [], written := [] }))
  ∧ (∀ (j : Fin 64) (s : State), let x := s.hub.sessions[j]
    (x.state ≠ 1 ∨ (∃ n ∈ x.nodes, x.has n = false) → exec (.sessionComplete j) s = .next s)
    ∧ (x.state = 1 → (∃ n ∈ x.nodes, x.has n = false) → ∃ t, exec (.sessionTimeout j) s = .next t
        ∧ (t.hub.sessions[j]).state = 3 ∧ (t.hub.sessions[j]).en = false ∧ (t.hub.sessions[j]).cons = []
        ∧ (t.ctxRec x.asid).flogs = (s.ctxRec x.asid).flogs + 1)
    ∧ ((∀ n ∈ x.nodes, x.has n = true) → exec (.sessionTimeout j) s = .next s))
  ∧ (∀ (n : Nat) (s : State) (y : Fin 64 × Contribution), s.hub.early[n]? = some y →
    ∃ t, exec (.earlyContributionTimeout n) s = .next t ∧ t.hub.early.length + 1 = s.hub.early.length ∧ t.hub.sessions = s.hub.sessions ∧ t.mem = s.mem
      ∧ (y.2.node ≠ s.hub.node → t.cores = s.cores))
  ∧ (∀ (j : Fin 64) (b : Nat) (s : State), let x := s.hub.sessions[j]
    let as := x.unwritten.filter fun a => sectorBase a == b
    (x.state ≠ 1 ∨ as = [] ∨ (∃ n ∈ x.nodes, ∀ c ∈ x.cons, c.node = n → ∃ a ∈ as, ∀ y ∈ c.cells, y.1 ≠ a) → combineSector s j b = s)
    ∧ (∀ (c : Contribution) (l : List Contribution) (ps : List PLoc), x.state = 1 → x.order = c :: l → as ≠ [] →
      (∀ n ∈ x.nodes, ∃ d ∈ x.cons, d.node = n ∧ ∀ a ∈ as, ∃ y ∈ d.cells, y.1 = a) → vaPlaces s c.asid c.pst .write as = some ps →
      combineSector s j b
        = (writeBytes (remoteStore c.asid ⟨c.key, (s.hub.kslots[c.key.toFin]).gen⟩) s ps (sessionSum x as)).modSession j
            fun y => { y with written := y.written ++ as }))

/-- Signals and requests of other nodes (R316, R389, R437): nothing without NODECFG.EN; a signal for a team that has not come
is kept; one for a resident team arrives at its barrier; a fill of a cell that is full changes nothing. A request whose job
has no context, whose key is another's or whose pages are not there answers nothing and changes no memory; a read answers the
bytes at their home; a write stores them. -/
def Sys2Proof.Rules.RemoteEvents : Prop :=
  (∀ (x : PutSignal) (q : RemoteReq) (s : State), s.hub.nodeEn = false →
    exec (.remoteSignal x) s = .next s ∧ exec (.remoteRequest q) s = .next (s.modHub fun h => { h with remote := [] }))
  ∧ (∀ (a : Asid) (tm : W32) (b : BitVec 7) (s : State), s.hub.nodeEn = true →
    (signalTo s a tm b = .held → exec (.remoteSignal (.arrive a tm b)) s = .next (s.modHub fun h => { h with puts := h.puts ++ [.arrive a tm b] }))
    ∧ (signalTo s a tm b = .missing → exec (.remoteSignal (.arrive a tm b)) s = .next s)
    ∧ (∀ c k, signalTo s a tm b = .at c k → exec (.remoteSignal (.arrive a tm b)) s = .next (updateBar s c k b (.arrive 1 0)))
    ∧ (∀ c k code n, signalTo s a tm b = .at c k → exec (.remoteSignal (.fail a tm b code n)) s = .next (updateBar s c k b (.fail code n))))
  ∧ (∀ (a : Asid) (key : BitVec 10) (va : Nat) (v : W32) (s u : State) (ps : List PLoc) (bs : List Byte), s.hub.nodeEn = true →
    vaPlaces s a false .write (dataVas va 8) = some ps → homeBytes s ⟨key, (s.hub.kslots[key.toFin]).gen⟩ ps = ((bs, false), u) →
    (natLE bs / 2 ^ 32 % 2 = 1 → exec (.remoteSignal (.fill a key va v)) s = .next u)
    ∧ (natLE bs / 2 ^ 32 % 2 = 0 → exec (.remoteSignal (.fill a key va v)) s
        = .next (writeBytes (remoteStore a ⟨key, (s.hub.kslots[key.toFin]).gen⟩) u ps (bytesLE 8 (2 ^ 32 + v.toNat)))))
  ∧ (∀ (q : RemoteReq) (s : State), s.hub.nodeEn = true →
    let u := s.modHub fun h => { h with remote := [] }
    let slot (a : Asid) : Prop := q.key = 0 ∨ ((s.hub.kslots[q.key.toFin]).state = 1 ∧ (s.hub.kslots[q.key.toFin]).asid = a)
    (jobContext u q.job = none → exec (.remoteRequest q) s = .next u)
    ∧ (∀ a, jobContext u q.job = some a → ¬ slot a → exec (.remoteRequest q) s = .next u)
    ∧ (∀ a n ps bs bad w, jobContext u q.job = some a → slot a → q.op = .read n → vaPlaces u a q.pst .read (dataVas q.va.toNat n) = some ps →
        homeBytes u ⟨q.key, (s.hub.kslots[q.key.toFin]).gen⟩ ps = ((bs, bad), w) →
        exec (.remoteRequest q) s = .next (w.modHub fun h => { h with remote := bs }))
    ∧ (∀ a b ps, jobContext u q.job = some a → slot a → q.op = .write b → vaPlaces u a q.pst .write (dataVas q.va.toNat b.length) = some ps →
        exec (.remoteRequest q) s = .next (writeBytes (remoteStore a ⟨q.key, (s.hub.kslots[q.key.toFin]).gen⟩) u ps b)))

/-- ABORT (R445), the host link (R370, R383) and the Ethernet ports (R444): a hold cancels every started command of the
context with ABORT, stops its grids and keeps it from starting more until the release; a lost link disables every queue with
QERR 2, and a trained one is up in a mode that R370 lists alone; a posted operation sends the bytes of its region, an arriving write stores them, a read request answers them, and
an ECN mark is answered with one notification. -/
def Sys2Proof.Rules.AbortAndEthernetEvents : Prop :=
  (∀ (a : Asid) (s : State), s.hub.boot.minimal = false → (s.hub.cmds.map (·.seq)).Nodup →
    (∃ t, exec (.abortHold 0 a) s = .next t ∧ (t.ctxRec a).hold = true ∧ (∀ c ∈ t.hub.cmds, c.asid = a → c.state ≠ 2)
        ∧ (∀ g ∈ t.hub.grids, g.asid = a → g.done = true ∨ g.killed = true)
        ∧ (∀ c ∈ s.hub.cmds, c.asid = a → c.state = 2 → ∃ c' ∈ t.hub.cmds, c'.seq = c.seq ∧ c'.state = 5 ∧ c'.status = 0x14))
    ∧ (∃ t, exec (.abortRelease 0 a) s = .next t ∧ (t.ctxRec a).hold = false ∧ t.hub.cmds = s.hub.cmds ∧ t.hub.grids = s.hub.grids ∧ t.mem = s.mem))
  ∧ (∀ s : State, ∃ t, exec .hostLinkLoss s = .next t ∧ t.hub.linkUp = false ∧ t.hub.cmds = s.hub.cmds ∧ t.cores = s.cores
      ∧ ∀ q : Fin 256, (t.hub.queues[q]).en = false ∧ (t.hub.queues[q]).dis = true ∧ (t.hub.queues[q]).qerr = 2)
  ∧ (∀ s : State, exec (.hostLinkTrain none) s = .next (s.modHub fun h => { h with link := none }))
  ∧ (∀ (m : LinkMode) (s : State),
    let listed : Prop := (m.lanes = 16 ∨ m.lanes = 8) ∧ (m.rate = 64 ∨ m.rate = 32) ∧ m.flit = 256
    (listed → exec (.hostLinkTrain (some m)) s = .next (s.modHub fun h => { h with link := some m }))
    ∧ (¬ listed → exec (.hostLinkTrain (some m)) s = .next (s.modHub fun h => { h with link := none })))
  ∧ (∀ (o : RoceOp) (s : State) (ps : List PLoc) (bs : List Byte) (u : State), regionPlaces s o.asid o.key o.va o.len .read = some ps →
    homeBytes s (slotKey s o.key) ps = ((bs, false), u) →
    let sent (b : List Byte) (m : Option W32) := u.modHub fun h => { h with eth := { h.eth with sent := h.eth.sent ++ [(o.peer, b, m)] } }
    exec (.roceSend o) s = .next (sent bs none) ∧ exec (.rdmaWrite o) s = .next (sent bs none)
      ∧ exec (.rdmaWriteImm o) s = .next (sent bs (some o.imm)))
  ∧ (∀ (o : RoceOp) (s : State) (ps : List PLoc), regionPlaces s o.asid o.key o.va o.len .write = some ps →
    exec (.rdmaRead o) s = .next (s.modHub fun h => { h with eth := { h.eth with sent := h.eth.sent ++ [(o.peer, [], none)] } }))
  ∧ (∀ (o : RoceOp) (s : State), regionPlaces s o.asid o.key o.va o.len .read = none →
    exec (.roceSend o) s = .next s ∧ exec (.rdmaWrite o) s = .next s ∧ exec (.rdmaWriteImm o) s = .next s)
  ∧ (∀ (port : Fin 4) (a : Asid) (key : BitVec 10) (va : Nat) (bs : List Byte) (ecn : Bool) (s : State) (ps : List PLoc),
    regionPlaces s a key va bs.length .write = some ps →
    let u := if ecn then s.modHub fun h => { h with eth := { h.eth with cnps := h.eth.cnps + 1 } } else s
    exec (.roceReceive port (.write a key va bs ecn)) s = .next (writeBytes (remoteStore a (slotKey u key)) u ps bs)
      ∧ exec (.roceReceive port (.readResp a key va bs ecn)) s = .next (writeBytes (remoteStore a (slotKey u key)) u ps bs))
  ∧ (∀ (port : Fin 4) (k : Fin 8) (s : State), ∃ t u, exec (.roceReceive port (.pause k)) s = .next t ∧ exec (.roceReceive port (.resume k)) s = .next u
      ∧ (t.hub.eth.paused[port]).getLsbD k.val = true ∧ (u.hub.eth.paused[port]).getLsbD k.val = false
      ∧ (∀ p : Fin 4, p ≠ port → t.hub.eth.paused[p] = s.hub.eth.paused[p]) ∧ t.mem = s.mem ∧ u.mem = s.mem)

/-- NodeEvents, SessionEvents: the parts above together. -/
def Obligations.NodeAndSessionEvents : Prop :=
  Sys2Proof.Rules.NodeEvents ∧ Sys2Proof.Rules.SessionEvents

/-- RemoteEvents, AbortAndEthernetEvents: the parts above together. -/
def Obligations.RemoteAndAbortEvents : Prop :=
  Sys2Proof.Rules.RemoteEvents ∧ Sys2Proof.Rules.AbortAndEthernetEvents

/-! ## Register writes, translation and the debugger (R6, R7, R372, R382, R384, R386, R391 to R393, R399, R421, R455) -/

/-- A driver's write of a register (R6, R7, R455): a reserved bit, a state in which it cannot be written or a value out of
range refuses it whole, with one record of cause 1, 4 or 3; otherwise it takes effect, and a differing value for a field that
is not the writer's adds one record of cause 2. -/
def Obligations.RegisterWriteRule : Prop :=
  ∀ (s : State) (r : RegView) (v : W64) (busy range : Bool) (f : State → State),
    let refused (c : Nat) := regWrite s r v busy range f = logRefusal s r.off c r.src v.toNat
    (v &&& r.rsv ≠ 0 → refused 1)
    ∧ (v &&& r.rsv = 0 → busy = true → refused 4)
    ∧ (v &&& r.rsv = 0 → busy = false → range = false → refused 3)
    ∧ (v &&& r.rsv = 0 → busy = false → range = true → (∀ k < 64, r.ro.getLsbD k = true → v.getLsbD k = r.cur.getLsbD k) → regWrite s r v busy range f = f s)
    ∧ (v &&& r.rsv = 0 → busy = false → range = true → (∃ k < 64, r.ro.getLsbD k = true ∧ v.getLsbD k ≠ r.cur.getLsbD k) →
        regWrite s r v busy range f = logRefusal (f s) r.off 2 r.src v.toNat)

namespace Sys2Proof.Rules
open Sys2Proof Sys2Proof.Machine

/-- The write is refused: one record more and nothing else. -/
def Refused (i : Instr) (s : State) : Prop :=
  ∃ t, exec i s = .next t ∧ t.hub.mgmt.errNo = s.hub.mgmt.errNo + 1 ∧ t = s.modMgmt fun _ => t.hub.mgmt
/-- It takes effect: beside the log, the state becomes u. -/
def Written (i : Instr) (s u : State) : Prop := ∃ m, exec i s = .next (u.modMgmt fun _ => m)

end Sys2Proof.Rules

/-- Writes of registers with a rule of their own: JLOW rises only, to at most JSEQ and the lowest command that is not final
(R382); CTXBASE changes only with no command accepted or started, to a multiple of 192 inside DWIN (R386); QCFG's other
fields stay while EN = 1 (R372); the staging registers take SWAYS to 8 and STGMIN from 16 to 512, a way within the
count that is no staging way yet is taken from demand use, and one above it leaves staging unless it holds a staged line (R76,
R384); KSQRY answers the
slot written (R421). -/
def Sys2Proof.Rules.RegistersWithRules : Prop :=
  (∀ (v : W64) (s : State), s.hub.boot.minimal = false →
    let ok : Prop := s.hub.jlow.toNat ≤ v.toNat ∧ v.toNat ≤ s.hub.jseq.toNat ∧ ∀ c ∈ s.hub.cmds, c.state.toNat < 3 → v.toNat ≤ c.seq.toNat
    (ok → exec (.jlowWrite v) s = .next (s.modHub fun h => { h with jlow := v })) ∧ (¬ ok → Rules.Refused (.jlowWrite v) s))
  ∧ (∀ (v : W64) (s : State),
    let ok : Prop := v.toNat / 2 ^ 40 = 0 ∧ (∀ c ∈ s.hub.cmds, 3 ≤ c.state.toNat) ∧ v.toNat % 192 = 0 ∧ v.toNat + 262144 ≤ 2 ^ 39
    (ok → exec (.ctxbaseWrite v) s = .next (s.modHub fun h => { h with ctxbase := v.setWidth 40 })) ∧ (¬ ok → Rules.Refused (.ctxbaseWrite v) s))
  ∧ (∀ (q : Fin 256) (v : W64) (s : State), s.hub.boot.minimal = false → let x := s.hub.queues[q]
    let bad : Prop := v.toNat / 2 ^ 32 ≠ 0 ∨ v.toNat / 2 ^ 12 % 16 ≠ 0
      ∨ (x.en = true ∧ ∃ k < 64, k ≠ 31 ∧ v.getLsbD k ≠ x.cfg.getLsbD k) ∨ v.toNat / 2 ^ 26 % 16 < 4
    (bad → Rules.Refused (.qcfgWrite q v) s)
    ∧ (¬ bad → v.getLsbD 31 = false → ∃ t, exec (.qcfgWrite q v) s = .next t ∧ t.hub.queues[q] = { x with
          en := false, loc := v.getLsbD 30, lsize := v.extractLsb' 26 4, pmax := v.extractLsb' 23 3, vecen := v.getLsbD 22, vec := v.extractLsb' 16 6
          asid := v.setWidth 12 }
        ∧ t.mem = s.mem ∧ t.cores = s.cores)
    ∧ (¬ bad → v.getLsbD 31 = true → ∃ t, exec (.qcfgWrite q v) s = .next t ∧ (t.hub.queues[q]).head = x.head ∧ (t.hub.queues[q]).asid = v.setWidth 12
        ∧ (t.hub.queues[q]).lsize = v.extractLsb' 26 4
        ∧ ((t.hub.queues[q]).en = true ∧ (t.hub.queues[q]).qerr = 0 ∨ (t.hub.queues[q]).en = false ∧ (t.hub.queues[q]).dis = true)))
  ∧ (∀ (d : Fin 4) (v : W64) (s : State), let x := s.dies[d]
    let ways := v.toNat / 2 ^ 12 % 16
    let least := v.toNat % 2 ^ 11
    let ok : Prop := v.toNat / 2 ^ 40 = 0 ∧ v.getLsbD 11 = false ∧ ways ≤ 8 ∧ 16 ≤ least ∧ least ≤ 512
    (¬ ok → Rules.Refused (.stagingConfigWrite d v) s)
    ∧ (ok → ∃ t, exec (.stagingConfigWrite d v) s = .next t ∧ (t.dies[d]).sways.toNat = ways ∧ (t.dies[d]).stgmin.toNat = least
        ∧ (t.dies[d]).stgbud = v.extractLsb' 16 24 
        ∧ (∀ w : Fin 16, (t.dies[d]).blocked.getLsbD w.val = (decide (16 ≤ w.val + ways) && (x.blocked.getLsbD w.val || !x.staging.getLsbD w.val)))
        ∧ (∀ w : Fin 16, (t.dies[d]).staging.getLsbD w.val = true ↔ x.staging.getLsbD w.val = true
            ∧ (16 ≤ w.val + ways ∨ ∃ y ∈ x.ways, y.way = w.val ∧ y.own ≠ []))
        ∧ (t.dies[d]).l2 = x.l2 ∧ (∀ k : Fin 4, k ≠ d → t.dies[k] = s.dies[k]) ∧ t.mem = s.mem ∧ t.cores = s.cores))
  ∧ (∀ (v : W64) (s : State), let x := s.hub.kslots[(v.setWidth 10).toFin]
    ∃ t, exec (.ksqry v) s = .next t ∧ t.hub.ksqry.toNat % 1024 = v.toNat % 1024 ∧ t.hub.ksqry.toNat / 2 ^ 20 = x.asid.toNat
      ∧ (v.toNat % 1024 ≠ 0 → t.hub.ksqry.toNat / 2 ^ 16 % 4 = x.state.toNat) ∧ t.hub.kslots = s.hub.kslots ∧ t.mem = s.mem)

/-- REGISTER_WRITE (R6, R7, R455): an offset without a register, and a width that the register does not have, change nothing
and are logged with cause 7; a register that no agent writes keeps its value, silently for an equal one and with a record
otherwise; QBASE and QTAILA are refused while EN = 1 unless the value is equal; SCHEDCFG takes a value whose reserved bits
are zero and whose HACT is not 3. No register of BAR2 is stated (log entry 98). A
read of 8 bytes returns the register's word, and zero where there is none. -/
def Sys2Proof.Rules.RegisterWrites : Prop :=
  (∀ (off size : Nat) (v : W64) (m : RegSource) (s : State), regAt s off = none →
    exec (.registerWrite (.bar0 off) v size m) s = .next (logRefusal s off 7 (srcOf m) v.toNat))
  ∧ (∀ (off size : Nat) (v : W64) (m : RegSource) (s : State), size ≠ 8 → (size ≠ 4 ∨ off ∉ [0x0230, 0x0238, 0x0380]) →
    exec (.registerWrite (.bar0 off) v size m) s = .next (logRefusal s off 7 (srcOf m) v.toNat))
  ∧ (∀ (off : Nat) (cur rsv v : W64) (m : RegSource) (s : State), regAt s off = some (.ro cur rsv) → narrowReg off = false →
    (v = cur → v &&& rsv = 0 → exec (.registerWrite (.bar0 off) v 8 m) s = .next s)
    ∧ (∃ t, exec (.registerWrite (.bar0 off) v 8 m) s = .next t ∧ t = s.modMgmt fun _ => t.hub.mgmt))
  ∧ (∀ (q : Fin 256) (v : W64) (m : RegSource) (s : State), let x := s.hub.queues[q]
    let off := 0x1000 + 0x20 * q.val
    (v.toNat % 256 = 0 → (x.en = false ∨ v = x.qbase) →
      exec (.registerWrite (.bar0 off) v 8 m) s = .next (s.modQueue q fun x => { x with qbase := v }))
    ∧ ((v.toNat % 256 ≠ 0 ∨ (x.en = true ∧ v ≠ x.qbase)) → Rules.Refused (.registerWrite (.bar0 off) v 8 m) s)
    ∧ (v.toNat % 128 = 0 → (x.en = false ∨ v = x.qtaila) →
      exec (.registerWrite (.bar0 (off + 8)) v 8 m) s = .next (s.modQueue q fun x => { x with qtaila := v })))
  ∧ (∀ (c : CoreId) (v : W64) (m : RegSource) (s : State), let off := 0x4000 + 0x40 * c.val
    let ok : Prop := v.toNat / 2 ^ 32 = 0 ∧ v.getLsbD 29 = false ∧ v.toNat % 2 ^ 15 = 0 ∧ v.toNat / 2 ^ 30 % 4 ≠ 3
    (ok → exec (.registerWrite (.bar0 off) v 8 m) s = .next (s.modCore c fun k => { k with schedcfg := v.setWidth 32 }))
    ∧ (¬ ok → Rules.Refused (.registerWrite (.bar0 off) v 8 m) s))
  ∧ (∀ (off size : Nat) (v : W64) (m : RegSource) (s : State),
    exec (.registerWrite (.bar2 off) v size m) s = .next (logRefusal s off 7 (srcOf m) v.toNat))
  ∧ (∀ (off : Nat) (s : State) (rest : List Turn), s.agenda = .barRead (.bar0 off) 8 :: rest → s.off = false → off % 8 = 0 →
    let s' : State := { s with agenda := rest }
    step s = .next (s'.modHub fun h => { h with readout := ((regAt s' off).map fun r => r.word s').getD 0 }))

/-- TLBINV, FRRESP and DBGRES (R391, R393, R399): an invalidation is refused while one runs; it is done when every store of the
context has been performed at PKG scope (log entry 97), and then no TLB of the package holds a matching entry and every other one stands; a retry of a pending entry frees everything that waits for it
to walk again; an abort faults the context with PAGE_FAULT and leaves no access waiting; a response for an entry that is not
pending is logged and has no effect; DBGRES frees a context that a breakpoint stopped, and is refused for another. -/
def Obligations.TranslationEvents : Prop :=
  (∀ (va : BitVec 41) (a : Asid) (s : State), s.hub.boot.minimal = false →
    (s.hub.tlbBusy = none → exec (.tlbinvPage va 0 a) s = .next (s.modHub fun h => { h with tlbBusy := some (0, va, a) })
      ∧ exec (.tlbinvAsid va 0 a) s = .next (s.modHub fun h => { h with tlbBusy := some (1, va, a) })
      ∧ exec (.tlbinvAll va 0 a) s = .next (s.modHub fun h => { h with tlbBusy := some (2, va, a) }))
    ∧ (∀ rsv : BitVec 9, (rsv ≠ 0 ∨ s.hub.tlbBusy ≠ none) →
        Rules.Refused (.tlbinvPage va rsv a) s ∧ Rules.Refused (.tlbinvAsid va rsv a) s ∧ Rules.Refused (.tlbinvAll va rsv a) s))
  ∧ (∀ s : State, s.hub.tlbBusy = none → exec .tlbinvDone s = .next s)
  ∧ (∀ (s : State) (sz : BitVec 2) (va : BitVec 41) (a : Asid), s.hub.tlbBusy = some (sz, va, a) → tlbOpen s sz a = true →
    exec .tlbinvDone s = .next s)
  ∧ (∀ (s : State) (sz : BitVec 2) (va : BitVec 41) (a : Asid), s.hub.tlbBusy = some (sz, va, a) → tlbOpen s sz a = false →
    let named (e : TlbEntry) : Prop := sz = 2 ∨ (e.asid = a ∧ (sz = 1 ∨ e.va / pageSize e.size = va.toNat * 65536 / pageSize e.size))
    ∃ t, exec .tlbinvDone s = .next t ∧ t.hub.tlbBusy = none ∧ t.mem = s.mem
      ∧ (∀ (c : CoreId) e, e ∈ (t.cores[c]).tlb ↔ e ∈ (s.cores[c]).tlb ∧ ¬ named e)
      ∧ (∀ (d : Fin 4) e, e ∈ (t.dies[d]).tlb ↔ e ∈ (s.dies[d]).tlb ∧ ¬ named e))
  ∧ (∀ (id : W32) (s : State), s.hub.boot.minimal = false → (∀ f ∈ s.hub.faults, f.id = id → f.logged = false) →
      Rules.Refused (.frrespRetry id 0) s ∧ Rules.Refused (.frrespAbort id 0) s)
  ∧ (∀ (id : W32) (s : State) (f : RingFault), s.hub.boot.minimal = false → s.hub.faults = [f] → f.id = id → f.logged = true →
    (∀ (c : CoreId) (n : Slot), (s.grp c n).waitsFor id = false) →
    exec (.frrespRetry id 0) s = .next (faultRetry id (logFaults (s.modHub fun h => { h with faults := [] })))
    ∧ (∃ t, exec (.frrespRetry id 0) s = .next t ∧ t.hub.faults = [] ∧ (∀ (c : CoreId) (n : Slot), (t.grp c n).fetch ≠ some id)
      ∧ ∀ (c : CoreId) r, (t.comp c r).fault = if (s.comp c r).fault = some id then none else (s.comp c r).fault)
    ∧ (∃ t, exec (.frrespAbort id 0) s = .next t ∧ t.hub.faults = [] ∧ (t.ctxRec f.asid).flogs = (s.ctxRec f.asid).flogs + 1
      ∧ ∀ g ∈ t.hub.grids, g.asid = f.asid → g.done = true ∨ g.killed = true))
  ∧ (∀ (v : W64) (s : State), s.hub.boot.minimal = false → let a : Asid := v.setWidth 12
    (v.toNat / 2 ^ 12 = 0 → (s.ctxRec a).debug = true → exec (.dbgres v) s = .next (s.modCtxRec a fun c => { c with debug := false }))
    ∧ ((v.toNat / 2 ^ 12 ≠ 0 ∨ (s.ctxRec a).debug = false) → Rules.Refused (.dbgres v) s))

/-- RegistersWithRules, RegisterWrites: the parts above together. -/
def Obligations.RegisterEvents : Prop :=
  Sys2Proof.Rules.RegistersWithRules ∧ Sys2Proof.Rules.RegisterWrites

/-! ## The management interface (R420, R421, R435, R451, R452, R455, R457) -/

namespace Sys2Proof.Rules
open Sys2Proof Sys2Proof.Machine

/-- The request is answered with these bytes; nothing is logged, and nothing outside the management interface changes. -/
def Answers (i : Instr) (s : State) (bs : List Byte) : Prop :=
  ∃ t, exec i s = .next t ∧ t.hub.mgmt.resp = bs ∧ t.hub.mgmt.errs = s.hub.mgmt.errs ∧ t.hub.mgmt.errNo = s.hub.mgmt.errNo
    ∧ t = s.modMgmt fun _ => t.hub.mgmt
/-- The request completes with an error code: one record more in the error log, and nothing else. -/
def RefusedWith (i : Instr) (s : State) (code : Byte) : Prop :=
  ∃ t, exec i s = .next t ∧ t.hub.mgmt.resp = [code] ∧ t.hub.mgmt.errNo = s.hub.mgmt.errNo + 1
    ∧ t.hub.mgmt.latches = s.hub.mgmt.latches ∧ t.hub.mgmt.sessions = s.hub.mgmt.sessions ∧ t = s.modMgmt fun _ => t.hub.mgmt
/-- The 48 bytes at an address under the system key, or the code of poisoned media. -/
def recordOr (s : State) (t : MTgt) (pa : Nat) : List Byte :=
  match sectorRead s t pa with | some bs => 0x00 :: bs | none => [0x80]

end Sys2Proof.Rules

/-- The Olbel commands of R452, in full and in minimal mode: RDCTR reads a counter whole, or by halves with the high half
latched for its requester (R435); RDJRNL reads records from JLOW up and below JSEQ; RDFLOG the record in slot k modulo the
size of the log; RDERR one of the latest 256 records (R455); RDSTAT four registers; CLRSTART clears STARTCNT (R457). A
request out of range completes with ERROR_INVALID_DATA and one record of cause 6 (R451). The codes' numbers other than 0x80
are the model's (log entry 48). -/
def Sys2Proof.Rules.ManagementCommands : Prop :=
  (∀ (src : Requester) (s : State), s.hub.boot.minimal = false →
    (∀ (sel : BitVec 8) (idx : BitVec 16) (w : BitVec 8) (v : W64),
      ((sel = 0 ∧ idx.toNat < 4096 ∧ v = (s.ctxRec (idx.setWidth 12)).energy) ∨ (sel = 1 ∧ idx.toNat < 4096 ∧ v = (s.ctxRec (idx.setWidth 12)).undecl)
        ∨ (sel = 2 ∧ idx.toNat < 16 ∧ v = (s.hub.clusters[Fin.ofNat 16 idx.toNat]).eclu) ∨ (sel = 3 ∧ v = s.hub.esys)) →
      Rules.Answers (.rdctr src sel idx 0) s (0x00 :: bytesLE 8 v.toNat)
      ∧ Rules.Answers (.rdctr src sel idx 1) s (0x00 :: bytesLE 4 (v.toNat % 2 ^ 32))
      ∧ (∀ t, exec (.rdctr src sel idx 1) s = .next t → ∀ u : State, u.hub.boot.minimal = false → u.hub.mgmt.latches = t.hub.mgmt.latches →
          Rules.Answers (.rdctr src sel idx 2) u (0x00 :: bytesLE 4 (v.toNat / 2 ^ 32)))
      ∧ ((∀ l ∈ s.hub.mgmt.latches, ¬ (l.1 = src ∧ l.2.1 = sel ∧ l.2.2.1 = if sel = 3 then 0 else idx)) →
          Rules.Answers (.rdctr src sel idx 2) s (0x00 :: bytesLE 4 (v.toNat / 2 ^ 32)))
      ∧ (3 ≤ w.toNat → Rules.RefusedWith (.rdctr src sel idx w) s 0x02))
    ∧ (∀ (sel : BitVec 8) (idx : BitVec 16) (w : BitVec 8), (4 ≤ sel.toNat ∨ (sel.toNat < 2 ∧ 4096 ≤ idx.toNat) ∨ (sel = 2 ∧ 16 ≤ idx.toNat)) →
      Rules.RefusedWith (.rdctr src sel idx w) s 0x02)
    ∧ (∀ (seq : W64) (count : Nat),
      let ok : Prop := 1 ≤ count ∧ count ≤ 16 ∧ s.hub.jlow.toNat ≤ seq.toNat ∧ seq.toNat + count ≤ s.hub.jseq.toNat
      let rec' (i : Nat) := sectorRead s .pst (densePa (s.hub.boot.jbase.toNat + 48 * ((seq.toNat + i) % 2 ^ s.hub.boot.lj.toNat)))
      (¬ ok → Rules.RefusedWith (.rdjrnl src seq count) s 0x02)
      ∧ (∀ rs : List (List Byte), ok → (List.range count).map rec' = rs.map some → Rules.Answers (.rdjrnl src seq count) s (0x00 :: rs.flatten))
      ∧ (ok → (∃ i < count, rec' i = none) → Rules.Answers (.rdjrnl src seq count) s [0x80]))
    ∧ (∀ (asid : BitVec 16) (k : W32), let d := (s.ctxRec (asid.setWidth 12)).desc
      (asid.toNat < 4096 → Rules.Answers (.rdflog src asid k) s
        (Rules.recordOr s .dram (pitch (d.extractLsb' 64 57).toNat (48 * (k.toNat % 2 ^ (6 + (d.extractLsb' 121 4).toNat))))))
      ∧ (4096 ≤ asid.toNat → Rules.RefusedWith (.rdflog src asid k) s 0x02)))
  ∧ (∀ (src : Requester) (k : W32) (s : State), let m := s.hub.mgmt
    (∀ r, k.toNat < m.errNo → m.errNo ≤ k.toNat + 256 → m.errs[m.errNo - 1 - k.toNat]? = some r →
      Rules.Answers (.rderr src k) s (0x00 :: bytesLE 16 r.toNat))
    ∧ ((m.errNo ≤ k.toNat ∨ k.toNat + 256 < m.errNo) → Rules.RefusedWith (.rderr src k) s 0x02))
  ∧ (∀ (src : Requester) (s : State),
    Rules.Answers (.rdstat src) s (0x00 :: (bytesLE 4 (minWord s.hub.boot).toNat ++ bytesLE 8 (snapWord s.hub).toNat
      ++ bytesLE 8 (domWord s.hub).toNat ++ bytesLE 8 (pdcfgWord s.hub).toNat))
    ∧ ∃ t, exec (.clrstart src) s = .next t ∧ t.hub.boot = { s.hub.boot with startcnt := 0, reason := 0, stage := 0 }
        ∧ t.hub.mgmt = { s.hub.mgmt with resp := [0x00] } ∧ t.mem = s.mem ∧ t.cores = s.cores ∧ t.hub.cmds = s.hub.cmds)
  ∧ (∀ (src : Requester) (s : State), s.hub.boot.minimal = true →
    (∀ sel idx w, Rules.RefusedWith (.rdctr src sel idx w) s 0x04) ∧ (∀ seq count, Rules.RefusedWith (.rdjrnl src seq count) s 0x04)
    ∧ ∀ asid k, Rules.RefusedWith (.rdflog src asid k) s 0x04)

/-- PLDM (R451, R457): the answers of types 0, 2 and 4 are the device's own and change nothing but the answer, none in minimal
mode; a firmware update goes into the slot that does not hold the highest verified version, and one that is interrupted or
fails either signature leaves that slot failing stage 2. -/
def Sys2Proof.Rules.PldmRequests : Prop :=
  (∀ (req : List Byte) (s : State), ∀ i ∈ [Instr.pldmBase req, .pldmMonitoring req, .pldmFruData req],
    ∃ t, exec i s = .next t ∧ t = { s.modMgmt fun m => { m with resp := t.hub.mgmt.resp } with fresh := t.fresh }
      ∧ (s.hub.boot.minimal = true → t.hub.mgmt.resp = []))
  ∧ (∀ (image : List Byte) (version : Nat) (sigs : Signed) (interrupted : Bool) (s : State), let b := s.hub.boot
    let good := sigs.ed25519 && sigs.mldsa65 && !interrupted
    ∃ t, exec (.pldmFirmwareUpdate image version sigs interrupted) s = .next t ∧ t.mem = s.mem ∧ t.hub.mgmt.resp = [0x00]
      ∧ (b.badA = false → (b.badB = true ∨ b.verB ≤ b.verA) → t.hub.boot = { b with verB := version, badB := !good, imgB := image })
      ∧ ((b.badA = true ∨ (b.badB = false ∧ b.verA < b.verB)) → t.hub.boot = { b with verA := version, badA := !good, imgA := image }))

/-- SPDM (R420): GET_VERSION begins a transcript, and every further request enters it; algorithms other than R420's are not
agreed on; certificate slots 0 and 1 and the measurements listed are answered, in minimal mode measurement 1 alone (R457);
KEY_EXCHANGE begins a session that FINISH secures or ends, and END_SESSION ends it. Keys (R421): a tenant's request loads
or erases a slot only inside a secured session, never slot 0, and not while the slot's context has a started command; a
slot erased holds no key. A request out of range, or refused, answers ERROR_INVALID_DATA and is logged (R451, R455). -/
def Obligations.SpdmAndKeys : Prop :=
  (∀ s : State,
    (∃ t, exec .getVersion s = .next t ∧ t.hub.mgmt = { s.hub.mgmt with transcript := [0x84], resp := [0x00, 0x13] } ∧ t.mem = s.mem)
    ∧ (∃ t, exec .getCapabilities s = .next t ∧ t.hub.mgmt.transcript = 0xE1 :: s.hub.mgmt.transcript ∧ t.hub.mgmt.resp.head? = some 0x00)
    ∧ (Rules.Answers .getDigests s (0x00 :: (bytesLE 48 (Config.digest 0 (chain s.hub.boot 0)).toNat
        ++ bytesLE 48 (Config.digest 0 (chain s.hub.boot 1)).toNat))))
  ∧ (∀ (offered : List Nat) (s : State),
    ((∀ a ∈ [1, 2, 3, 4], a ∈ offered) → Rules.Answers (.negotiateAlgorithms offered) s [0x00, 1, 2, 3, 4])
    ∧ ((∃ a ∈ [1, 2, 3, 4], a ∉ offered) → Rules.RefusedWith (.negotiateAlgorithms offered) s 0x02))
  ∧ (∀ (slot nonce : Nat) (s : State),
    (slot < 2 → Rules.Answers (.getCertificate slot) s (0x00 :: Config.certificate slot (if s.hub.boot.minimal then none else some s.hub.boot.fw))
      ∧ Rules.Answers (.challenge slot nonce) s
          (0x00 :: Config.signature slot (if s.hub.boot.minimal then none else some s.hub.boot.fw) (0x83 :: slot :: nonce :: s.hub.mgmt.transcript)))
    ∧ (2 ≤ slot → Rules.RefusedWith (.getCertificate slot) s 0x02 ∧ Rules.RefusedWith (.challenge slot nonce) s 0x02))
  ∧ (∀ (n : BitVec 8) (s : State), let b := s.hub.boot
    Rules.Answers (.getMeasurements 1) s (0x00 :: bytesLE 48 (Config.digest 1 []).toNat)
    ∧ (b.minimal = true → n ≠ 1 → Rules.RefusedWith (.getMeasurements n) s 0x02)
    ∧ (b.minimal = false →
      Rules.Answers (.getMeasurements 2) s (0x00 :: bytesLE 48 (Config.digest 0 b.fw).toNat)
      ∧ (n ∈ [3, 4] → Rules.Answers (.getMeasurements n) s (0x00 :: bytesLE 48 (Config.digest n.toNat b.fw).toNat))
      ∧ Rules.Answers (.getMeasurements 5) s (0x00 :: bytesLE 8 (pdcfgWord s.hub).toNat)
      ∧ Rules.Answers (.getMeasurements 0xFD) s (0x00 :: Config.signature 1 (some b.fw) (0xE0 :: 0xFD :: s.hub.mgmt.transcript))
      ∧ (n ∉ [1, 2, 3, 4, 5, 0xFD] → Rules.RefusedWith (.getMeasurements n) s 0x02)))
  ∧ (∀ (share n : Nat) (verifies : Bool) (s : State), let m := s.hub.mgmt
    (∃ t, exec (.keyExchange share) s = .next t ∧ t.hub.mgmt.sessions = (m.sessNo, false) :: m.sessions ∧ t.hub.mgmt.sessNo = m.sessNo + 1
      ∧ t.hub.mgmt.resp.take 5 = 0x00 :: bytesLE 4 m.sessNo)
    ∧ (∀ k r, m.sessions = (k, false) :: r → ∃ t, exec (.spdmFinish verifies) s = .next t
        ∧ t.hub.mgmt.sessions = if verifies then (k, true) :: r else r)
    ∧ (∃ t, exec (.endSession n) s = .next t ∧ (∀ x, x ∈ t.hub.mgmt.sessions ↔ x ∈ m.sessions ∧ x ≠ (n, true))
        ∧ (t.hub.mgmt.resp = [0x00] ↔ (n, true) ∈ m.sessions)))
  ∧ (∀ (session key : Nat) (slot : BitVec 10) (a : Asid) (proto : Fin 3) (s : State), let x := s.hub.kslots[slot.toFin]
    let inside : Prop := s.hub.boot.minimal = false ∧ (session, true) ∈ s.hub.mgmt.sessions
    let started (a : Asid) : Prop := ∃ c ∈ s.hub.cmds, c.asid = a ∧ c.state = 2
    let held : Prop := x.state ≠ 0 ∧ started x.asid
    (inside → slot ≠ 0 → ¬ started a → ¬ held → ∃ t, exec (.keySlotLoad session slot a key) s = .next t
      ∧ t.hub.kslots = vset s.hub.kslots slot.toFin { x with state := 1, asid := a, key := some key, gen := (t.hub.kslots[slot.toFin]).gen }
      ∧ ((t.hub.kslots[slot.toFin]).gen = x.gen ↔ x.key = some key) ∧ t.hub.mgmt.resp = [0x00] ∧ t.mem = s.mem)
    ∧ ((¬ inside ∨ slot = 0 ∨ started a ∨ held) → Rules.RefusedWith (.keySlotLoad session slot a key) s 0x02)
    ∧ (inside → slot ≠ 0 → ¬ held → ∃ t, exec (.keySlotErase session slot) s = .next t
      ∧ t.hub.kslots = vset s.hub.kslots slot.toFin { gen := x.gen } ∧ t.hub.mgmt.resp = [0x00] ∧ t.mem = s.mem)
    ∧ ((¬ inside ∨ slot = 0 ∨ held) → Rules.RefusedWith (.keySlotErase session slot) s 0x02)
    ∧ (inside → ∃ t, exec (.ideKeySet session proto key) s = .next t ∧ t.hub.mgmt = { s.hub.mgmt with ide := t.hub.mgmt.ide, resp := [0x00] }
      ∧ t.hub.mgmt.ide[proto] = some key ∧ ∀ p : Fin 3, p ≠ proto → t.hub.mgmt.ide[p] = s.hub.mgmt.ide[p])
    ∧ (¬ inside → Rules.RefusedWith (.ideKeySet session proto key) s 0x02))

/-- ManagementCommands, PldmRequests: the parts above together. -/
def Obligations.ManagementRequests : Prop :=
  Sys2Proof.Rules.ManagementCommands ∧ Sys2Proof.Rules.PldmRequests

/-! ## Words, the step, and reset (R7, R157, R186 to R195, R334, R336, R407) -/

/-- Words written out field by field from the tables of R186 to R190, R195 and R336 decode to the instructions they stand
for; an opcode that is not assigned and a field value that R192 refuses are refused by name. -/
def Obligations.DecodedWords : Prop :=
  let h : Hd := ⟨false, 7, false, 7⟩
  let z : Low := ⟨false, false, false, 0⟩
  decode 0x960403020101DC0D = .ok (.lop ⟨h, z, 1, 2, 3, 4, 0x96⟩)
  ∧ decode 0xFFFFFB0A1481DC01 = .ok (.iaddI24 ⟨h, { z with b23 := true }, 20, 10, 0xFFFFFB⟩)
  ∧ decode 0x020003020105DC80 = .ok (.fadd ⟨h, { z with m := 1 }, 1, 2, 3, 0, 2⟩)
  ∧ decode 0x040200050601DD06 = .ok (.qnt ⟨h, z, 6, 5, 0, 2, 4⟩)
  ∧ decode 0x0D01010506C1DD40 = .ok (.shfl ⟨h, { z with b23 := true, b22 := true }, 6, 5, 1, 1, 0x0D⟩)
  ∧ decode 0x001008440D882980 = .ok (.ld ⟨⟨false, 0, true, 2⟩, { z with b23 := true, m := 2 }, 13, 1, 4, 8, 16⟩)
  ∧ decode 0x0B09080205005E00 = .ok (.atom ⟨⟨false, 1, false, 7⟩, 0, 5, 0, 2, 8, 9, 0, false, 1, 3⟩)
  ∧ decode 0x110000030001DE42 = .ok (.barw ⟨h, z, 0, 3, 0, 0, 0x11⟩)
  ∧ decode 0xFFFFFFF00001C680 = .ok (.bra ⟨⟨false, 7, false, 1⟩, z, 0, 0xFFFFFFF0⟩)
  ∧ decode 0x0202141002009EC0 = .ok (.qmma ⟨⟨false, 2, false, 7⟩, z, 2, 16, 20, 2, 2⟩)
  ∧ decode 0x06940703C6030F00 = .ok (.cpt ⟨⟨true, 4, false, 3⟩, 0, 0, true, true, 6, 0, 3, 0, 7, 2, 20, 3⟩)
  ∧ decode 0x000000000003CF43 = .ok (.rte ⟨⟨true, 7, false, 3⟩, z, 0, 0, 0, 0, 0⟩)
  ∧ decode 0x000000000001DC20 = .error .illegalOpcode ∧ decode 0x000000000101DC00 = .error .illegalField
  ∧ decodeK 0x0005850B = .ok (.kcpt ⟨10, 11⟩, 4) ∧ decodeK 0x0262B02B = .ok (.krgget ⟨true, 5, 6⟩, 4)
  ∧ decodeK 0x0000702B = .error .illegalOpcode

/-- Decode and encode agree for group words (R186 to R190, R195): every well-formed instruction that has a word is what
decoding its word gives, and every word that decodes is the word of its instruction, so that no bit of it is dropped. -/
def Obligations.GroupWordsRoundTrip : Prop :=
  (∀ (i : Instr) (w : W64), encode i = some w → i.wf = true → decode w = .ok i)
  ∧ (∀ (i : Instr) (w : W64), decode w = .ok i → i.wf = true ∧ encode i = some w)

/-- Decode and encode agree for 32-bit companion words (R334, R336): every well-formed instruction that has one is what
decoding it gives, of length 4, and every 32-bit word that decodes is the word of its instruction. The encodings of the
standard instructions are taken from RISC-V (log entry 7). -/
def Obligations.CompanionWordsRoundTrip : Prop :=
  (∀ (i : Instr) (w : W32), encodeK i = some w → i.wf = true → decodeK w = .ok (i, 4))
  ∧ (∀ (i : Instr) (w : W32), decodeK w = .ok (i, 4) → i.wf = true ∧ encodeK i = some w)
  ∧ (∀ (i : Instr) (w : W32) (n : Nat), decodeK w = .ok (i, n) → (n = 4 ∧ w.toNat % 4 = 3) ∨ (n = 2 ∧ w.toNat % 4 ≠ 3))

/-- A step at a group's turn runs the word at the open clause's position (R157, R192): decoded, it is executed as the
instruction it is, with that group as the acting agent; a word without an assigned opcode traps ILLEGAL_OPCODE. A group
that is not resident, parked, asleep, waiting for its code page or past its clause's last instruction does nothing. A turn
of the model's agenda says whether the instruction's accesses are performed at once or in turns of their own (log entry 1). -/
def Sys2Proof.Rules.StepRunsGroupWord : Prop :=
  ∀ (s : State) (c : CoreId) (n : Slot) (rest : List Turn) (later : Bool),
    s.agenda = (if later then .later c n else .group c n) :: rest → s.off = false →
    let g := s.grp c n
    let s' : State := { s with agenda := rest, core := c, agent := .group n, later := later }
    (∀ r : Run, g.resident = true → g.fetch = none → g.block ≠ .parked → (∀ k, g.block ≠ .sleeping k) → g.run = some r →
        r.idx ≤ hdrN r.hdr → let w := r.words.getD r.idx 0
      (∀ i, decode w = .ok i → step s = exec i s')
      ∧ (decode w = .error .illegalOpcode → step s = .next (takeTrap s' c n r.pc r.idx r.lanes (wordTrap 0x01 w))))
    ∧ ((g.resident = false ∨ g.fetch ≠ none ∨ g.block = .parked ∨ (∃ k, g.block = .sleeping k) ∨ g.run = none
        ∨ ∃ r, g.run = some r ∧ hdrN r.hdr < r.idx) → step s = .next s')

/-- A step at a companion core's turn runs the instruction at its pc (R334): 32 bits when the low two are 11, else 16; a word
that is none faults ILLEGAL_OPCODE, and a pc outside the instruction store or odd faults with ACCESS. A core that does not
run, waits or sleeps does nothing. -/
def Sys2Proof.Rules.StepRunsCompanionWord : Prop :=
  ∀ (s : State) (c : CoreId) (r : Role) (rest : List Turn), s.agenda = .companion c r :: rest → s.off = false →
    let k := s.comp c r
    let s' : State := { s with agenda := rest, core := c, agent := .companion r, later := false }
    let runs : Prop := k.running = true ∧ k.fault = none ∧ k.block ≠ .parked ∧ (∀ n, k.block ≠ .sleeping n)
      ∧ (s.cores[c]).stopAt = none ∧ (s.team c k.team).tbHere = true
      ∧ (s.det c = true → (s.hub.clusters[clusterOf c]).fcur = 44)
    let w := wordLE (Memory.read k.imem k.pc.toNat 4)
    (runs → k.pc.toNat % 2 = 0 → k.pc.toNat < 0x10000 → (k.pc.toNat + 4 ≤ 0x10000 ∨ w.toNat % 4 ≠ 3) →
      (∀ i n, decodeK w = .ok (i, n) → step s = exec i { s' with ilen := n })
      ∧ (decodeK w = .error .illegalOpcode →
        step s = .next (companionFault s' c r { cause := 0x01, x1 := if w.toNat % 4 = 3 then w else w &&& 0xFFFF })))
    ∧ (runs → (k.pc.toNat % 2 ≠ 0 ∨ 0x10000 ≤ k.pc.toNat ∨ 0x10000 < k.pc.toNat + 4 ∧ w.toNat % 4 = 3) → step s = .next (companionFault s' c r (accessTrap k.pc)))
    ∧ (¬ runs → step s = .next s')

/-- Any other turn: an event runs as the instruction it is; with nothing to do the package stands still; a package drained
after PFAIL_N stops, and only a start runs (R407). The agenda is the model's (log entry 1). -/
def Sys2Proof.Rules.StepRunsEvents : Prop :=
  (∀ (s : State) (i : Instr) (rest : List Turn), s.agenda = .event i :: rest → s.off = false → fetched i = false →
    step s = exec i { s with agenda := rest })
  ∧ (∀ s : State, s.agenda = [] → s.off = false → step s = .next s)
  ∧ (∀ s : State, s.off = true → (∀ e rest, s.agenda ≠ .event (.startup e) :: rest) → step s = .fault .powerLost)
  ∧ (∀ (s : State) (e : BootEnv) (rest : List Turn), s.agenda = .event (.startup e) :: rest →
      step s = exec (.startup e) { s with agenda := rest })

/-- The values that the register tables give for reset: queues, fault ring, staging, the scheduler's configuration, clusters,
the persistent stacks, sessions, the node, the trap registers of every group (R55, R325, R372, R384, R386, R392, R404, R406,
R423, R424, R436, R439, R449). -/
def Obligations.ResetRegisters : Prop :=
  let s := State.reset
  (∀ q : Fin 256, let x := s.hub.queues[q]
    x.qbase = 0 ∧ x.qtaila = 0 ∧ x.cfg = 0x0000000010000000 ∧ x.head = 0 ∧ x.dis = false ∧ x.qerr = 0)
  ∧ s.hub.cstat = 0 ∧ s.hub.ctxbase = 0 ∧ s.hub.tlbBusy = none
  ∧ s.hub.frbase = 0 ∧ s.hub.fren = false ∧ s.hub.frloc = false ∧ s.hub.frlsize = 6 ∧ s.hub.frvec = 0 ∧ s.hub.frhead = 0 ∧ s.hub.frtail = 0
  ∧ (∀ d : Fin 4, (s.dies[d]).stgbud = 0x200 ∧ (s.dies[d]).sways = 0 ∧ (s.dies[d]).stgmin = 128 ∧ (s.dies[d]).l2err = 0)
  ∧ (∀ c : CoreId, let x := (s.cores[c]).schedcfg
    x.extractLsb' 30 2 = 0 ∧ x.extractLsb' 24 5 = 30 ∧ x.extractLsb' 20 4 = 10 ∧ x.extractLsb' 15 5 = 26 ∧ x.extractLsb' 0 15 = 0
      ∧ (s.cores[c]).poisonc = 0 ∧ (s.cores[c]).hangs = 0)
  ∧ (∀ (c : CoreId) (n : Slot), let g := s.grp c n
    g.resident = false ∧ g.xpc = 0 ∧ g.xcidx = 0 ∧ g.xissue = 0)
  ∧ (∀ k : Fin 16, let x := s.hub.clusters[k]
    x.fcur = 44 ∧ x.cksel = false ∧ x.freq = 44 ∧ x.isl = 128 ∧ x.eclu = 0 ∧ x.esat = false ∧ x.balcnt = 0)
  ∧ (∀ k : Fin 4, let x := s.hub.pstacks[k]; x.uce = 0 ∧ x.ce = 0 ∧ x.state = 0)
  ∧ pdcfgWord s.hub = 35 ∧ snapWord s.hub = 0 ∧ domWord s.hub = 0 ∧ minWord s.hub.boot = 0
  ∧ s.hub.nodeEn = false ∧ s.hub.node = 0x3FFF ∧ s.hub.esys = 0 ∧ s.hub.esatq = 0 ∧ s.hub.restState = 0 ∧ s.hub.mscerr = .replicate 8 0
  ∧ (∀ k : Fin 64, let x := s.hub.sessions[k]
    x.en = false ∧ x.state = 0 ∧ x.op = 0 ∧ x.fmt = 0 ∧ x.ncon = 0 ∧ x.tmo = 0 ∧ x.rslist = 0 ∧ x.rssig = 0)
  ∧ (∀ k : Fin 1024, (s.hub.kslots[k]).state = 0) ∧ (∀ a : Asid, (s.ctxRec a).energy = 0 ∧ (s.ctxRec a).esat = false)

/-- StepRunsGroupWord, StepRunsCompanionWord, StepRunsEvents: the parts above together. -/
def Obligations.StepRunsDecoded : Prop :=
  Sys2Proof.Rules.StepRunsGroupWord ∧ Sys2Proof.Rules.StepRunsCompanionWord ∧ Sys2Proof.Rules.StepRunsEvents
end

