-- ==== Sys2Proof/Laws/Memory.lean ====
section
/-! SUPPORT. Byte memories: a read after a write, and the canonical form that every operation keeps. -/

namespace Sys2Proof.Machine
open Sys2Proof

@[simp] theorem Memory.get_nil (a : Nat) : Memory.get [] a = Memory.unlisted := rfl

theorem Memory.get_insert (m : Mem) (a : Nat) (x : Byte) (b : Nat) :
    Memory.get (Memory.insert m a x) b = if b = a then x else Memory.get m b := by
  induction m with
  | nil => simp [Memory.insert, Memory.get, eq_comm]
  | cons c r ih =>
    obtain ⟨d, y⟩ := c
    simp only [Memory.insert]
    split
    · simp [Memory.get, eq_comm]
    · split
      · rename_i h; subst h
        simp only [Memory.get]
        by_cases h : b = a
        · simp [h]
        · simp [h, Ne.symm h]
      · simp only [Memory.get, ih]
        split
        · rename_i h1 h2 h3; subst h3; simp [Ne.symm h2]
        · rfl

theorem Memory.get_erase (m : Mem) (a b : Nat) :
    Memory.get (m.filter fun c => c.1 != a) b = if b = a then Memory.unlisted else Memory.get m b := by
  induction m with
  | nil => simp
  | cons c r ih =>
    obtain ⟨d, y⟩ := c
    by_cases h : d = a
    · subst h
      simp only [List.filter_cons, bne_self_eq_false, Bool.false_eq_true, if_false, ih, Memory.get]
      by_cases hb : b = d
      · simp [hb]
      · simp [hb, Ne.symm hb]
    · have : (d != a) = true := by simpa using h
      simp only [List.filter_cons, this, if_true, Memory.get, ih]
      by_cases hb : d = b
      · subst hb; simp [h]
      · simp [hb]

/-- A read after a write of one byte. -/
theorem Memory.get_set (m : Mem) (a : Nat) (x : Byte) (b : Nat) :
    Memory.get (Memory.set m a x) b = if b = a then x else Memory.get m b := by
  unfold Memory.set
  split
  · rename_i h; rw [Memory.get_erase, h]
  · exact Memory.get_insert m a x b

@[simp] theorem Memory.get_set_same (m : Mem) (a : Nat) (x : Byte) : Memory.get (Memory.set m a x) a = x := by
  simp [Memory.get_set]
theorem Memory.get_set_other (m : Mem) {a b : Nat} (x : Byte) (h : b ≠ a) : Memory.get (Memory.set m a x) b = Memory.get m b := by
  simp [Memory.get_set, h]

/-- A read after a write of several bytes. -/
theorem Memory.get_write (bs : List Byte) (m : Mem) (a b : Nat) :
    Memory.get (Memory.write m a bs) b = if a ≤ b ∧ b < a + bs.length then bs.getD (b - a) 0 else Memory.get m b := by
  induction bs generalizing m a with
  | nil =>
    have h : ¬ (a ≤ b ∧ b < a + ([] : List Byte).length) := by simp
    rw [if_neg h]; rfl
  | cons x r ih =>
    simp only [Memory.write, ih, List.length_cons, Memory.get_set]
    by_cases h : b = a
    · subst h
      have h1 : ¬ (b + 1 ≤ b ∧ b < b + 1 + r.length) := by omega
      have h2 : b ≤ b ∧ b < b + (r.length + 1) := by omega
      simp [h1, h2]
    · by_cases h2 : a + 1 ≤ b ∧ b < a + 1 + r.length
      · have h3 : a ≤ b ∧ b < a + (r.length + 1) := by omega
        have h4 : b - a = (b - (a + 1)) + 1 := by omega
        rw [if_pos h2, if_pos h3, h4, List.getD_cons_succ]
      · have h3 : ¬ (a ≤ b ∧ b < a + (r.length + 1)) := by omega
        rw [if_neg h2, if_neg h3, if_neg h]

/-- A read after cells written one by one: the last cell of an address stands. -/
theorem Memory.get_writeCells (cs : List Host.Cell) (m : Mem) (b : Nat) :
    Memory.get (Memory.writeCells m cs) b = cs.foldl (fun x c => if c.1 = b then c.2 else x) (Memory.get m b) := by
  induction cs generalizing m with
  | nil => rfl
  | cons c r ih =>
    have : Memory.writeCells m (c :: r) = Memory.writeCells (Memory.set m c.1 c.2) r := rfl
    rw [this, ih, List.foldl_cons, Memory.get_set]
    congr 1
    by_cases h : b = c.1
    · simp [h]
    · simp [h, Ne.symm h]

/-! ## The canonical form -/

/-- The canonical form as a relation between neighbours. -/
theorem Memory.wf_cons (a : Nat) (x : Byte) (r : Mem) :
    Memory.wf ((a, x) :: r) = true ↔ x ≠ Memory.unlisted ∧ (∀ c ∈ r, a < c.1) ∧ Memory.wf r = true := by
  induction r generalizing a x with
  | nil => simp [Memory.wf]
  | cons c r ih =>
    obtain ⟨b, y⟩ := c
    have e : Memory.wf ((a, x) :: (b, y) :: r) = true ↔
        x ≠ Memory.unlisted ∧ a < b ∧ Memory.wf ((b, y) :: r) = true := by
      conv => lhs; unfold Memory.wf
      simp [and_assoc]
    rw [e]
    constructor
    · rintro ⟨h1, h2, h3⟩
      refine ⟨h1, ?_, h3⟩
      intro c hc
      rcases List.mem_cons.1 hc with rfl | hc
      · exact h2
      · exact Nat.lt_trans h2 (((ih b y).1 h3).2.1 c hc)
    · rintro ⟨h1, h2, h3⟩
      exact ⟨h1, h2 _ (List.mem_cons_self ..), h3⟩

theorem Memory.mem_insert (m : Mem) (a : Nat) (x : Byte) (c : Host.Cell) (h : c ∈ Memory.insert m a x) :
    c = (a, x) ∨ c ∈ m := by
  induction m with
  | nil => simpa [Memory.insert] using h
  | cons d r ih =>
    obtain ⟨e, y⟩ := d
    simp only [Memory.insert] at h
    split at h
    · simpa using h
    · split at h
      · rcases List.mem_cons.1 h with h | h
        · exact .inl h
        · exact .inr (List.mem_cons_of_mem _ h)
      · rcases List.mem_cons.1 h with h | h
        · exact .inr (h ▸ List.mem_cons_self ..)
        · exact (ih h).imp id (List.mem_cons_of_mem _)

theorem Memory.wf_insert (m : Mem) (a : Nat) (x : Byte) (hx : x ≠ Memory.unlisted) (h : Memory.wf m = true) :
    Memory.wf (Memory.insert m a x) = true := by
  induction m with
  | nil => simpa [Memory.insert, Memory.wf] using hx
  | cons d r ih =>
    obtain ⟨b, y⟩ := d
    obtain ⟨hy, hb, hr⟩ := (Memory.wf_cons b y r).1 h
    simp only [Memory.insert]
    split
    · rename_i hab
      refine (Memory.wf_cons ..).2 ⟨hx, ?_, h⟩
      intro c hc
      rcases List.mem_cons.1 hc with rfl | hc
      · exact hab
      · exact Nat.lt_trans hab (hb c hc)
    · split
      · rename_i hab; subst hab
        exact (Memory.wf_cons ..).2 ⟨hx, hb, hr⟩
      · refine (Memory.wf_cons ..).2 ⟨hy, ?_, ih hr⟩
        intro c hc
        rcases Memory.mem_insert _ _ _ _ hc with rfl | hc
        · show b < a
          omega
        · exact hb c hc

theorem Memory.wf_filter (m : Mem) (p : Host.Cell → Bool) (h : Memory.wf m = true) : Memory.wf (m.filter p) = true := by
  induction m with
  | nil => simpa using h
  | cons d r ih =>
    obtain ⟨b, y⟩ := d
    obtain ⟨hy, hb, hr⟩ := (Memory.wf_cons b y r).1 h
    by_cases hp : p (b, y) = true
    · rw [List.filter_cons_of_pos hp]
      exact (Memory.wf_cons ..).2 ⟨hy, fun c hc => hb c (List.mem_filter.1 hc).1, ih hr⟩
    · rw [List.filter_cons_of_neg hp]
      exact ih hr

/-- Writing one byte keeps the canonical form. -/
theorem Memory.wf_set (m : Mem) (a : Nat) (x : Byte) (h : Memory.wf m = true) : Memory.wf (Memory.set m a x) = true := by
  unfold Memory.set
  split
  · exact Memory.wf_filter m _ h
  · exact Memory.wf_insert m a x ‹_› h

/-- Writing bytes keeps it. -/
theorem Memory.wf_write (bs : List Byte) (m : Mem) (a : Nat) (h : Memory.wf m = true) : Memory.wf (Memory.write m a bs) = true := by
  induction bs generalizing m a with
  | nil => exact h
  | cons x r ih => exact ih _ _ (Memory.wf_set m a x h)

/-- Writing cells keeps it. -/
theorem Memory.wf_writeCells (cs : List Host.Cell) (m : Mem) (h : Memory.wf m = true) : Memory.wf (Memory.writeCells m cs) = true := by
  induction cs generalizing m with
  | nil => exact h
  | cons c r ih => exact ih _ (Memory.wf_set m c.1 c.2 h)

/-- Two memories in canonical form that read alike are equal. -/
theorem Memory.ext_wf (m n : Mem) (hm : Memory.wf m = true) (hn : Memory.wf n = true)
    (h : ∀ a, Memory.get m a = Memory.get n a) : m = n := by
  induction m generalizing n with
  | nil =>
    cases n with
    | nil => rfl
    | cons d r =>
      obtain ⟨b, y⟩ := d
      have := h b
      simp only [Memory.get, if_true] at this
      exact absurd this.symm ((Memory.wf_cons b y r).1 hn).1
  | cons c q ih =>
    obtain ⟨a, x⟩ := c
    obtain ⟨hx, ha, hq⟩ := (Memory.wf_cons a x q).1 hm
    have low : ∀ (m : Mem) (k : Nat), (∀ c ∈ m, k < c.1) → Memory.get m k = Memory.unlisted := by
      intro m k hk
      induction m with
      | nil => rfl
      | cons c r ih =>
        obtain ⟨b, y⟩ := c
        have hb : k < b := hk (b, y) (List.mem_cons_self ..)
        simp only [Memory.get]
        rw [if_neg (by omega)]
        exact ih fun c hc => hk c (List.mem_cons_of_mem _ hc)
    cases n with
    | nil =>
      have := h a
      simp only [Memory.get, if_true] at this
      exact absurd this hx
    | cons d r =>
      obtain ⟨b, y⟩ := d
      obtain ⟨hy, hb, hr⟩ := (Memory.wf_cons b y r).1 hn
      have hab : a = b := by
        rcases Nat.lt_trichotomy a b with hl | he | hl
        · have h1 := h a
          rw [low ((b, y) :: r) a (by
            intro c hc
            rcases List.mem_cons.1 hc with rfl | hc
            · exact hl
            · exact Nat.lt_trans hl (hb c hc))] at h1
          simp only [Memory.get, if_true] at h1
          exact absurd h1 hx
        · exact he
        · have h1 := h b
          rw [low ((a, x) :: q) b (by
            intro c hc
            rcases List.mem_cons.1 hc with rfl | hc
            · exact hl
            · exact Nat.lt_trans hl (ha c hc))] at h1
          simp only [Memory.get, if_true] at h1
          exact absurd h1.symm hy
      subst hab
      have hxy : x = y := by simpa [Memory.get] using h a
      subst hxy
      have : q = r := ih r hq hr (by
        intro k
        have hk := h k
        simp only [Memory.get] at hk
        by_cases e : a = k
        · subst e; rw [low q a ha, low r a hb]
        · simpa [e] using hk)
      rw [this]

end Sys2Proof.Machine
end

