-- ==== Sys2Proof/Laws/Home.lean ====
section
/-! SUPPORT. Bytes behind a target: a read after a write, the canonical form of typed buffers, bytes read at their home. -/

namespace Sys2Proof.Machine
open Sys2Proof

theorem Memory.find_insert (m : Mem) (a : Nat) (x : Byte) (b : Nat) :
    Memory.find (Memory.insert m a x) b = if b = a then some x else Memory.find m b := by
  induction m with
  | nil => simp [Memory.insert, Memory.find, eq_comm]
  | cons d r ih =>
    obtain ⟨e, y⟩ := d
    simp only [Memory.insert]
    split
    · simp [Memory.find, eq_comm]
    · split
      · rename_i h; subst h
        simp only [Memory.find, eq_comm (a := a)]
        split <;> rfl
      · rename_i h1 h2
        simp only [Memory.find, ih]
        by_cases hb : b = a
        · subst hb; simp [Ne.symm h2]
        · simp [hb]

/-- A byte read after a byte has been put: it there, everything else as before. -/
theorem byte_putByte (t : MTgt) (m : Mem) (a b : Nat) (x o : Byte) :
    (if t.typed then (Memory.find (putByte t m a x) b).getD o else Memory.get (putByte t m a x) b)
      = if b = a then x else if t.typed then (Memory.find m b).getD o else Memory.get m b := by
  unfold putByte
  split
  · rw [Memory.find_insert]; split <;> rfl
  · exact Memory.get_set m a x b

theorem Memory.rising_cons (a : Nat) (x : Byte) (r : Mem) :
    Memory.rising ((a, x) :: r) = true ↔ (∀ c ∈ r, a < c.1) ∧ Memory.rising r = true := by
  induction r generalizing a x with
  | nil => simp [Memory.rising]
  | cons c r ih =>
    obtain ⟨b, y⟩ := c
    have e : Memory.rising ((a, x) :: (b, y) :: r) = true ↔ a < b ∧ Memory.rising ((b, y) :: r) = true := by
      conv => lhs; unfold Memory.rising
      simp
    rw [e]
    refine ⟨fun ⟨h1, h2⟩ => ⟨fun c hc => ?_, h2⟩, fun ⟨h1, h2⟩ => ⟨h1 _ (List.mem_cons_self ..), h2⟩⟩
    rcases List.mem_cons.1 hc with rfl | hc
    · exact h1
    · exact Nat.lt_trans h1 (((ih b y).1 h2).1 c hc)

/-- Putting a byte keeps the form of a typed buffer. -/
theorem Memory.rising_insert (m : Mem) (a : Nat) (x : Byte) (h : Memory.rising m = true) :
    Memory.rising (Memory.insert m a x) = true := by
  induction m with
  | nil => rfl
  | cons d r ih =>
    obtain ⟨b, y⟩ := d
    obtain ⟨hb, hr⟩ := (Memory.rising_cons b y r).1 h
    simp only [Memory.insert]
    split
    · rename_i hab
      refine (Memory.rising_cons ..).2 ⟨fun c hc => ?_, h⟩
      rcases List.mem_cons.1 hc with rfl | hc
      · exact hab
      · exact Nat.lt_trans hab (hb c hc)
    · split
      · rename_i hab; subst hab
        exact (Memory.rising_cons ..).2 ⟨hb, hr⟩
      · refine (Memory.rising_cons ..).2 ⟨fun c hc => ?_, ih hr⟩
        rcases Memory.mem_insert _ _ _ _ hc with rfl | hc
        · show b < a
          omega
        · exact hb c hc

/-- A byte put into a memory in its canonical form, the target's, leaves it in that form. -/
theorem wf_putByte (t : MTgt) (m : Mem) (a : Nat) (x : Byte)
    (h : if t.typed then Memory.rising m = true else Memory.wf m = true) :
    if t.typed then Memory.rising (putByte t m a x) = true else Memory.wf (putByte t m a x) = true := by
  unfold putByte
  cases ht : t.typed
  · simp only [ht, Bool.false_eq_true, if_false] at h ⊢
    exact Memory.wf_set m a x h
  · simp only [ht, if_true] at h ⊢
    exact Memory.rising_insert m a x h

/-- A read of cached places through a sector read that changes nothing gives each its byte of its sector. -/
theorem readBytes_pure (f : State → MTgt → Nat → (Vector Byte 48 × Bool) × State) (h : MTgt → Nat → Vector Byte 48 × Bool) (s : State)
    (hf : ∀ t b, f s t b = (h t b, s)) (ps : List PLoc) (hp : ∀ p ∈ ps, uncached p.tgt = false) :
    ∀ last : Option (MTgt × Nat × Vector Byte 48 × Bool), (∀ t b d q, last = some (t, b, d, q) → h t b = (d, q)) →
      ∃ bad, readBytes f s last ps
        = ((ps.map fun p => vat (h p.tgt (sectorBase p.addr)).1 (p.addr - sectorBase p.addr), bad), s) := by
  induction ps with
  | nil => exact fun _ _ => ⟨false, rfl⟩
  | cons p r ih =>
    intro last hl
    have hu := hp p (List.mem_cons_self ..)
    rcases e : h p.tgt (sectorBase p.addr) with ⟨d, q⟩
    obtain ⟨bad, hr⟩ := ih (fun q hq => hp q (List.mem_cons_of_mem _ hq)) (some (p.tgt, sectorBase p.addr, d, q)) fun _ _ _ _ hq => by
      cases hq; exact e
    refine ⟨q || bad, ?_⟩
    rcases last with _ | ⟨t, b0, d', q'⟩
    · simp only [readBytes, hu, Bool.false_eq_true, if_false, hf, e, hr, List.map_cons]
    · have hq := hl _ _ _ _ rfl
      simp only [readBytes, hu, Bool.false_eq_true, if_false, List.map_cons]
      split
      · rename_i hc
        simp only [Bool.and_eq_true, decide_eq_true_eq] at hc
        rw [hc.1, hc.2, e] at hq
        cases hq
        simp only [hr, e]
      · simp only [hf, hr, e]

/-- Bytes of cached memory read at their home: each is its sector's byte there. -/
theorem homeBytes_home (s : State) (key : KeyRef) (ps : List PLoc) (hp : ∀ p ∈ ps, uncached p.tgt = false) :
    (homeBytes s key ps).1.1 = ps.map fun p => vat (homeSector s p.tgt (sectorBase p.addr) key).1 (p.addr - sectorBase p.addr) := by
  obtain ⟨bad, h⟩ := readBytes_pure (fun s t b => (homeSector s t b key, s)) (fun t b => homeSector s t b key) s (fun _ _ => rfl) ps hp none (fun _ _ _ _ h => nomatch h)
  unfold homeBytes
  rw [h]

end Sys2Proof.Machine
end

