-- ==== Sys2Proof/Laws/Vector.lean ====
section
/-! SUPPORT. Reading a vector after one of its entries has been replaced or changed. -/

namespace Sys2Proof.Machine
open Sys2Proof

@[simp] theorem vset_at {α : Type} {n : Nat} (v : Vector α n) (i : Fin n) (x : α) (k : Nat) (h : k < n) :
    (vset v i x)[k] = if i.val = k then x else v[k] := by simp [vset, Vector.getElem_set]
@[simp] theorem vmod_at {α : Type} {n : Nat} (v : Vector α n) (i : Fin n) (f : α → α) (k : Nat) (h : k < n) :
    (vmod v i f)[k] = if i.val = k then f v[k] else v[k] := by
  unfold vmod; rw [vset_at]; split
  · subst_vars; rfl
  · rfl
/-- Entry k of a vector with entry i replaced, both counted modulo the length. -/
theorem vat_vset {α : Type} {n : Nat} [NeZero n] (v : Vector α n) (i : Fin n) (x : α) (k : Nat) :
    vat (vset v i x) k = if i = Fin.ofNat n k then x else vat v k := by simp [vat, Fin.ext_iff]
theorem vat_vmod {α : Type} {n : Nat} [NeZero n] (v : Vector α n) (i : Fin n) (f : α → α) (k : Nat) :
    vat (vmod v i f) k = if i = Fin.ofNat n k then f (vat v k) else vat v k := by simp [vat, Fin.ext_iff]

end Sys2Proof.Machine
end

