-- ==== Sys2Proof/Laws/State.lean ====
section
/-! SUPPORT. The small lemmas of the state's updates: one per field and update, and what a group, a team, a core, a
die or a companion core is after an update of it or of another. -/

namespace Sys2Proof.Machine
open Sys2Proof

/-! ## State.modCore -/

@[simp] theorem State.agenda_modCore (s : State) (c : CoreId) (f : Core → Core) : (s.modCore c f).agenda = s.agenda := rfl
@[simp] theorem State.core_modCore (s : State) (c : CoreId) (f : Core → Core) : (s.modCore c f).core = s.core := rfl
@[simp] theorem State.agent_modCore (s : State) (c : CoreId) (f : Core → Core) : (s.modCore c f).agent = s.agent := rfl
@[simp] theorem State.ilen_modCore (s : State) (c : CoreId) (f : Core → Core) : (s.modCore c f).ilen = s.ilen := rfl
@[simp] theorem State.fresh_modCore (s : State) (c : CoreId) (f : Core → Core) : (s.modCore c f).fresh = s.fresh := rfl
@[simp] theorem State.uid_modCore (s : State) (c : CoreId) (f : Core → Core) : (s.modCore c f).uid = s.uid := rfl
@[simp] theorem State.off_modCore (s : State) (c : CoreId) (f : Core → Core) : (s.modCore c f).off = s.off := rfl
@[simp] theorem State.pfail_modCore (s : State) (c : CoreId) (f : Core → Core) : (s.modCore c f).pfail = s.pfail := rfl
@[simp] theorem State.dies_modCore (s : State) (c : CoreId) (f : Core → Core) : (s.modCore c f).dies = s.dies := rfl
@[simp] theorem State.mem_modCore (s : State) (c : CoreId) (f : Core → Core) : (s.modCore c f).mem = s.mem := rfl
@[simp] theorem State.hub_modCore (s : State) (c : CoreId) (f : Core → Core) : (s.modCore c f).hub = s.hub := rfl
@[simp] theorem State.later_modCore (s : State) (c : CoreId) (f : Core → Core) : (s.modCore c f).later = s.later := rfl

/-! ## State.modCtx -/

@[simp] theorem State.agenda_modCtx (s : State) (c : CoreId) (f : CtxCore → CtxCore) : (s.modCtx c f).agenda = s.agenda := rfl
@[simp] theorem State.core_modCtx (s : State) (c : CoreId) (f : CtxCore → CtxCore) : (s.modCtx c f).core = s.core := rfl
@[simp] theorem State.agent_modCtx (s : State) (c : CoreId) (f : CtxCore → CtxCore) : (s.modCtx c f).agent = s.agent := rfl
@[simp] theorem State.ilen_modCtx (s : State) (c : CoreId) (f : CtxCore → CtxCore) : (s.modCtx c f).ilen = s.ilen := rfl
@[simp] theorem State.fresh_modCtx (s : State) (c : CoreId) (f : CtxCore → CtxCore) : (s.modCtx c f).fresh = s.fresh := rfl
@[simp] theorem State.uid_modCtx (s : State) (c : CoreId) (f : CtxCore → CtxCore) : (s.modCtx c f).uid = s.uid := rfl
@[simp] theorem State.off_modCtx (s : State) (c : CoreId) (f : CtxCore → CtxCore) : (s.modCtx c f).off = s.off := rfl
@[simp] theorem State.pfail_modCtx (s : State) (c : CoreId) (f : CtxCore → CtxCore) : (s.modCtx c f).pfail = s.pfail := rfl
@[simp] theorem State.dies_modCtx (s : State) (c : CoreId) (f : CtxCore → CtxCore) : (s.modCtx c f).dies = s.dies := rfl
@[simp] theorem State.mem_modCtx (s : State) (c : CoreId) (f : CtxCore → CtxCore) : (s.modCtx c f).mem = s.mem := rfl
@[simp] theorem State.hub_modCtx (s : State) (c : CoreId) (f : CtxCore → CtxCore) : (s.modCtx c f).hub = s.hub := rfl
@[simp] theorem State.later_modCtx (s : State) (c : CoreId) (f : CtxCore → CtxCore) : (s.modCtx c f).later = s.later := rfl

/-! ## State.modGrp -/

@[simp] theorem State.agenda_modGrp (s : State) (c : CoreId) (i : Slot) (f : Group → Group) : (s.modGrp c i f).agenda = s.agenda := rfl
@[simp] theorem State.core_modGrp (s : State) (c : CoreId) (i : Slot) (f : Group → Group) : (s.modGrp c i f).core = s.core := rfl
@[simp] theorem State.agent_modGrp (s : State) (c : CoreId) (i : Slot) (f : Group → Group) : (s.modGrp c i f).agent = s.agent := rfl
@[simp] theorem State.ilen_modGrp (s : State) (c : CoreId) (i : Slot) (f : Group → Group) : (s.modGrp c i f).ilen = s.ilen := rfl
@[simp] theorem State.fresh_modGrp (s : State) (c : CoreId) (i : Slot) (f : Group → Group) : (s.modGrp c i f).fresh = s.fresh := rfl
@[simp] theorem State.uid_modGrp (s : State) (c : CoreId) (i : Slot) (f : Group → Group) : (s.modGrp c i f).uid = s.uid := rfl
@[simp] theorem State.off_modGrp (s : State) (c : CoreId) (i : Slot) (f : Group → Group) : (s.modGrp c i f).off = s.off := rfl
@[simp] theorem State.pfail_modGrp (s : State) (c : CoreId) (i : Slot) (f : Group → Group) : (s.modGrp c i f).pfail = s.pfail := rfl
@[simp] theorem State.dies_modGrp (s : State) (c : CoreId) (i : Slot) (f : Group → Group) : (s.modGrp c i f).dies = s.dies := rfl
@[simp] theorem State.mem_modGrp (s : State) (c : CoreId) (i : Slot) (f : Group → Group) : (s.modGrp c i f).mem = s.mem := rfl
@[simp] theorem State.hub_modGrp (s : State) (c : CoreId) (i : Slot) (f : Group → Group) : (s.modGrp c i f).hub = s.hub := rfl
@[simp] theorem State.later_modGrp (s : State) (c : CoreId) (i : Slot) (f : Group → Group) : (s.modGrp c i f).later = s.later := rfl

/-! ## State.modTeam -/

@[simp] theorem State.agenda_modTeam (s : State) (c : CoreId) (t : Slot) (f : Team → Team) : (s.modTeam c t f).agenda = s.agenda := rfl
@[simp] theorem State.core_modTeam (s : State) (c : CoreId) (t : Slot) (f : Team → Team) : (s.modTeam c t f).core = s.core := rfl
@[simp] theorem State.agent_modTeam (s : State) (c : CoreId) (t : Slot) (f : Team → Team) : (s.modTeam c t f).agent = s.agent := rfl
@[simp] theorem State.ilen_modTeam (s : State) (c : CoreId) (t : Slot) (f : Team → Team) : (s.modTeam c t f).ilen = s.ilen := rfl
@[simp] theorem State.fresh_modTeam (s : State) (c : CoreId) (t : Slot) (f : Team → Team) : (s.modTeam c t f).fresh = s.fresh := rfl
@[simp] theorem State.uid_modTeam (s : State) (c : CoreId) (t : Slot) (f : Team → Team) : (s.modTeam c t f).uid = s.uid := rfl
@[simp] theorem State.off_modTeam (s : State) (c : CoreId) (t : Slot) (f : Team → Team) : (s.modTeam c t f).off = s.off := rfl
@[simp] theorem State.pfail_modTeam (s : State) (c : CoreId) (t : Slot) (f : Team → Team) : (s.modTeam c t f).pfail = s.pfail := rfl
@[simp] theorem State.dies_modTeam (s : State) (c : CoreId) (t : Slot) (f : Team → Team) : (s.modTeam c t f).dies = s.dies := rfl
@[simp] theorem State.mem_modTeam (s : State) (c : CoreId) (t : Slot) (f : Team → Team) : (s.modTeam c t f).mem = s.mem := rfl
@[simp] theorem State.hub_modTeam (s : State) (c : CoreId) (t : Slot) (f : Team → Team) : (s.modTeam c t f).hub = s.hub := rfl
@[simp] theorem State.later_modTeam (s : State) (c : CoreId) (t : Slot) (f : Team → Team) : (s.modTeam c t f).later = s.later := rfl

/-! ## State.modComp -/

@[simp] theorem State.agenda_modComp (s : State) (c : CoreId) (r : Role) (f : Companion → Companion) : (s.modComp c r f).agenda = s.agenda := rfl
@[simp] theorem State.core_modComp (s : State) (c : CoreId) (r : Role) (f : Companion → Companion) : (s.modComp c r f).core = s.core := rfl
@[simp] theorem State.agent_modComp (s : State) (c : CoreId) (r : Role) (f : Companion → Companion) : (s.modComp c r f).agent = s.agent := rfl
@[simp] theorem State.ilen_modComp (s : State) (c : CoreId) (r : Role) (f : Companion → Companion) : (s.modComp c r f).ilen = s.ilen := rfl
@[simp] theorem State.fresh_modComp (s : State) (c : CoreId) (r : Role) (f : Companion → Companion) : (s.modComp c r f).fresh = s.fresh := rfl
@[simp] theorem State.uid_modComp (s : State) (c : CoreId) (r : Role) (f : Companion → Companion) : (s.modComp c r f).uid = s.uid := rfl
@[simp] theorem State.off_modComp (s : State) (c : CoreId) (r : Role) (f : Companion → Companion) : (s.modComp c r f).off = s.off := rfl
@[simp] theorem State.pfail_modComp (s : State) (c : CoreId) (r : Role) (f : Companion → Companion) : (s.modComp c r f).pfail = s.pfail := rfl
@[simp] theorem State.dies_modComp (s : State) (c : CoreId) (r : Role) (f : Companion → Companion) : (s.modComp c r f).dies = s.dies := rfl
@[simp] theorem State.mem_modComp (s : State) (c : CoreId) (r : Role) (f : Companion → Companion) : (s.modComp c r f).mem = s.mem := rfl
@[simp] theorem State.hub_modComp (s : State) (c : CoreId) (r : Role) (f : Companion → Companion) : (s.modComp c r f).hub = s.hub := rfl
@[simp] theorem State.later_modComp (s : State) (c : CoreId) (r : Role) (f : Companion → Companion) : (s.modComp c r f).later = s.later := rfl

/-! ## State.modDie -/

@[simp] theorem State.agenda_modDie (s : State) (d : Fin 4) (f : Die → Die) : (s.modDie d f).agenda = s.agenda := rfl
@[simp] theorem State.core_modDie (s : State) (d : Fin 4) (f : Die → Die) : (s.modDie d f).core = s.core := rfl
@[simp] theorem State.agent_modDie (s : State) (d : Fin 4) (f : Die → Die) : (s.modDie d f).agent = s.agent := rfl
@[simp] theorem State.ilen_modDie (s : State) (d : Fin 4) (f : Die → Die) : (s.modDie d f).ilen = s.ilen := rfl
@[simp] theorem State.fresh_modDie (s : State) (d : Fin 4) (f : Die → Die) : (s.modDie d f).fresh = s.fresh := rfl
@[simp] theorem State.uid_modDie (s : State) (d : Fin 4) (f : Die → Die) : (s.modDie d f).uid = s.uid := rfl
@[simp] theorem State.off_modDie (s : State) (d : Fin 4) (f : Die → Die) : (s.modDie d f).off = s.off := rfl
@[simp] theorem State.pfail_modDie (s : State) (d : Fin 4) (f : Die → Die) : (s.modDie d f).pfail = s.pfail := rfl
@[simp] theorem State.cores_modDie (s : State) (d : Fin 4) (f : Die → Die) : (s.modDie d f).cores = s.cores := rfl
@[simp] theorem State.mem_modDie (s : State) (d : Fin 4) (f : Die → Die) : (s.modDie d f).mem = s.mem := rfl
@[simp] theorem State.hub_modDie (s : State) (d : Fin 4) (f : Die → Die) : (s.modDie d f).hub = s.hub := rfl
@[simp] theorem State.later_modDie (s : State) (d : Fin 4) (f : Die → Die) : (s.modDie d f).later = s.later := rfl

/-! ## State.modMem -/

@[simp] theorem State.agenda_modMem (s : State) (f : MemSys → MemSys) : (s.modMem f).agenda = s.agenda := rfl
@[simp] theorem State.core_modMem (s : State) (f : MemSys → MemSys) : (s.modMem f).core = s.core := rfl
@[simp] theorem State.agent_modMem (s : State) (f : MemSys → MemSys) : (s.modMem f).agent = s.agent := rfl
@[simp] theorem State.ilen_modMem (s : State) (f : MemSys → MemSys) : (s.modMem f).ilen = s.ilen := rfl
@[simp] theorem State.fresh_modMem (s : State) (f : MemSys → MemSys) : (s.modMem f).fresh = s.fresh := rfl
@[simp] theorem State.uid_modMem (s : State) (f : MemSys → MemSys) : (s.modMem f).uid = s.uid := rfl
@[simp] theorem State.off_modMem (s : State) (f : MemSys → MemSys) : (s.modMem f).off = s.off := rfl
@[simp] theorem State.pfail_modMem (s : State) (f : MemSys → MemSys) : (s.modMem f).pfail = s.pfail := rfl
@[simp] theorem State.cores_modMem (s : State) (f : MemSys → MemSys) : (s.modMem f).cores = s.cores := rfl
@[simp] theorem State.dies_modMem (s : State) (f : MemSys → MemSys) : (s.modMem f).dies = s.dies := rfl
@[simp] theorem State.hub_modMem (s : State) (f : MemSys → MemSys) : (s.modMem f).hub = s.hub := rfl
@[simp] theorem State.later_modMem (s : State) (f : MemSys → MemSys) : (s.modMem f).later = s.later := rfl

/-! ## State.modHub -/

@[simp] theorem State.agenda_modHub (s : State) (f : Hub → Hub) : (s.modHub f).agenda = s.agenda := rfl
@[simp] theorem State.core_modHub (s : State) (f : Hub → Hub) : (s.modHub f).core = s.core := rfl
@[simp] theorem State.agent_modHub (s : State) (f : Hub → Hub) : (s.modHub f).agent = s.agent := rfl
@[simp] theorem State.ilen_modHub (s : State) (f : Hub → Hub) : (s.modHub f).ilen = s.ilen := rfl
@[simp] theorem State.fresh_modHub (s : State) (f : Hub → Hub) : (s.modHub f).fresh = s.fresh := rfl
@[simp] theorem State.uid_modHub (s : State) (f : Hub → Hub) : (s.modHub f).uid = s.uid := rfl
@[simp] theorem State.off_modHub (s : State) (f : Hub → Hub) : (s.modHub f).off = s.off := rfl
@[simp] theorem State.pfail_modHub (s : State) (f : Hub → Hub) : (s.modHub f).pfail = s.pfail := rfl
@[simp] theorem State.cores_modHub (s : State) (f : Hub → Hub) : (s.modHub f).cores = s.cores := rfl
@[simp] theorem State.dies_modHub (s : State) (f : Hub → Hub) : (s.modHub f).dies = s.dies := rfl
@[simp] theorem State.mem_modHub (s : State) (f : Hub → Hub) : (s.modHub f).mem = s.mem := rfl
@[simp] theorem State.later_modHub (s : State) (f : Hub → Hub) : (s.modHub f).later = s.later := rfl

/-! ## State.modCtxRec -/

@[simp] theorem State.agenda_modCtxRec (s : State) (a : Asid) (f : CtxRec → CtxRec) : (s.modCtxRec a f).agenda = s.agenda := rfl
@[simp] theorem State.core_modCtxRec (s : State) (a : Asid) (f : CtxRec → CtxRec) : (s.modCtxRec a f).core = s.core := rfl
@[simp] theorem State.agent_modCtxRec (s : State) (a : Asid) (f : CtxRec → CtxRec) : (s.modCtxRec a f).agent = s.agent := rfl
@[simp] theorem State.ilen_modCtxRec (s : State) (a : Asid) (f : CtxRec → CtxRec) : (s.modCtxRec a f).ilen = s.ilen := rfl
@[simp] theorem State.fresh_modCtxRec (s : State) (a : Asid) (f : CtxRec → CtxRec) : (s.modCtxRec a f).fresh = s.fresh := rfl
@[simp] theorem State.uid_modCtxRec (s : State) (a : Asid) (f : CtxRec → CtxRec) : (s.modCtxRec a f).uid = s.uid := rfl
@[simp] theorem State.off_modCtxRec (s : State) (a : Asid) (f : CtxRec → CtxRec) : (s.modCtxRec a f).off = s.off := rfl
@[simp] theorem State.pfail_modCtxRec (s : State) (a : Asid) (f : CtxRec → CtxRec) : (s.modCtxRec a f).pfail = s.pfail := rfl
@[simp] theorem State.cores_modCtxRec (s : State) (a : Asid) (f : CtxRec → CtxRec) : (s.modCtxRec a f).cores = s.cores := rfl
@[simp] theorem State.dies_modCtxRec (s : State) (a : Asid) (f : CtxRec → CtxRec) : (s.modCtxRec a f).dies = s.dies := rfl
@[simp] theorem State.mem_modCtxRec (s : State) (a : Asid) (f : CtxRec → CtxRec) : (s.modCtxRec a f).mem = s.mem := rfl
@[simp] theorem State.later_modCtxRec (s : State) (a : Asid) (f : CtxRec → CtxRec) : (s.modCtxRec a f).later = s.later := rfl

/-! ## State.modCluster -/

@[simp] theorem State.agenda_modCluster (s : State) (k : Fin 16) (f : Cluster → Cluster) : (s.modCluster k f).agenda = s.agenda := rfl
@[simp] theorem State.core_modCluster (s : State) (k : Fin 16) (f : Cluster → Cluster) : (s.modCluster k f).core = s.core := rfl
@[simp] theorem State.agent_modCluster (s : State) (k : Fin 16) (f : Cluster → Cluster) : (s.modCluster k f).agent = s.agent := rfl
@[simp] theorem State.ilen_modCluster (s : State) (k : Fin 16) (f : Cluster → Cluster) : (s.modCluster k f).ilen = s.ilen := rfl
@[simp] theorem State.fresh_modCluster (s : State) (k : Fin 16) (f : Cluster → Cluster) : (s.modCluster k f).fresh = s.fresh := rfl
@[simp] theorem State.uid_modCluster (s : State) (k : Fin 16) (f : Cluster → Cluster) : (s.modCluster k f).uid = s.uid := rfl
@[simp] theorem State.off_modCluster (s : State) (k : Fin 16) (f : Cluster → Cluster) : (s.modCluster k f).off = s.off := rfl
@[simp] theorem State.pfail_modCluster (s : State) (k : Fin 16) (f : Cluster → Cluster) : (s.modCluster k f).pfail = s.pfail := rfl
@[simp] theorem State.cores_modCluster (s : State) (k : Fin 16) (f : Cluster → Cluster) : (s.modCluster k f).cores = s.cores := rfl
@[simp] theorem State.dies_modCluster (s : State) (k : Fin 16) (f : Cluster → Cluster) : (s.modCluster k f).dies = s.dies := rfl
@[simp] theorem State.mem_modCluster (s : State) (k : Fin 16) (f : Cluster → Cluster) : (s.modCluster k f).mem = s.mem := rfl
@[simp] theorem State.later_modCluster (s : State) (k : Fin 16) (f : Cluster → Cluster) : (s.modCluster k f).later = s.later := rfl

/-! ## State.modMgmt -/

@[simp] theorem State.agenda_modMgmt (s : State) (f : Mgmt → Mgmt) : (s.modMgmt f).agenda = s.agenda := rfl
@[simp] theorem State.core_modMgmt (s : State) (f : Mgmt → Mgmt) : (s.modMgmt f).core = s.core := rfl
@[simp] theorem State.agent_modMgmt (s : State) (f : Mgmt → Mgmt) : (s.modMgmt f).agent = s.agent := rfl
@[simp] theorem State.ilen_modMgmt (s : State) (f : Mgmt → Mgmt) : (s.modMgmt f).ilen = s.ilen := rfl
@[simp] theorem State.fresh_modMgmt (s : State) (f : Mgmt → Mgmt) : (s.modMgmt f).fresh = s.fresh := rfl
@[simp] theorem State.uid_modMgmt (s : State) (f : Mgmt → Mgmt) : (s.modMgmt f).uid = s.uid := rfl
@[simp] theorem State.off_modMgmt (s : State) (f : Mgmt → Mgmt) : (s.modMgmt f).off = s.off := rfl
@[simp] theorem State.pfail_modMgmt (s : State) (f : Mgmt → Mgmt) : (s.modMgmt f).pfail = s.pfail := rfl
@[simp] theorem State.cores_modMgmt (s : State) (f : Mgmt → Mgmt) : (s.modMgmt f).cores = s.cores := rfl
@[simp] theorem State.dies_modMgmt (s : State) (f : Mgmt → Mgmt) : (s.modMgmt f).dies = s.dies := rfl
@[simp] theorem State.mem_modMgmt (s : State) (f : Mgmt → Mgmt) : (s.modMgmt f).mem = s.mem := rfl
@[simp] theorem State.later_modMgmt (s : State) (f : Mgmt → Mgmt) : (s.modMgmt f).later = s.later := rfl

/-! ## State.modBoot -/

@[simp] theorem State.agenda_modBoot (s : State) (f : Boot → Boot) : (s.modBoot f).agenda = s.agenda := rfl
@[simp] theorem State.core_modBoot (s : State) (f : Boot → Boot) : (s.modBoot f).core = s.core := rfl
@[simp] theorem State.agent_modBoot (s : State) (f : Boot → Boot) : (s.modBoot f).agent = s.agent := rfl
@[simp] theorem State.ilen_modBoot (s : State) (f : Boot → Boot) : (s.modBoot f).ilen = s.ilen := rfl
@[simp] theorem State.fresh_modBoot (s : State) (f : Boot → Boot) : (s.modBoot f).fresh = s.fresh := rfl
@[simp] theorem State.uid_modBoot (s : State) (f : Boot → Boot) : (s.modBoot f).uid = s.uid := rfl
@[simp] theorem State.off_modBoot (s : State) (f : Boot → Boot) : (s.modBoot f).off = s.off := rfl
@[simp] theorem State.pfail_modBoot (s : State) (f : Boot → Boot) : (s.modBoot f).pfail = s.pfail := rfl
@[simp] theorem State.cores_modBoot (s : State) (f : Boot → Boot) : (s.modBoot f).cores = s.cores := rfl
@[simp] theorem State.dies_modBoot (s : State) (f : Boot → Boot) : (s.modBoot f).dies = s.dies := rfl
@[simp] theorem State.mem_modBoot (s : State) (f : Boot → Boot) : (s.modBoot f).mem = s.mem := rfl
@[simp] theorem State.later_modBoot (s : State) (f : Boot → Boot) : (s.modBoot f).later = s.later := rfl

/-! ## State.modGrid -/

@[simp] theorem State.agenda_modGrid (s : State) (n : Nat) (f : Grid → Grid) : (s.modGrid n f).agenda = s.agenda := rfl
@[simp] theorem State.core_modGrid (s : State) (n : Nat) (f : Grid → Grid) : (s.modGrid n f).core = s.core := rfl
@[simp] theorem State.agent_modGrid (s : State) (n : Nat) (f : Grid → Grid) : (s.modGrid n f).agent = s.agent := rfl
@[simp] theorem State.ilen_modGrid (s : State) (n : Nat) (f : Grid → Grid) : (s.modGrid n f).ilen = s.ilen := rfl
@[simp] theorem State.fresh_modGrid (s : State) (n : Nat) (f : Grid → Grid) : (s.modGrid n f).fresh = s.fresh := rfl
@[simp] theorem State.uid_modGrid (s : State) (n : Nat) (f : Grid → Grid) : (s.modGrid n f).uid = s.uid := rfl
@[simp] theorem State.off_modGrid (s : State) (n : Nat) (f : Grid → Grid) : (s.modGrid n f).off = s.off := rfl
@[simp] theorem State.pfail_modGrid (s : State) (n : Nat) (f : Grid → Grid) : (s.modGrid n f).pfail = s.pfail := rfl
@[simp] theorem State.cores_modGrid (s : State) (n : Nat) (f : Grid → Grid) : (s.modGrid n f).cores = s.cores := rfl
@[simp] theorem State.dies_modGrid (s : State) (n : Nat) (f : Grid → Grid) : (s.modGrid n f).dies = s.dies := rfl
@[simp] theorem State.mem_modGrid (s : State) (n : Nat) (f : Grid → Grid) : (s.modGrid n f).mem = s.mem := rfl
@[simp] theorem State.later_modGrid (s : State) (n : Nat) (f : Grid → Grid) : (s.modGrid n f).later = s.later := rfl

/-! ## State.modCmd -/

@[simp] theorem State.agenda_modCmd (s : State) (q : W64) (f : Command → Command) : (s.modCmd q f).agenda = s.agenda := rfl
@[simp] theorem State.core_modCmd (s : State) (q : W64) (f : Command → Command) : (s.modCmd q f).core = s.core := rfl
@[simp] theorem State.agent_modCmd (s : State) (q : W64) (f : Command → Command) : (s.modCmd q f).agent = s.agent := rfl
@[simp] theorem State.ilen_modCmd (s : State) (q : W64) (f : Command → Command) : (s.modCmd q f).ilen = s.ilen := rfl
@[simp] theorem State.fresh_modCmd (s : State) (q : W64) (f : Command → Command) : (s.modCmd q f).fresh = s.fresh := rfl
@[simp] theorem State.uid_modCmd (s : State) (q : W64) (f : Command → Command) : (s.modCmd q f).uid = s.uid := rfl
@[simp] theorem State.off_modCmd (s : State) (q : W64) (f : Command → Command) : (s.modCmd q f).off = s.off := rfl
@[simp] theorem State.pfail_modCmd (s : State) (q : W64) (f : Command → Command) : (s.modCmd q f).pfail = s.pfail := rfl
@[simp] theorem State.cores_modCmd (s : State) (q : W64) (f : Command → Command) : (s.modCmd q f).cores = s.cores := rfl
@[simp] theorem State.dies_modCmd (s : State) (q : W64) (f : Command → Command) : (s.modCmd q f).dies = s.dies := rfl
@[simp] theorem State.mem_modCmd (s : State) (q : W64) (f : Command → Command) : (s.modCmd q f).mem = s.mem := rfl
@[simp] theorem State.later_modCmd (s : State) (q : W64) (f : Command → Command) : (s.modCmd q f).later = s.later := rfl

/-! ## What an update does to its own part -/

@[simp] theorem State.mem_modMem (s : State) (f : MemSys → MemSys) : (s.modMem f).mem = f s.mem := rfl
@[simp] theorem State.hub_modHub (s : State) (f : Hub → Hub) : (s.modHub f).hub = f s.hub := rfl
@[simp] theorem Core.ctx_modCtx (k : Core) (f : CtxCore → CtxCore) : (k.modCtx f).ctx = f k.ctx := rfl
@[simp] theorem CtxCore.groups_modGrp (x : CtxCore) (i : Slot) (f : Group → Group) : (x.modGrp i f).groups = vmod x.groups i f := rfl
@[simp] theorem CtxCore.teams_modGrp (x : CtxCore) (i : Slot) (f : Group → Group) : (x.modGrp i f).teams = x.teams := rfl
@[simp] theorem CtxCore.teams_modTeam (x : CtxCore) (t : Slot) (f : Team → Team) : (x.modTeam t f).teams = vmod x.teams t f := rfl
@[simp] theorem CtxCore.groups_modTeam (x : CtxCore) (t : Slot) (f : Team → Team) : (x.modTeam t f).groups = x.groups := rfl
@[simp] theorem State.cores_modCore_at (s : State) (c : CoreId) (f : Core → Core) (k : Nat) (h : k < 64) :
    (s.modCore c f).cores[k] = if c.val = k then f s.cores[k] else s.cores[k] := by simp [State.modCore]
@[simp] theorem State.cores_modCtx_at (s : State) (c : CoreId) (f : CtxCore → CtxCore) (k : Nat) (h : k < 64) :
    (s.modCtx c f).cores[k] = if c.val = k then (s.cores[k]).modCtx f else s.cores[k] := State.cores_modCore_at ..
@[simp] theorem State.dies_modDie_at (s : State) (d : Fin 4) (f : Die → Die) (k : Nat) (h : k < 4) :
    (s.modDie d f).dies[k] = if d.val = k then f s.dies[k] else s.dies[k] := by simp [State.modDie]

/-- A core after an update of the context of one. -/
theorem State.cores_modCtx (s : State) (c d : CoreId) (f : CtxCore → CtxCore) :
    (s.modCtx c f).cores[d] = if c = d then (s.cores[d]).modCtx f else s.cores[d] := by
  simp only [Fin.getElem_fin, State.cores_modCtx_at, Fin.val_inj]
/-- The context of a core after an update of one. -/
theorem State.ctx_modCtx (s : State) (c d : CoreId) (f : CtxCore → CtxCore) :
    ((s.modCtx c f).cores[d]).ctx = if c = d then f (s.cores[d]).ctx else (s.cores[d]).ctx := by
  simp only [Fin.getElem_fin, State.cores_modCtx_at, Fin.val_inj]; split <;> rfl
/-- A group after an update of one. -/
theorem State.grp_modGrp (s : State) (c d : CoreId) (i j : Slot) (f : Group → Group) :
    (s.modGrp c i f).grp d j = if c = d ∧ i = j then f (s.grp d j) else s.grp d j := by
  simp only [State.grp, State.modGrp, State.ctx_modCtx]
  by_cases h : c = d
  · by_cases h' : i = j <;> simp [h, h']
    intro e; exact absurd (Fin.ext e) h'
  · simp [h]
/-- A team after an update of one. -/
theorem State.team_modTeam (s : State) (c d : CoreId) (t u : Slot) (f : Team → Team) :
    (s.modTeam c t f).team d u = if c = d ∧ t = u then f (s.team d u) else s.team d u := by
  simp only [State.team, State.modTeam, State.ctx_modCtx]
  by_cases h : c = d
  · by_cases h' : t = u <;> simp [h, h']
    intro e; exact absurd (Fin.ext e) h'
  · simp [h]
@[simp] theorem State.grp_modGrp_self (s : State) (c : CoreId) (i : Slot) (f : Group → Group) :
    (s.modGrp c i f).grp c i = f (s.grp c i) := by simp [State.grp_modGrp]
@[simp] theorem State.team_modTeam_self (s : State) (c : CoreId) (t : Slot) (f : Team → Team) :
    (s.modTeam c t f).team c t = f (s.team c t) := by simp [State.team_modTeam]
@[simp] theorem State.team_modGrp (s : State) (c d : CoreId) (i t : Slot) (f : Group → Group) :
    (s.modGrp c i f).team d t = s.team d t := by
  simp only [State.team, State.modGrp, State.ctx_modCtx]; split <;> rfl
@[simp] theorem State.grp_modTeam (s : State) (c d : CoreId) (t i : Slot) (f : Team → Team) :
    (s.modTeam c t f).grp d i = s.grp d i := by
  simp only [State.grp, State.modTeam, State.ctx_modCtx]; split <;> rfl
@[simp] theorem State.grp_modHub (s : State) (f : Hub → Hub) (c : CoreId) (i : Slot) : (s.modHub f).grp c i = s.grp c i := rfl
@[simp] theorem State.team_modHub (s : State) (f : Hub → Hub) (c : CoreId) (t : Slot) : (s.modHub f).team c t = s.team c t := rfl
@[simp] theorem State.grp_modMem (s : State) (f : MemSys → MemSys) (c : CoreId) (i : Slot) : (s.modMem f).grp c i = s.grp c i := rfl
@[simp] theorem State.team_modMem (s : State) (f : MemSys → MemSys) (c : CoreId) (t : Slot) : (s.modMem f).team c t = s.team c t := rfl
/-- A companion core after an update of one. -/
theorem State.comp_modComp (s : State) (c d : CoreId) (r q : Role) (f : Companion → Companion) :
    (s.modComp c r f).comp d q = if c = d ∧ r = q then f (s.comp d q) else s.comp d q := by
  simp only [State.comp, State.modComp, State.ctx_modCtx]
  by_cases h : c = d
  · cases r <;> cases q <;> simp [h, CtxCore.comp, CtxCore.modComp]
  · simp [h]
@[simp] theorem State.comp_modComp_self (s : State) (c : CoreId) (r : Role) (f : Companion → Companion) :
    (s.modComp c r f).comp c r = f (s.comp c r) := by simp [State.comp_modComp]
@[simp] theorem State.team_modComp (s : State) (c d : CoreId) (r : Role) (t : Slot) (f : Companion → Companion) :
    (s.modComp c r f).team d t = s.team d t := by
  simp only [State.team, State.modComp, State.ctx_modCtx]; split <;> cases r <;> rfl
@[simp] theorem State.grp_modComp (s : State) (c d : CoreId) (r : Role) (i : Slot) (f : Companion → Companion) :
    (s.modComp c r f).grp d i = s.grp d i := by
  simp only [State.grp, State.modComp, State.ctx_modCtx]; split <;> cases r <;> rfl
@[simp] theorem State.ctxRec_modCtxRec_self (s : State) (a : Asid) (f : CtxRec → CtxRec) :
    (s.modCtxRec a f).ctxRec a = f (s.ctxRec a) := by simp [State.modCtxRec, State.ctxRec]
@[simp] theorem State.clusters_modCluster_at (s : State) (k : Fin 16) (f : Cluster → Cluster) (n : Nat) (h : n < 16) :
    (s.modCluster k f).hub.clusters[n] = if k.val = n then f s.hub.clusters[n] else s.hub.clusters[n] := by
  simp [State.modCluster]

end Sys2Proof.Machine
end

