-- ==== Sys2Proof/Laws/Issue.lean ====
section
/-! SUPPORT. What the shared operations of a group instruction do: the checks of an issue, the end of a clause, and an
instruction that changes only its group's registers. -/

namespace Sys2Proof.Machine
open Sys2Proof

/-! ## The checks -/

theorem ready_open {i : Instr} {s : State} {n : Slot} {f : Form} {g : Group} {r : Run} (h : Ready i s n f g r) :
    issueChecks i s = .go n f.hd f g r := by
  have hfree : (g.out.any fun o => o.dests.any fun d => (guardRun f.hd :: f.regs.map useRun).any d.meets) = false := by
    simp only [List.any_eq_false, Bool.not_eq_true]
    exact h.free
  have hfill : ((f.regs.filter fun u => u.cls == .v).flatMap fun u => (List.range u.len).map fun k => u.num.toNat + k).find?
      (fun k => g.spilled.getLsbD k) = none := by
    simp only [List.find?_eq_none, List.mem_flatMap, List.mem_filter, List.mem_map, List.mem_range]
    rintro _ ⟨u, ⟨hu, hc⟩, k, hk, rfl⟩
    simp [h.filled u hu (by simpa using hc) k hk]
  have hclean : (if neverTraps i then none else poisonRead (readLanes i f.hd g r) f.regs g) = none := by
    cases e : neverTraps i
    · exact h.clean e
    · rfl
  have hslots : (acting f.hd g r != 0 && decide (freeSlots s s.core < bitCount (newRegs f g))) = false := by
    by_cases e : acting f.hd g r = 0
    · simp [e]
    · have := h.slots e; simp; omega
  have hdef : (if acting f.hd g r = 0 then none else deferTrap i (s.ctxRec (s.team s.core g.team).asid)) = none := by
    split
    · rfl
    · exact h.deferred ‹_›
  have hroom : (f.hd.sb != 7 && decide (16 ≤ (g.out.filter fun o => o.sb == f.hd.sb).length)) = false := by
    by_cases e : f.hd.sb = 7
    · simp [e]
    · have := h.room e; simp; omega
  have hlast : (f.last && r.idx != hdrN r.hdr) = false := by
    by_cases e : f.last <;> simp [e]
    exact h.last e
  have hal : f.regs.all (fun u => allocated u (LRec.nv (s.team s.core g.team).lrec) (LRec.na (s.team s.core g.team).lrec)) = true :=
    List.all_eq_true.2 h.alloc
  have hin : ¬ hdrN r.hdr < r.idx := Nat.not_lt.2 h.inside
  unfold issueChecks
  simp only [h.agent, h.group, h.run, h.resident, h.noFetch, h.form, h.unit, h.wf, hlast, hal, h.formats, hroom, hfree, hfill,
    hslots, hclean, hdef, hin, Bool.not_true, Option.isSome_none, Bool.or_self, decide_false, Bool.false_eq_true, if_false,
    bne_self_eq_false]
  have := h.awake
  revert this
  cases g.block <;> simp [Block.looks]

/-! ## Lane masks -/

theorem getLsbD_bitOf (k j : Nat) (h : k < 32) : (bitOf 32 k).getLsbD j = decide (k = j) := by
  by_cases e : j < 32
  · simp only [bitOf, BitVec.getLsbD_ofNat, e, decide_true, Bool.true_and, Nat.testBit_two_pow]
  · simp [BitVec.getLsbD_of_ge _ _ (by omega : 32 ≤ j)]; omega

/-- A bit of a mask built lane by lane. -/
theorem getLsbD_maskOf (f : Fin 32 → Bool) (l : Fin 32) : (maskOf f).getLsbD l.val = f l := by
  have fold : ∀ (ls : List (Fin 32)) (m : Mask),
      (ls.foldl (fun m k => if f k then m ||| bitOf 32 k.val else m) m).getLsbD l.val
        = (m.getLsbD l.val || (decide (l ∈ ls) && f l)) := by
    intro ls
    induction ls with
    | nil => simp
    | cons k r ih =>
      intro m
      rw [List.foldl_cons, ih]
      by_cases hk : k = l
      · subst hk
        cases h : f k <;>
          simp only [if_true, if_false, Bool.false_eq_true, BitVec.getLsbD_or, getLsbD_bitOf _ _ k.isLt, decide_true,
            List.mem_cons, true_or, Bool.or_true, Bool.true_or, Bool.and_true, Bool.and_false]
      · have e : ¬ l = k := fun e => hk e.symm
        have hv : ¬ k.val = l.val := fun e => hk (Fin.ext e)
        cases h : f k <;>
          simp only [if_true, if_false, Bool.false_eq_true, BitVec.getLsbD_or, getLsbD_bitOf _ _ k.isLt, hv,
            decide_false, Bool.or_false, List.mem_cons, e, false_or]
  unfold maskOf
  rw [fold]
  simp only [allLanes, List.mem_finRange, decide_true, Bool.true_and, BitVec.ofNat_eq_ofNat, BitVec.getLsbD_zero,
    Bool.false_or]

theorem live_iff (g : Group) : g.liveLanes ≠ 0 ↔ ∃ l : Fin 32, g.lane[l] ≠ .exited := by
  constructor
  · intro h
    refine Classical.byContradiction fun hc => h ?_
    have hc : ∀ l : Fin 32, g.lane[l] = .exited := fun l => Classical.byContradiction fun e => hc ⟨l, e⟩
    refine BitVec.eq_of_getLsbD_eq fun j hj => ?_
    have e := getLsbD_maskOf (fun l => g.lane[l] != .exited) ⟨j, hj⟩
    simp only [hc ⟨j, hj⟩, bne_self_eq_false] at e
    exact e.trans (BitVec.getLsbD_zero ..).symm
  · rintro ⟨l, hl⟩ h
    have := getLsbD_maskOf (fun l => g.lane[l] != .exited) l
    rw [show maskOf (fun l => g.lane[l] != LaneState.exited) = g.liveLanes from rfl, h] at this
    simp at this
    exact hl this

/-! ## Retiring, and the end of a clause -/

@[simp] theorem reg_finish (g : Group) (h : Hd) (ρ : GReg) : (g.finish h).reg ρ = g.reg ρ := by
  unfold Group.finish; dsimp only; split <;> cases ρ <;> rfl
@[simp] theorem reg_push (g : Group) (h : Hd) (f : Form) (o : Out) (ρ : GReg) : (g.push h f o).reg ρ = g.reg ρ := by
  cases ρ <;> rfl
@[simp] theorem team_finish (g : Group) (h : Hd) : (g.finish h).team = g.team := by
  unfold Group.finish; dsimp only; split <;> rfl
@[simp] theorem lane_finish (g : Group) (h : Hd) : (g.finish h).lane = g.lane := by
  unfold Group.finish; dsimp only; split <;> rfl
@[simp] theorem run_finish (g : Group) (h : Hd) : (g.finish h).run = g.run.map fun r => { r with idx := r.idx + 1 } := by
  unfold Group.finish; dsimp only; split <;> rfl
@[simp] theorem reg_checkHandlerEnd (g : Group) (ρ : GReg) : g.checkHandlerEnd.reg ρ = g.reg ρ := by
  unfold Group.checkHandlerEnd; split <;> cases ρ <;> rfl
@[simp] theorem reg_close (g : Group) (r : Run) (now : Nat) (ρ : GReg) : (g.close r now).reg ρ = g.reg ρ := by
  unfold Group.close; dsimp only; rw [reg_checkHandlerEnd]; cases ρ <;> rfl
@[simp] theorem hang_finish (g : Group) (h : Hd) : (g.finish h).hangAct = g.hangAct := by
  unfold Group.finish; dsimp only; split <;> rfl
theorem hang_checkHandlerEnd (g : Group) : g.checkHandlerEnd.hangAct = g.hangAct := by
  unfold Group.checkHandlerEnd; split <;> rfl
@[simp] theorem hang_close (g : Group) (r : Run) (now : Nat) : (g.close r now).hangAct = g.hangAct := by
  unfold Group.close; rw [hang_checkHandlerEnd]; rfl
@[simp] theorem reg_mapDests (g : Group) (f : Form) (ρ : GReg) : (g.mapDests f).reg ρ = g.reg ρ := by cases ρ <;> rfl
@[simp] theorem team_mapDests (g : Group) (f : Form) : (g.mapDests f).team = g.team := rfl
@[simp] theorem lane_mapDests (g : Group) (f : Form) : (g.mapDests f).lane = g.lane := rfl
@[simp] theorem run_mapDests (g : Group) (f : Form) : (g.mapDests f).run = g.run := rfl
@[simp] theorem hang_mapDests (g : Group) (f : Form) : (g.mapDests f).hangAct = g.hangAct := rfl
theorem team_checkHandlerEnd (g : Group) : g.checkHandlerEnd.team = g.team := by
  unfold Group.checkHandlerEnd; split <;> rfl
@[simp] theorem team_close (g : Group) (r : Run) (now : Nat) : (g.close r now).team = g.team := by
  unfold Group.close; rw [team_checkHandlerEnd]; rfl
theorem lane_checkHandlerEnd (g : Group) : g.checkHandlerEnd.lane = g.lane := by
  unfold Group.checkHandlerEnd; split <;> rfl
theorem releaseHeld_lane (g : Group) (m : Mask) (l : Fin 32) (h : g.lane[l] ≠ .exited) : (g.releaseHeld m).lane[l] ≠ .exited := by
  simp only [Group.releaseHeld, Fin.getElem_fin, Vector.getElem_ofFn] at *
  split
  · simp
  · exact h
/-- No lane dies when a clause ends. -/
theorem close_live (g : Group) (r : Run) (now : Nat) (h : g.liveLanes ≠ 0) : (g.close r now).liveLanes ≠ 0 := by
  obtain ⟨l, hl⟩ := (live_iff g).1 h
  refine (live_iff _).2 ⟨l, ?_⟩
  unfold Group.close
  rw [lane_checkHandlerEnd]
  apply releaseHeld_lane
  simp only [Fin.getElem_fin, Vector.getElem_ofFn] at *
  split
  · simp
  · exact hl

/-! ## The task pool -/

theorem formBin_only (x : CtxCore) (t : Slot) (e : W32) : ∃ p b m, x.formBin t e = { x with pool := p, bins := b, forms := m } := by
  unfold CtxCore.formBin; split
  · exact ⟨x.pool, x.bins, x.forms, rfl⟩
  · exact ⟨_, _, _, rfl⟩
theorem flushTeam_only (x : CtxCore) (t : Slot) : ∃ p b m, x.flushTeam t = { x with pool := p, bins := b, forms := m } := by
  have fold : ∀ (ks : List Task) (y : CtxCore), (∃ p b m, y = { x with pool := p, bins := b, forms := m }) →
      ∃ p b m, ks.foldl (fun y k => y.formBin t k.entry) y = { x with pool := p, bins := b, forms := m } := by
    intro ks
    induction ks with
    | nil => exact fun _ h => h
    | cons k r ih =>
      rintro y ⟨p, b, m, rfl⟩
      obtain ⟨p', b', m', e⟩ := formBin_only { x with pool := p, bins := b, forms := m } t k.entry
      exact ih _ ⟨p', b', m', e⟩
  exact fold _ x ⟨x.pool, x.bins, x.forms, rfl⟩
theorem flushQuiet_only (x : CtxCore) (t : Slot) : ∃ p b m, x.flushQuiet t = { x with pool := p, bins := b, forms := m } := by
  unfold CtxCore.flushQuiet; split
  · exact flushTeam_only x t
  · exact ⟨x.pool, x.bins, x.forms, rfl⟩

/-! ## One group changed -/

theorem OnlyGroup.refl (s : State) (n : Slot) : OnlyGroup s s n where
  state := rfl
  others _ _ := rfl
  here := ⟨_, _, _, _, rfl⟩
  groups _ _ := rfl

theorem OnlyGroup.trans_modGrp {s t : State} {n : Slot} (h : OnlyGroup s t n) (f : Group → Group) :
    OnlyGroup s (t.modGrp s.core n f) n where
  state := by rw [h.state]; rfl
  others c hc := by rw [State.modGrp, State.cores_modCtx, if_neg (Ne.symm hc), h.others c hc]
  here := by
    obtain ⟨gs, p, b, m, e⟩ := h.here
    exact ⟨_, p, b, m, by rw [State.modGrp, State.cores_modCtx, if_pos rfl, e]; rfl⟩
  groups m hm := by rw [State.grp_modGrp, if_neg (fun e => hm e.2.symm), h.groups m hm]

theorem OnlyGroup.modGrp (s : State) (n : Slot) (f : Group → Group) : OnlyGroup s (s.modGrp s.core n f) n :=
  (OnlyGroup.refl s n).trans_modGrp f

theorem grp_flush (t : State) (c d : CoreId) (k i : Slot) : (t.modCtx c fun x => x.flushQuiet k).grp d i = t.grp d i := by
  simp only [State.grp, State.ctx_modCtx]
  split
  · obtain ⟨p, b, m, e⟩ := flushQuiet_only (t.cores[d]).ctx k
    simp only [e]
  · rfl

theorem OnlyGroup.flush {s t : State} {n : Slot} (h : OnlyGroup s t n) (k : Slot) :
    OnlyGroup s (t.modCtx s.core fun x => x.flushQuiet k) n where
  state := by rw [h.state]; rfl
  others c hc := by rw [State.cores_modCtx, if_neg (Ne.symm hc), h.others c hc]
  here := by
    obtain ⟨gs, p, b, m, e⟩ := h.here
    obtain ⟨p', b', m', e'⟩ := flushQuiet_only (t.cores[s.core]).ctx k
    refine ⟨gs, p', b', m', ?_⟩
    rw [State.cores_modCtx, if_pos rfl, Core.modCtx, e', e]
  groups m hm := by rw [grp_flush, h.groups m hm]

theorem gridKilled_of (s t : State) (h : t.hub = s.hub) (x y : Team) (e : x = y) : gridKilled t x = gridKilled s y := by
  subst e; simp [gridKilled, State.grid?, h]

/-- With no hang action that faults the context, the end of a clause brings none. -/
theorem hangEnd_calm (s : State) (c : CoreId) (n : Slot) (h : (s.grp c n).hangAct ≠ 2) : hangEnd s c n = s := by
  unfold hangEnd; dsimp only; rw [show decide ((s.grp c n).hangAct = 2) = false from decide_eq_false h]; simp
/-- The end of an instruction that has changed group n alone, when the group stays on its core. -/
theorem settle_only (s : State) (n : Slot) (f : Group → Group) (h : (f (s.grp s.core n)).stays s) :
    OnlyGroup s (settle (s.modGrp s.core n f) s.core n) n
      ∧ (∀ ρ, ((settle (s.modGrp s.core n f) s.core n).grp s.core n).reg ρ = (f (s.grp s.core n)).reg ρ)
      ∧ ((settle (s.modGrp s.core n f) s.core n).grp s.core n).hangAct = (f (s.grp s.core n)).hangAct
      ∧ ((f (s.grp s.core n)).run.all (fun r => r.idx ≤ hdrN r.hdr) = true →
          settle (s.modGrp s.core n f) s.core n = s.modGrp s.core n f) := by
  have stay := settle.eq_def (s.modGrp s.core n f) s.core n
  generalize hg : f (s.grp s.core n) = g at *
  rw [State.grp_modGrp_self, hg] at stay
  rcases hr : g.run with _ | r
  · simp only [hr] at stay
    rw [stay]
    exact ⟨OnlyGroup.modGrp .., fun ρ => by simp [hg], by simp [hg], fun _ => rfl⟩
  · simp only [hr] at stay
    by_cases hi : r.idx ≤ hdrN r.hdr
    · rw [if_pos hi] at stay
      rw [stay]
      exact ⟨OnlyGroup.modGrp .., fun ρ => by simp [hg], by simp [hg], fun _ => rfl⟩
    · rw [if_neg hi] at stay
      have hk : ∀ t : State, t.hub = s.hub → (∀ k, t.team s.core k = s.team s.core k) →
          ∀ g' : Group, g'.team = g.team → g'.liveLanes ≠ 0 → t.grp s.core n = g' →
          OnlyGroup s t n → OnlyGroup s (leave t s.core n) n ∧ (leave t s.core n).grp s.core n = g' := by
        intro t ht hteam g' htm hlive hgrp ho
        have hkill : gridKilled t (t.team s.core g'.team) = false := by
          rw [gridKilled_of s t ht _ _ (hteam g'.team), htm]; exact h.1
        unfold leave
        simp only [hgrp, hkill, hlive, if_false, Bool.and_false,
          Bool.false_and, decide_false, Bool.false_eq_true]
        split
        · exact ⟨ho, hgrp⟩
        · exact ⟨ho.flush _, by rw [grp_flush]; exact hgrp⟩
      have := hk ((s.modGrp s.core n f).modGrp s.core n fun g => g.close r ((s.modGrp s.core n f).cycles s.core)) rfl
        (fun k => by simp) (g.close r (s.cycles s.core)) (team_close ..) (close_live _ _ _ h.2.1)
        (by simp [hg]; rfl) ((OnlyGroup.modGrp s n f).trans_modGrp _)
      rw [stay]
      refine ⟨this.1, fun ρ => by rw [this.2, reg_close], by rw [this.2, hang_close], fun hx => ?_⟩
      simp [hi] at hx

/-! ## Instructions that change only their group's registers -/

/-- The end of an instruction's turn, likewise. -/
theorem endTurn_only (s : State) (n : Slot) (f : Group → Group) (h : (f (s.grp s.core n)).stays s) :
    OnlyGroup s (endTurn (s.modGrp s.core n f) n) n
      ∧ (∀ ρ, ((endTurn (s.modGrp s.core n f) n).grp s.core n).reg ρ = (f (s.grp s.core n)).reg ρ)
      ∧ ((f (s.grp s.core n)).run.all (fun r => r.idx ≤ hdrN r.hdr) = true →
          endTurn (s.modGrp s.core n f) n = s.modGrp s.core n f) := by
  obtain ⟨h1, h2, h3, h4⟩ := settle_only s n f h
  have e : endTurn (s.modGrp s.core n f) n = settle (s.modGrp s.core n f) s.core n :=
    by
    have := h.2.2; rw [← h3] at this
    exact hangEnd_calm _ _ _ this
  rw [e]
  exact ⟨h1, h2, h4⟩

/-- An instruction that changes only its group: it answers a next state in which the group's registers are those that
its effect gives, and nothing else has changed. -/
theorem issueRegs_spec {i : Instr} {s : State} {n : Slot} {f : Form} {g : Group} {r : Run} (k : Hd → Group → Run → Group)
    (h : Ready i s n f g r) (ha : acting f.hd g r ≠ 0) (hs : (k f.hd g r).stays s) :
    ∃ t, issueRegs i s k = .next t ∧ OnlyGroup s t n ∧ ∀ ρ, (t.grp s.core n).reg ρ = (k f.hd g r).reg ρ := by
  have live : (((k f.hd g r).mapDests f).finish f.hd).liveLanes ≠ 0 := by
    have := hs.2.1; rw [live_iff] at *; simpa using this
  have e : (s.modGrp s.core n fun _ => k f.hd g r).modGrp s.core n (fun x => (x.mapDests f).finish f.hd)
      = s.modGrp s.core n fun _ => ((k f.hd g r).mapDests f).finish f.hd := by
    simp [State.modGrp, State.modCtx, State.modCore, Core.modCtx, CtxCore.modGrp, vmod, vset]
  have := endTurn_only s n (fun _ => ((k f.hd g r).mapDests f).finish f.hd)
    ⟨by simpa using hs.1, live, by simpa using hs.2.2⟩
  refine ⟨_, ?_, this.1, fun ρ => by rw [this.2.1, reg_finish, reg_mapDests]⟩
  unfold issueRegs issue
  rw [ready_open h]
  simp only [ha, if_false]
  rw [← e]
  rfl

end Sys2Proof.Machine
end

