-- ==== Sys2Proof/Laws/Writes.lean ====
section
/-! SUPPORT. The register file: what each write operation of a group writes and leaves alone (R144 to R148, R202,
R255). -/

namespace Sys2Proof.Machine
open Sys2Proof

theorem take_nil (g : Group) : Writes.nil.take g g := fun _ => rfl
theorem take_and {a b : Writes} {g g' g'' : Group} (h : a.take g g') (h' : b.take g' g'') : (a.and b).take g g'' := by
  intro ρ; rw [h' ρ, h ρ]; unfold Writes.and; cases b ρ <;> rfl

theorem getLsbD_setBit (x : BitVec 64) (k j : Nat) (hk : k < 64) (b : Bool) :
    (setBit x k b).getLsbD j = if j = k then b else x.getLsbD j := by
  have hb : (bitOf 64 k).getLsbD j = decide (k = j) := by
    by_cases e : j < 64
    · simp only [bitOf, BitVec.getLsbD_ofNat, e, decide_true, Bool.true_and, Nat.testBit_two_pow]
    · simp [BitVec.getLsbD_of_ge _ _ (by omega : 64 ≤ j)]; omega
  unfold setBit
  by_cases e : j = k
  · subst e
    cases b <;> simp only [if_true, if_false, Bool.false_eq_true, BitVec.getLsbD_or, BitVec.getLsbD_and, BitVec.getLsbD_not, hb,
      decide_true, Bool.or_true, Bool.not_true, Bool.and_false]
  · have e' : ¬ k = j := fun h => e h.symm
    by_cases hj : j < 64
    · cases b <;> simp only [e, if_true, if_false, Bool.false_eq_true, BitVec.getLsbD_or, BitVec.getLsbD_and, BitVec.getLsbD_not, hb,
        e', decide_false, Bool.or_false, Bool.not_false, Bool.and_true, hj, decide_true]
    · cases b <;> simp [e, BitVec.getLsbD_of_ge _ _ (by omega : 64 ≤ j)]

theorem take_wrV (g : Group) (d : Nat) (m : Mask) (f : Fin 32 → W32) : (Writes.v d m f).take g (g.wrV d m f) := by
  intro ρ
  cases ρ <;> try rfl
  case v r l =>
    by_cases e : r.val = d % 256
    · have : (Fin.ofNat 256 d).val = r.val := e.symm
      simp only [Group.reg, Group.wrV, Writes.v, Fin.getElem_fin, vmod_at, this, if_true, e, true_and, Vector.getElem_ofFn, Fin.eta]
      split <;> rfl
    · have : ¬ (Fin.ofNat 256 d).val = r.val := fun h => e h.symm
      simp only [Group.reg, Group.wrV, Writes.v, Fin.getElem_fin, vmod_at, this, if_false, e, false_and, Option.getD_none]
  case markV r l =>
    by_cases e : r.val = d % 256
    · have : (Fin.ofNat 256 d).val = r.val := e.symm
      simp only [Group.reg, Group.wrV, Writes.v, Fin.getElem_fin, vmod_at, this, if_true, e, true_and, BitVec.getLsbD_and,
        BitVec.getLsbD_not, l.isLt, decide_true, Bool.true_and]
      split <;> rename_i h
      · rw [h]; simp [bitVal]
      · rw [show m.getLsbD l.val = false by simpa using h]; simp
    · have : ¬ (Fin.ofNat 256 d).val = r.val := fun h => e h.symm
      simp only [Group.reg, Group.wrV, Writes.v, Fin.getElem_fin, vmod_at, this, if_false, e, false_and, Option.getD_none]

theorem take_wrA (g : Group) (d : Nat) (m : Mask) (f : Fin 32 → BitVec 256) : (Writes.a d m f).take g (g.wrA d m f) := by
  intro ρ
  cases ρ <;> try rfl
  case a r l =>
    by_cases e : r.val = d % 16
    · have : (Fin.ofNat 16 d).val = r.val := e.symm
      simp only [Group.reg, Group.wrA, Writes.a, Fin.getElem_fin, vmod_at, this, if_true, e, true_and, Vector.getElem_ofFn, Fin.eta]
      split <;> rfl
    · have : ¬ (Fin.ofNat 16 d).val = r.val := fun h => e h.symm
      simp only [Group.reg, Group.wrA, Writes.a, Fin.getElem_fin, vmod_at, this, if_false, e, false_and, Option.getD_none]
  case markA r l =>
    by_cases e : r.val = d % 16
    · have : (Fin.ofNat 16 d).val = r.val := e.symm
      simp only [Group.reg, Group.wrA, Writes.a, Fin.getElem_fin, vmod_at, this, if_true, e, true_and, BitVec.getLsbD_and,
        BitVec.getLsbD_not, l.isLt, decide_true, Bool.true_and]
      split <;> rename_i h
      · rw [h]; simp [bitVal]
      · rw [show m.getLsbD l.val = false by simpa using h]; simp
    · have : ¬ (Fin.ofNat 16 d).val = r.val := fun h => e h.symm
      simp only [Group.reg, Group.wrA, Writes.a, Fin.getElem_fin, vmod_at, this, if_false, e, false_and, Option.getD_none]

theorem take_wrS (g : Group) (d : Nat) (x : W32) : (Writes.s d x).take g (g.wrS d x) := by
  intro ρ
  cases ρ <;> try rfl
  case s r =>
    by_cases e : r.val = d % 64
    · have : (Fin.ofNat 64 d).val = r.val := e.symm
      simp only [Group.reg, Group.wrS, Writes.s, Fin.getElem_fin, vset_at, this, if_true, e, Option.getD_some]
    · have : ¬ (Fin.ofNat 64 d).val = r.val := fun h => e h.symm
      simp only [Group.reg, Group.wrS, Writes.s, Fin.getElem_fin, vset_at, this, if_false, e, Option.getD_none]
  case markS r =>
    simp only [Group.reg, Group.wrS, Writes.s, getLsbD_setBit _ _ _ (Nat.mod_lt d (by decide : 0 < 64))]
    split <;> rfl

theorem take_wrP (g : Group) (d : Nat) (m : Mask) (f : Fin 32 → Bool) : (Writes.p d m f).take g (g.wrP d m f) := by
  intro ρ
  have skip : d % 8 == 7 → (Writes.p d m f).take g (g.wrP d m f) := by
    intro h ρ
    have hd : d % 8 = 7 := by simpa using h
    rw [Group.wrP, if_pos h]
    cases ρ <;> try rfl
    case p r l => simp only [Writes.p]; rw [if_neg (by omega)]; rfl
  by_cases h7 : (d % 8 == 7) = true
  · exact skip h7 ρ
  cases ρ <;> try (rw [Group.wrP, if_neg h7]; rfl)
  case p r l =>
    have hn : ¬ d % 8 = 7 := by simpa using h7
    by_cases e : r.val = d % 8
    · have : (Fin.ofNat 8 d).val = r.val := e.symm
      have hr : (r == 7) = false := by
        simp only [beq_eq_false_iff_ne, ne_eq, Fin.ext_iff]; show ¬ r.val = 7; omega
      have hr' : r.val ≠ 7 := by omega
      simp only [Group.reg, Group.wrP, h7, Bool.false_eq_true, if_false, Writes.p, Fin.getElem_fin, vmod_at, this, if_true, e,
        true_and, hr, Bool.false_or, mergeMask, BitVec.getLsbD_or, BitVec.getLsbD_and, BitVec.getLsbD_not, getLsbD_maskOf,
        l.isLt, decide_true, Bool.true_and, hn, ne_eq, not_false_eq_true]
      split <;> rename_i h
      · rw [h]; simp
      · rw [show m.getLsbD l.val = false by simpa using h]; simp
    · have : ¬ (Fin.ofNat 8 d).val = r.val := fun h => e h.symm
      simp only [Group.reg, Group.wrP, h7, Bool.false_eq_true, if_false, Writes.p, Fin.getElem_fin, vmod_at, this, e, false_and,
        Option.getD_none]

theorem take_wrQ (g : Group) (d : Nat) (b : Bool) : (Writes.q d b).take g (g.wrQ d b) := by
  intro ρ
  by_cases h3 : (d % 4 == 3) = true
  · have hd : d % 4 = 3 := by simpa using h3
    rw [Group.wrQ, if_pos h3]
    cases ρ <;> try rfl
    case q r => simp only [Writes.q]; rw [if_neg (by omega)]; rfl
  cases ρ <;> try (rw [Group.wrQ, if_neg h3]; rfl)
  case q r =>
    have hn : ¬ d % 4 = 3 := by simpa using h3
    by_cases e : r.val = d % 4
    · have : (Fin.ofNat 4 d).val = r.val := e.symm
      have hr : (r == 3) = false := by
        simp only [beq_eq_false_iff_ne, ne_eq, Fin.ext_iff]; show ¬ r.val = 3; omega
      simp only [Group.reg, Group.wrQ, h3, Bool.false_eq_true, if_false, Writes.q, Fin.getElem_fin, vset_at, this, if_true, e,
        true_and, hr, Bool.false_or, hn, ne_eq, not_false_eq_true, Option.getD_some]
    · have : ¬ (Fin.ofNat 4 d).val = r.val := fun h => e h.symm
      simp only [Group.reg, Group.wrQ, h3, Bool.false_eq_true, if_false, Writes.q, Fin.getElem_fin, vset_at, this, e, false_and,
        Option.getD_none]

theorem take_dst (g : Group) (u : Bool) (d : Nat) (m : Mask) (hm : m ≠ 0) (f : Fin 32 → W32) :
    (Writes.data u d m f).take g (g.dst u d m f) := by
  cases u
  · exact take_wrV g d m f
  · simp only [Writes.data, Group.dst, if_true, hm, if_false]; exact take_wrS g d (f 0)
theorem take_pdst (g : Group) (u : Bool) (d : Nat) (m : Mask) (hm : m ≠ 0) (f : Fin 32 → Bool) :
    (Writes.pred u d m f).take g (g.pdst u d m f) := by
  cases u
  · exact take_wrP g d m f
  · simp only [Writes.pred, Group.pdst, if_true, hm, if_false]; exact take_wrQ g d (f 0)

/-! ## A register write keeps the group on its core -/

@[simp] theorem wrV_lane (g : Group) (d : Nat) (m : Mask) (f : Fin 32 → W32) : (g.wrV d m f).lane = g.lane := rfl
@[simp] theorem wrV_team (g : Group) (d : Nat) (m : Mask) (f : Fin 32 → W32) : (g.wrV d m f).team = g.team := rfl
@[simp] theorem wrS_lane (g : Group) (d : Nat) (x : W32) : (g.wrS d x).lane = g.lane := rfl
@[simp] theorem wrS_team (g : Group) (d : Nat) (x : W32) : (g.wrS d x).team = g.team := rfl
@[simp] theorem wrA_lane (g : Group) (d : Nat) (m : Mask) (f : Fin 32 → BitVec 256) : (g.wrA d m f).lane = g.lane := rfl
@[simp] theorem wrA_team (g : Group) (d : Nat) (m : Mask) (f : Fin 32 → BitVec 256) : (g.wrA d m f).team = g.team := rfl
@[simp] theorem wrP_lane (g : Group) (d : Nat) (m : Mask) (f : Fin 32 → Bool) : (g.wrP d m f).lane = g.lane := by
  unfold Group.wrP; split <;> rfl
@[simp] theorem wrP_team (g : Group) (d : Nat) (m : Mask) (f : Fin 32 → Bool) : (g.wrP d m f).team = g.team := by
  unfold Group.wrP; split <;> rfl
@[simp] theorem wrQ_lane (g : Group) (d : Nat) (b : Bool) : (g.wrQ d b).lane = g.lane := by unfold Group.wrQ; split <;> rfl
@[simp] theorem wrQ_team (g : Group) (d : Nat) (b : Bool) : (g.wrQ d b).team = g.team := by unfold Group.wrQ; split <;> rfl
@[simp] theorem dst_lane (g : Group) (u : Bool) (d : Nat) (m : Mask) (f : Fin 32 → W32) : (g.dst u d m f).lane = g.lane := by
  unfold Group.dst; split
  · split <;> rfl
  · rfl
@[simp] theorem dst_team (g : Group) (u : Bool) (d : Nat) (m : Mask) (f : Fin 32 → W32) : (g.dst u d m f).team = g.team := by
  unfold Group.dst; split
  · split <;> rfl
  · rfl
@[simp] theorem pdst_lane (g : Group) (u : Bool) (d : Nat) (m : Mask) (f : Fin 32 → Bool) : (g.pdst u d m f).lane = g.lane := by
  unfold Group.pdst; split
  · split <;> simp
  · simp
@[simp] theorem pdst_team (g : Group) (u : Bool) (d : Nat) (m : Mask) (f : Fin 32 → Bool) : (g.pdst u d m f).team = g.team := by
  unfold Group.pdst; split
  · split <;> simp
  · simp
@[simp] theorem wrP_hang (g : Group) (d : Nat) (m : Mask) (f : Fin 32 → Bool) : (g.wrP d m f).hangAct = g.hangAct := by
  unfold Group.wrP; split <;> rfl
@[simp] theorem wrQ_hang (g : Group) (d : Nat) (b : Bool) : (g.wrQ d b).hangAct = g.hangAct := by unfold Group.wrQ; split <;> rfl
@[simp] theorem dst_hang (g : Group) (u : Bool) (d : Nat) (m : Mask) (f : Fin 32 → W32) : (g.dst u d m f).hangAct = g.hangAct := by
  unfold Group.dst; split
  · split <;> rfl
  · rfl
@[simp] theorem pdst_hang (g : Group) (u : Bool) (d : Nat) (m : Mask) (f : Fin 32 → Bool) : (g.pdst u d m f).hangAct = g.hangAct := by
  unfold Group.pdst; split
  · split <;> simp
  · simp
/-- Whether a group stays depends on its team, its lanes and a waiting hang action alone. -/
theorem stays_of {s : State} {g g' : Group} (h : g.stays s) (ht : g'.team = g.team) (hl : g'.lane = g.lane)
    (hh : g'.hangAct = g.hangAct) : g'.stays s := by
  refine ⟨by rw [ht]; exact h.1, ?_, by rw [hh]; exact h.2.2⟩
  have := h.2.1; rw [live_iff] at *; rw [hl]; exact this

end Sys2Proof.Machine
end

