-- ==== Sys2Proof/Laws/Results.lean ====
section
/-! SUPPORT. What a group instruction with one destination leaves, said once; the memories after reset. -/

namespace Sys2Proof.Machine
open Sys2Proof

/-- An instruction whose meaning writes one data destination answers a next state with exactly that write. -/
theorem issueRegs_dst {i : Instr} {s : State} {n : Slot} {f : Form} {g : Group} {r : Run} {d : Nat}
    (k : Hd → Group → Run → Group) (y : Fin 32 → W32) (h : Ready i s n f g r) (ha : acting f.hd g r ≠ 0) (hs : g.stays s)
    (he : exec i s = issueRegs i s k) (hk : k f.hd g r = g.dst f.hd.u d (acting f.hd g r) y) :
    ∃ t, exec i s = .next t ∧ OnlyGroup s t n ∧ (Writes.data f.hd.u d (acting f.hd g r) y).take g (t.grp s.core n) := by
  obtain ⟨t, e1, e2, e3⟩ := issueRegs_spec k h ha (by rw [hk]; exact stays_of hs (by simp) (by simp) (by simp))
  exact ⟨t, he.trans e1, e2, fun ρ => by rw [e3, hk]; exact take_dst g _ _ _ ha _ ρ⟩

/-- An instruction whose meaning writes one predicate destination answers a next state with exactly that write. -/
theorem issueRegs_pdst {i : Instr} {s : State} {n : Slot} {f : Form} {g : Group} {r : Run} {d : Nat}
    (k : Hd → Group → Run → Group) (y : Fin 32 → Bool) (h : Ready i s n f g r) (ha : acting f.hd g r ≠ 0) (hs : g.stays s)
    (he : exec i s = issueRegs i s k) (hk : k f.hd g r = g.pdst f.hd.u d (acting f.hd g r) y) :
    ∃ t, exec i s = .next t ∧ OnlyGroup s t n ∧ (Writes.pred f.hd.u d (acting f.hd g r) y).take g (t.grp s.core n) := by
  obtain ⟨t, e1, e2, e3⟩ := issueRegs_spec k h ha (by rw [hk]; exact stays_of hs (by simp) (by simp) (by simp))
  exact ⟨t, he.trans e1, e2, fun ρ => by rw [e3, hk]; exact take_pdst g _ _ _ ha _ ρ⟩

/-- Every memory of the package has the canonical form after reset. -/
theorem reset_memories_wf :
    Memory.wf State.reset.mem.dram = true ∧ Memory.wf State.reset.mem.pst = true ∧ Memory.wf State.reset.mem.media = true
    ∧ Memory.wf State.reset.mem.host = true ∧ Memory.wf State.reset.mem.fabric = true
    ∧ (∀ (c : CoreId) (r : Role), Memory.wf (State.reset.comp c r).imem = true ∧ Memory.wf (State.reset.comp c r).dmem = true)
    ∧ ∀ (c : CoreId) (k : Slot), Memory.wf (State.reset.team c k).shared = true ∧ Memory.wf (State.reset.team c k).wbuf = true
        ∧ Memory.wf (State.reset.team c k).xbuf = true ∧ Memory.wf (State.reset.team c k).ybuf = true := by
  refine ⟨rfl, rfl, rfl, rfl, rfl, fun c r => ?_, fun c k => ?_⟩
  · cases r <;> simp [State.reset, State.comp, CtxCore.comp] <;> decide
  · simp [State.reset, State.team]; decide

end Sys2Proof.Machine
end

