-- ==== Sys2Proof/Tests/Slice0.lean ====
section
/-! SUPPORT. Tests: the decoding of words written out by hand, ill-formed terms that the checks refuse, single steps with the
results that the spec gives, and for every statement with hypotheses a state and operands that meet them together. -/

namespace Sys2Proof.Tests
open Sys2Proof Sys2Proof.Machine

set_option maxRecDepth 30000
set_option exponentiation.threshold 600

/-! ## A bench: group 0 of core 0 at a clause of one word -/

/-- 256 vector registers, 16 fragments, 96 barriers, 8 rings, 4 KiB of SHARED, 1 KiB of
each typed buffer, 4 KiB of code. -/
def benchRec : LRec := vset (vset (vset (.replicate 32 0) 7 0x4002001) 6 (bits 37 37 ||| bits 24 24 ||| bits 20 19 ||| bits 13 13 ||| bits 8 8)) 1 0x0000100000000000
/-- Group 0 of core 0 resident in a live team, all lanes ready, at the only word of an open clause. -/
def bench (w : W64) : State :=
  let s := State.reset.modGrp 0 0 fun g => { g with
    resident := true, lane := .replicate 32 .ready
    run := some { pc := 0, hdr := 0xC5000000C0000000, words := [w], lanes := BitVec.allOnes 32 } }
  s.modTeam 0 0 fun t => { t with live := true, lrec := benchRec }
/-- The clause of the bench. -/
def benchRun (w : W64) : Run := { pc := 0, hdr := 0xC5000000C0000000, words := [w], lanes := BitVec.allOnes 32 }

/-- The hypotheses of Ready, as one decision. -/
def readyB (i : Instr) (s : State) (n : Slot) (f : Form) (r : Run) : Bool :=
  let g := s.grp s.core n
  let rec' := (s.team s.core g.team).lrec
  decide (s.agent = .group n) && g.resident && g.fetch.isNone && g.block.looks && decide (g.run = some r) && decide (r.idx ≤ hdrN r.hdr)
    && decide (clauseUnit i &&& hdrCls r.hdr = clauseUnit i) && f.wf && (!f.last || decide (r.idx = hdrN r.hdr))
    && f.regs.all (fun u => allocated u (LRec.nv rec') (LRec.na rec')) && (fieldTrap i (s.det s.core) (s.team s.core g.team)).isNone
    && decide (f.hd.sb ≠ 7 → (g.out.filter fun o => o.sb == f.hd.sb).length < 16)
    && g.out.all (fun o => o.dests.all fun d => (guardRun f.hd :: f.regs.map useRun).all fun u => !d.meets u)
    && f.regs.all (fun u => decide (u.cls = .v → ∀ k < u.len, g.spilled.getLsbD (u.num.toNat + k) = false))
    && (poisonRead (readLanes i f.hd g r) f.regs g).isNone && (deferTrap i (s.ctxRec (s.team s.core g.team).asid)).isNone
    && decide (bitCount (newRegs f g) ≤ freeSlots s s.core)

theorem ready_of (i : Instr) (s : State) (n : Slot) (f : Form) (r : Run) (hf : i.form = some f) (h : readyB i s n f r = true) :
    Ready i s n f (s.grp s.core n) r := by
  simp only [readyB, Bool.and_eq_true, decide_eq_true_eq, Option.isNone_iff_eq_none, List.all_eq_true, Bool.or_eq_true, Bool.not_eq_true'] at h
  obtain ⟨⟨⟨⟨⟨⟨⟨⟨⟨⟨⟨⟨⟨⟨⟨⟨h1, h2⟩, h3⟩, h4⟩, h5⟩, h6⟩, h8⟩, h9⟩, h10⟩, h11⟩, h12⟩, h13⟩, h14⟩, h15⟩, h16⟩, h17⟩, h18⟩ := h
  exact ⟨h1, rfl, h2, h3, h4, h5, h6, hf, h8, h9, fun hl => h10.resolve_left (by simp [hl]), h11, h12, h13, h14, h15, fun _ => h18, fun _ => h16, fun _ => h17⟩

/-- Ready, with a lane that acts, in a group that stays. -/
def Meets (i : Instr) (s : State) : Prop :=
  ∃ n f g r, Ready i s n f g r ∧ acting f.hd g r ≠ 0 ∧ g.stays s
def meetsB (i : Instr) (s : State) : Bool :=
  match i.form, (s.grp s.core 0).run with
  | some f, some r => readyB i s 0 f r && acting f.hd (s.grp s.core 0) r != 0
      && !gridKilled s (s.team s.core (s.grp s.core 0).team) && (s.grp s.core 0).liveLanes != 0
      && (s.grp s.core 0).hangAct != 2
  | _, _ => false
theorem meets_of (i : Instr) (s : State) (h : meetsB i s = true) : Meets i s := by
  unfold meetsB at h
  split at h
  · rename_i f r hf hr
    simp only [Bool.and_eq_true, Bool.not_eq_true', bne_iff_ne, ne_eq] at h
    exact ⟨0, f, _, r, ready_of i s 0 f r hf h.1.1.1.1, h.1.1.1.2, h.1.1.2, h.1.2, h.2⟩
  · cases h

/-! ## Terms -/

/-- The bench with its group changed. -/
def benchG (f : Group → Group) : State := (bench 0).modGrp 0 0 f
/-- The bench with its team changed. -/
def benchT (f : Team → Team) : State := (bench 0).modTeam 0 0 f
/-- An unconditional vector and an unconditional uniform instruction, on no counter. -/
def hv : Hd := ⟨false, 7, false, 7⟩
def hu : Hd := ⟨true, 7, false, 3⟩
/-- The same on counter SB0. -/
def hv0 : Hd := ⟨false, 0, false, 7⟩
def hu0 : Hd := ⟨true, 0, false, 3⟩
def z : Low := ⟨false, false, false, 0⟩
def z23 : Low := ⟨true, false, false, 0⟩
def z22 : Low := ⟨false, true, false, 0⟩
def fr (d a b c h : BitVec 8) : FmtR := ⟨hv, z, d, a, b, c, h⟩
def fu (d a b c h : BitVec 8) : FmtR := ⟨hu, z, d, a, b, c, h⟩
def fi (d a : BitVec 8) (imm : BitVec 24) : FmtI24 := ⟨hv, z23, d, a, imm⟩
def fm (d : BitVec 8) (m : BitVec 3) (lh : BitVec 6) : FmtM := ⟨hv, ⟨false, false, false, m⟩, d, 0, lh, 8, 0⟩
def fa (op : BitVec 6) (d : BitVec 8) (w64 : Bool) (lh : BitVec 6) (b : BitVec 8) (ord : BitVec 2) (sco : BitVec 3) : FmtMA :=
  ⟨hv, op, d, 0, lh, 8, b, 0, w64, ord, sco⟩
/-- A one-dimensional entry of 32-bit elements with every right. -/
def ent (space base ext : Nat) : Ent :=
  BitVec.ofNat 512 (base + space <<< 57 + (if space = 1 then 1 <<< 67 else 0) + 31 <<< 69 + 1 <<< 127 + ext <<< 128 + 1 <<< 256)
/-- The bench whose slot 4 holds an entry. -/
def benchL (space ext : Nat) : State := benchT fun t => { t with ls := vset t.ls 4 (ent space 0 ext) }
/-! ## Decoding: a word of every family, written out from R186 to R190, R195 and R336 -/

theorem test_decode_lop : decode 0x960403020101DC0D = .ok (.lop (fr 1 2 3 4 0x96)) := rfl
theorem test_decode_iadd_i24 : decode 0xFFFFFB0A1481DC01 = .ok (.iaddI24 (fi 20 10 0xFFFFFB)) := rfl
theorem test_decode_fadd : decode 0x020003020105DC80 = .ok (.fadd ⟨hv, ⟨false, false, false, 1⟩, 1, 2, 3, 0, 2⟩) := rfl
theorem test_decode_fmul_i24 : decode 0x3F4000040481DC81 = .ok (.fmulI24 (fi 4 4 0x3F4000)) := rfl
theorem test_decode_qnt : decode 0x040200050601DD06 = .ok (.qnt (fr 6 5 0 2 4)) := rfl
theorem test_decode_shfl : decode 0x0D01010506C1DD40 = .ok (.shfl ⟨hv, ⟨true, true, false, 0⟩, 6, 5, 1, 1, 0x0D⟩) := rfl
theorem test_decode_ld : decode 0x001008440D882980
    = .ok (.ld ⟨⟨false, 0, true, 2⟩, ⟨true, false, false, 2⟩, 13, 1, 4, 8, 16⟩) := rfl
theorem test_decode_st : decode 0x000008041409DD81 = .ok (.st ⟨hv, ⟨false, false, false, 2⟩, 20, 0, 4, 8, 0⟩) := rfl
theorem test_decode_ltsub : decode 0x001008030903CD88 = .ok (.ltsub ⟨hu, z, 9, 3, 8, 16, 0⟩) := rfl
theorem test_decode_atom : decode 0x0B09080205005E00
    = .ok (.atom ⟨⟨false, 1, false, 7⟩, 0, 5, 0, 2, 8, 9, 0, false, 1, 3⟩) := rfl
theorem test_decode_redd : decode 0x020302060001DE05 = .ok (.redd ⟨hv, 0, 0, 0, 6, 2, 3, 0, false, 0, 2⟩) := rfl
theorem test_decode_barw : decode 0x110000030001DE42 = .ok (.barw (fr 0 3 0 0 0x11)) := rfl
theorem test_decode_fence : decode 0x1C0000000001DE45 = .ok (.fence (fr 0 0 0 0 0x1C)) := rfl
theorem test_decode_bra : decode 0xFFFFFFF00001C680 = .ok (.bra ⟨⟨false, 7, false, 1⟩, z, 0, 0xFFFFFFF0⟩) := rfl
theorem test_decode_call : decode 0x000000A02801DE82 = .ok (.call ⟨hv, z, 0x28, 0xA0⟩) := rfl
theorem test_decode_phint : decode 0x000A82000001DE8A = .ok (.phint ⟨hv, z, 0, 0, 0x000A82⟩) := rfl
theorem test_decode_qmma : decode 0x0202141002009EC0 = .ok (.qmma ⟨⟨false, 2, false, 7⟩, z, 2, 16, 20, 2, 2⟩) := rfl
theorem test_decode_mxmm : decode 0x000002010082CEC6 = .ok (.mxmm ⟨⟨true, 3, false, 3⟩, z23, 0, 1, 2, 0, 0⟩) := rfl
theorem test_decode_cpt : decode 0x06940703C6030F00
    = .ok (.cpt ⟨⟨true, 4, false, 3⟩, 0, 0, true, true, 6, 0, 3, 0, 7, 2, 20, 3⟩) := rfl
theorem test_decode_cpput : decode 0xFE1407030643CF05
    = .ok (.cpput ⟨hu, 2, 0, false, false, 6, 0, 3, 0, 7, 0, 20, 127⟩) := rfl
theorem test_decode_rte : decode 0x000000000003CF43 = .ok (.rte (fu 0 0 0 0 0)) := rfl
theorem test_decode_ill : decode 0x000000000001DF45 = .ok (.ill 0x77) := rfl
theorem test_decode_unassigned : decode 0x000000000001DC20 = .error .illegalOpcode := rfl
theorem test_decode_reserved_field : decode 0x000000000101DC00 = .error .illegalField := rfl
theorem test_decode_kcpt : decodeK 0x0005850B = .ok (.kcpt ⟨10, 11⟩, 4) := rfl
theorem test_decode_krgget : decodeK 0x0262B02B = .ok (.krgget ⟨true, 5, 6⟩, 4) := rfl
/-- The same encodings from the other side. -/
theorem test_encode_lop : encode (.lop (fr 1 2 3 4 0x96)) = some 0x960403020101DC0D := rfl
theorem test_encode_cpt : encode (.cpt ⟨⟨true, 4, false, 3⟩, 0, 0, true, true, 6, 0, 3, 0, 7, 2, 20, 3⟩) = some 0x06940703C6030F00 := rfl
theorem test_encode_kcpt : encodeK (.kcpt ⟨10, 11⟩) = some 0x0005850B := rfl

/-! ## Ill-formed terms: one for each check of R192 that needs the word alone -/

/-- SB is 6. -/
theorem test_refused_sb : (Instr.iadd { fr 1 2 3 0 0 with hd := ⟨false, 6, false, 7⟩ }).wf = false := by decide
/-- U is 1 and bit 12 is set. -/
theorem test_refused_guard : (Instr.iadd { fr 1 2 3 0 0 with hd := ⟨true, 7, false, 7⟩ }).wf = false := by decide
/-- U is 1 where the instruction is a vector one, and 0 where it is uniform. -/
theorem test_refused_u : (Instr.shfl { fr 1 2 3 1 0 with hd := hu }).wf = false ∧ (Instr.ltsub (fr 9 3 8 16 0)).wf = false := by decide
/-- A low modifier that the instruction does not have. -/
theorem test_refused_modifier : (Instr.mov { fr 1 2 0 0 0 with lo := ⟨false, true, false, 0⟩ }).wf = false := by decide
/-- A byte that must be zero. -/
theorem test_refused_zero_byte : (Instr.iadd (fr 1 2 3 4 0)).wf = false := by decide
/-- A run that leaves its class: V255 and the register after it; S64. -/
theorem test_refused_run : (Instr.ld (fm 255 3 4)).wf = false ∧ (Instr.iadd (fu 64 1 2 0 0)).wf = false := by decide
/-- An operation code that is not assigned. -/
theorem test_refused_op : (Instr.atom (fa 11 1 false 4 2 0 0)).wf = false ∧ (Instr.mxmm (fu 0 8 2 0 0)).wf = false := by decide
/-- An order or a scope that the instruction does not take. -/
theorem test_refused_order : (Instr.red (fa 0 0 false 4 2 2 0)).wf = false ∧ (Instr.atom (fa 0 1 false 4 2 0 6)).wf = false := by decide
/-- A rounding mode above 4, a special register that does not exist. -/
theorem test_refused_rounding : (Instr.fadd { fr 1 2 3 0 0 with lo := ⟨false, false, false, 5⟩ }).wf = false
    ∧ (Instr.rdsr ⟨hv, z, 1, 0x0FF, 0, 0⟩).wf = false := by decide
/-- A companion wait of the form that is not assigned. -/
theorem test_refused_companion : (Instr.kbarw ⟨3, false, 1, 0⟩).wf = false := by decide
/-! ## The decoding of every group instruction: words assembled from R186 to R188 with the opcodes of R195 -/

/-- Fields of the words below, one set for each format. -/
def wR : FmtR := ⟨⟨false, 5, true, 3⟩, ⟨false, true, false, 5⟩, 0x11, 0x22, 0x33, 0x44, 0x95⟩
def wRi : FmtR := ⟨⟨false, 5, true, 3⟩, ⟨true, true, false, 5⟩, 0x11, 0x22, 0x33, 0x44, 0x95⟩
def wI24n : FmtI24 := ⟨⟨false, 5, true, 3⟩, ⟨false, true, false, 5⟩, 0x11, 0x22, 0x876543⟩
def wI24 : FmtI24 := ⟨⟨false, 5, true, 3⟩, ⟨true, true, false, 5⟩, 0x11, 0x22, 0x876543⟩
def wI32 : FmtI32 := ⟨⟨false, 5, true, 3⟩, ⟨false, true, false, 5⟩, 0x11, 0x87654321⟩
def wM : FmtM := ⟨⟨false, 5, true, 3⟩, ⟨false, true, false, 5⟩, 0x11, 2, 0x29, 0x33, 0x8765⟩
def wC : FmtC := ⟨⟨false, 5, true, 3⟩, ⟨false, true, false, 5⟩, 0x11, 0x8765432F⟩
def wRE : FmtRE := ⟨⟨false, 5, true, 3⟩, 6, 3, true, false, 0x2A, 0, 0x15, 0, 0x26, 5, 0x33, 0x5B⟩
def wSY : FmtSY := ⟨⟨false, 5, true, 3⟩, ⟨false, true, false, 5⟩, 0x11, 0x9A5, 0, 0⟩
def wMA : FmtMA := ⟨⟨false, 5, true, 3⟩, 0x2B, 0x11, 2, 0x29, 0x33, 0x44, 0, true, 2, 5⟩

theorem test_words_integer_and_logic_1 : [
    0x9544332211556C00, 0x9544332211556C01, 0x8765432211D56C01, 0x9544332211556C02, 0x8765432211D56C02,
    0x9544332211556C03, 0x9544332211556C04, 0x8765432211D56C04, 0x9544332211556C05, 0x9544332211556C06,
    0x9544332211556C07, 0x9544332211556C08, 0x8765432211D56C08, 0x9544332211556C09, 0x8765432211D56C09,
    0x9544332211556C0A, 0x9544332211556C0B, 0x9544332211556C0C, 0x9544332211556C0D, 0x9544332211556C0E,
    0x8765432211D56C0E, 0x9544332211556C0F, 0x8765432211D56C0F, 0x9544332211556C10].map rawDecode
  = [.nop wR, .iadd wR, .iaddI24 wI24, .isub wR, .isubI24 wI24, .iaddc wR, .imul wR, .imulI24 wI24, .imulh wR,
    .imad wR, .imadw wR, .imin wR, .iminI24 wI24, .imax wR, .imaxI24 wI24, .iabs wR, .ineg wR, .idot4 wR, .lop
    wR, .shl wR, .shlI24 wI24, .shr wR, .shrI24 wI24, .sar wR].map some := rfl

theorem test_words_integer_and_logic_2 : [
    0x8765432211D56C10, 0x9544332211556C11, 0x9544332211556C12, 0x8765432211D56C12, 0x9544332211556C13,
    0x9544332211556C14, 0x9544332211556C15, 0x9544332211556C16, 0x9544332211556C17, 0x8765432211D56C17,
    0x9544332211556C18, 0x9544332211556C19, 0x8765432111556C1A, 0x9544332211556C1B, 0x9544332211556C1C,
    0x9544332211556C1D, 0x9544332211556C1E, 0x9544332211556C1F].map rawDecode
  = [.sarI24 wI24, .shf wR, .bfx wR, .bfxI24 wI24, .bfi wR, .popc wR, .clz wR, .brev wR, .icmp wR, .icmpI24 wI24,
    .sel wR, .mov wR, .movi wI32, .prmt wR, .gfmul wR, .gfmac wR, .crc32c wR, .plop wR].map some := rfl

theorem test_words_float_1 : [
    0x9544332211556C80, 0x8765432211D56C80, 0x9544332211556C81, 0x8765432211D56C81, 0x9544332211556C82,
    0x9544332211556C83, 0x8765432211D56C83, 0x9544332211556C84, 0x8765432211D56C84, 0x9544332211556C85,
    0x8765432211D56C85, 0x9544332211556C86, 0x9544332211556C87, 0x9544332211556C88, 0x9544332211556C89,
    0x9544332211556C8A, 0x9544332211556C8B, 0x9544332211556C8C, 0x9544332211556C8D, 0x9544332211556C8E,
    0x9544332211556C8F, 0x9544332211556C90, 0x9544332211556C91, 0x9544332211556C92].map rawDecode
  = [.fadd wR, .faddI24 wI24, .fmul wR, .fmulI24 wI24, .ffma wR, .fmin wR, .fminI24 wI24, .fmax wR, .fmaxI24 wI24,
    .fcmp wR, .fcmpI24 wI24, .fclass wR, .frnd wR, .frcp wR, .frsq wR, .fsqrt wR, .fdiv wR, .fexp2 wR, .flog2
    wR, .fsin wR, .fcos wR, .ftanh wR, .fsigm wR, .fscale wR].map some := rfl

theorem test_words_float_2 : [
    0x9544332211556C93, 0x9544332211556C94, 0x9544332211556C95, 0x9544332211556C96, 0x9544332211556C97,
    0x9544332211556C98, 0x9544332211556C99].map rawDecode
  = [.fexpo wR, .hadd2 wR, .hmul2 wR, .hfma2 wR, .hmin2 wR, .hmax2 wR, .fdot2 wR].map some := rfl

theorem test_words_conversion : [
    0x9544332211556D00, 0x9544332211556D01, 0x9544332211556D02, 0x9544332211556D03, 0x9544332211556D04,
    0x9544332211556D05, 0x9544332211556D06, 0x9544332211556D07].map rawDecode
  = [.cvtF2f wR, .cvtF2i wR, .cvtI2f wR, .cvtI2i wR, .pack wR, .unpack wR, .qnt wR, .dqnt wR].map some := rfl

theorem test_words_lane : [
    0x9544332211556D40, 0x9544332211556D41, 0x9544332211556D42, 0x9544332211556D43, 0x9544332211556D44,
    0x9544332211556D45, 0x9544332211556D46, 0x9544332211556D47, 0x9544332211556D48].map rawDecode
  = [.shfl wR, .bcst wR, .vote wR, .matchLanes wR, .redux wR, .fredux wR, .scan wR, .s2v wR, .v2s wR].map some := rfl

theorem test_words_memory : [
    0x876533A911556D80, 0x876533A911556D81, 0x876533A911556D82, 0x876533A911556D83, 0x876533A911556D84,
    0x876533A911556D85, 0x876533A911556D86, 0x876533A911556D87, 0x9544332211556D88, 0x9544332211D56D88,
    0x9544332211556D89].map rawDecode
  = [.ld wM, .st wM, .ldu wM, .stu wM, .ldf wM, .stf wM, .pref wM, .cctl wM, .ltsub wR, .ltsubInv wRi, .ltqry wR].map some := rfl

theorem test_words_atomics_and_futures : [
    0x354433A911AD6E00, 0x354433A911AD6E01, 0x354433A911AD6E02, 0x354433A911AD6E03, 0x354433A911AD6E04,
    0x354433A911AD6E05, 0x9544332211556E06, 0x354433A911AD6E07, 0x354433A911AD6E08, 0x354433A911AD6E09,
    0x354433A911AD6E0A].map rawDecode
  = [.atom wMA, .atomf wMA, .cas wMA, .red wMA, .redf wMA, .redd wMA, .redflush wR, .ffill wMA, .fwait wMA, .freset
    wMA, .waita wMA].map some := rfl

theorem test_words_synchronisation : [
    0x9544332211556E40, 0x9544332211556E41, 0x9544332211556E42, 0x9544332211556E43, 0x9544332211556E44,
    0x9544332211556E45, 0x9544332211556E46, 0x9544332211556E47, 0x9544332211556E48, 0x9544332211556E49
   ].map rawDecode
  = [.bari wR, .bara wR, .barw wR, .bars wR, .barq wR, .fence wR, .pfence wR, .psync wR, .stepClose wR, .snap wR].map some := rfl

theorem test_words_control : [
    0x8765432F11556E80, 0x9544332211556E81, 0x8765432F11556E82, 0x9544332211556E83, 0x9544332211556E84,
    0x8765432F11556E85, 0x9544332211556E86, 0x9544332211556E87, 0x9544332211556E88, 0x8765432211556E89,
    0x8765432211556E8A, 0x8765432211556E8B, 0x8765432211556E8C].map rawDecode
  = [.bra wC, .brx wR, .call wC, .callx wR, .ret wR, .meet wC, .join wR, .exitLanes wR, .yieldTurn wR, .sleep
    wI24n, .phint wI24n, .trap wI24n, .bkpt wI24n].map some := rfl

theorem test_words_matrix_and_rings : [
    0x9544332211556EC0, 0x9544332211556EC1, 0x9544332211556EC2, 0x9544332211556EC3, 0x9544332211556EC4,
    0x9544332211556EC5, 0x9544332211556EC6, 0x9544332211556EC7, 0x9544332211556EC8, 0x9544332211556EC9,
    0x9544332211556ECA, 0x9544332211D56ECA, 0x9544332211556ECB, 0x9544332211556ECC, 0x9544332211556ECD
   ].map rawDecode
  = [.qmma wR, .qmmb wR, .qzero wR, .qmov wR, .mxcfg wR, .mxw wR, .mxmm wR, .mxscan wR, .mxepi wR, .mxt wR, .rgset
    wR, .rgsetClr wRi, .rgput wR, .rgget wR, .rgqry wR].map some := rfl

theorem test_words_copy_and_tasks : [
    0xB7732615AACD6F00, 0xB7732615AACD6F01, 0xB7732615AACD6F02, 0xB7732615AACD6F03, 0xB7732615AACD6F04,
    0xB7732615AACD6F05, 0xB7732615AACD6F06, 0x9544332211556F07, 0x9544332211556F08, 0x8765432F11556F09,
    0x9544332211556F0A, 0x9544332211556F0B, 0x9544332211556F0C, 0x876533A911556F0D].map rawDecode
  = [.cpt wRE, .cpg wRE, .cps wRE, .cpf wRE, .cpr wRE, .cpput wRE, .cpget wRE, .cpc wR, .cpq wR, .tspawn wC,
    .tchild wR, .twait wR, .targ wR, .stage wM].map some := rfl

theorem test_words_system : [
    0x000009A511556F40, 0x000009A511556F41, 0x000009A511556F42, 0x9544332211556F43, 0x8765432211556F44,
    0x00048D158000AF45].map rawDecode
  = [.rdsr wSY, .wrsr wSY, .rdcnt wSY, .rte wR, .flt wI24n, .ill 0x1234560002B].map some := rfl
/-! ## The decoding of companion instructions: words of R336, and of RISC-V for the standard ones -/

theorem test_words_custom : [
    0x0005850B, 0x0005950B, 0x0005A50B, 0x0005B50B, 0x0005C50B, 0x0005D50B, 0x0005E50B, 0x0005F50B, 0x0205F50B,
    0x0062802B, 0x0A62902B, 0x0262A02B, 0x0062B02B, 0x5662C52B, 0xD662C52B].map rawDecodeK
  = [.kcpt ⟨10, 11⟩, .kcpg ⟨10, 11⟩, .kcps ⟨10, 11⟩, .kcpf ⟨10, 11⟩, .kcpr ⟨10, 11⟩, .kcpput ⟨10, 11⟩, .kcpget ⟨10, 11⟩,
    .kcpqState ⟨10, 11⟩, .kcpqDone ⟨10, 11⟩, .kbara ⟨5, 6⟩, .kbarw ⟨1, true, 5, 6⟩, .krgput ⟨true, 5, 6⟩, .krgget ⟨false, 5, 6⟩,
    .kltLw ⟨0x2B, 10, 5, 6⟩, .kltSw ⟨0x2B, 10, 5, 6⟩].map fun i => some (i, 4) := rfl
theorem test_words_standard : [
    0x12345537, 0x12345517, 0xFF1FF0EF, 0x008280E7, 0xFE6298E3, 0xFFC2A503, 0xFE62AE23, 0x80028513, 0x4032D513, 0x406282B3,
    0x026292B3, 0x2062A2B3, 0x605292B3, 0x300295F3, 0x00000073, 0x00100073, 0x10500073, 0x0FF0000F].map rawDecodeK
  = [.rv32 false (.lui 10 0x12345), .rv32 false (.auipc 10 0x12345), .rv32 false (.jal 1 0xFFFF8), .rv32 false (.jalr 1 5 8),
    .rv32 false (.branch .bne 5 6 0xFF8), .rv32 false (.load .lw 10 5 0xFFC), .rv32 false (.store .sw 5 6 0xFFC),
    .rv32 false (.opImm .addi 10 5 0x800), .rv32 false (.shift .srai 10 5 3), .rv32 false (.op .sub 5 5 6),
    .rv32 false (.op .mulh 5 5 6), .rv32 false (.op .sh1add 5 5 6), .rv32 false (.op .rol 5 5 5),
    .rv32 false (.csr .rw false 11 0x300 5), .ecall, .ebreak false, .wfi, .companionFence 0 15 15 0 0].map fun i => some (i, 4) := rfl
theorem test_words_compressed : [0x0000A521, 0x00004501, 0x00009002, 0x00008082].map rawDecodeK
  = [.rv32 true (.jal 0 0x304), .rv32 true (.opImm .addi 10 0 0), .ebreak true, .rv32 true (.jalr 0 1 0)].map fun i => some (i, 2) := rfl
/-! ## Group instructions: each can be ready with a lane that acts, in a group that stays -/

theorem test_ready_integer : ∀ i ∈ [Instr.nop (fr 0 0 0 0 0), .iadd (fr 1 2 3 0 0), .iaddI24 (fi 1 2 5), .isub (fr 1 2 3 0 0), .isubI24 (fi 1 2 5),
    .iaddc (fr 1 2 3 7 0), .imul (fr 1 2 3 0 0), .imulI24 (fi 1 2 5), .imulh (fr 1 2 3 0 0), .imad (fr 1 2 3 4 0), .imadw (fr 2 4 5 6 0),
    .imin (fr 1 2 3 0 0), .iminI24 (fi 1 2 5), .imax (fr 1 2 3 0 0), .imaxI24 (fi 1 2 5), .iabs (fr 1 2 0 0 0), .ineg (fr 1 2 0 0 0),
    .idot4 (fr 1 2 3 4 0), .lop (fr 1 2 3 4 0x96), .shl (fr 1 2 3 0 0), .shlI24 (fi 1 2 5), .shr (fr 1 2 3 0 0), .shrI24 (fi 1 2 5),
    .sar (fr 1 2 3 0 0), .sarI24 (fi 1 2 5), .shf (fr 1 2 3 4 0), .bfx (fr 1 2 3 0 0), .bfxI24 (fi 1 2 0x0702), .bfi (fr 1 2 3 4 0),
    .popc (fr 1 2 0 0 0), .clz (fr 1 2 0 0 0), .brev (fr 1 2 0 0 0), .icmp (fr 1 2 3 0 0), .icmpI24 (fi 1 2 5), .sel (fr 1 2 3 4 0),
    .mov (fr 1 2 0 0 0), .movi ⟨hv, z, 1, 5⟩, .prmt (fr 1 2 3 4 0), .gfmul (fr 1 2 3 0 0), .gfmac (fr 1 2 3 4 0), .crc32c (fr 1 2 3 0 0),
    .plop (fr 1 2 3 4 0x96)], meetsB i (bench 0) = true := by decide
theorem test_ready_float : ∀ i ∈ [Instr.fadd (fr 1 2 3 0 0), .faddI24 (fi 1 2 5), .fmul (fr 1 2 3 0 0), .fmulI24 (fi 1 2 5), .ffma (fr 1 2 3 4 0),
    .fmin (fr 1 2 3 0 0), .fminI24 (fi 1 2 5), .fmax (fr 1 2 3 0 0), .fmaxI24 (fi 1 2 5), .fcmp (fr 1 2 3 0 0), .fcmpI24 (fi 1 2 5),
    .fclass (fr 1 2 0 0 0), .frnd (fr 1 2 0 0 0), .frcp (fr 1 2 0 0 0), .frsq (fr 1 2 0 0 0), .fsqrt (fr 1 2 0 0 0), .fdiv (fr 1 2 3 0 0),
    .fexp2 (fr 1 2 0 0 0), .flog2 (fr 1 2 0 0 0), .fsin (fr 1 2 0 0 0), .fcos (fr 1 2 0 0 0), .ftanh (fr 1 2 0 0 0), .fsigm (fr 1 2 0 0 0),
    .fscale (fr 1 2 3 0 0), .fexpo (fr 1 2 0 0 0), .hadd2 (fr 1 2 3 0 0), .hmul2 (fr 1 2 3 0 0), .hfma2 (fr 1 2 3 4 0), .hmin2 (fr 1 2 3 0 0),
    .hmax2 (fr 1 2 3 0 0), .fdot2 (fr 1 2 3 4 0), .cvtF2f (fr 1 2 0 2 1), .cvtF2i (fr 1 2 0 1 8), .cvtI2f (fr 1 2 0 8 1), .cvtI2i (fr 1 2 0 8 9),
    .pack (fr 1 2 0 1 2), .unpack (fr 2 4 0 2 1), .qnt (fr 6 5 0 2 4), .dqnt (fr 6 5 0 2 4)], meetsB i (bench 0) = true := by decide
theorem test_ready_lane : ∀ i ∈ [Instr.shfl (fr 6 5 1 1 8), .bcst (fr 1 2 3 0 0), .vote (fr 1 2 0 0 0), .matchLanes (fr 1 2 0 3 0), .redux (fr 1 2 0 0 0),
    .fredux (fr 1 2 0 0 0), .scan (fr 1 2 0 0 0), .scan (fr 1 2 0 0 5), .s2v (fr 1 2 0 0 0), .v2s (fu 1 2 3 0 0)], meetsB i (bench 0) = true := by decide

/-! ## Hypotheses met together: group instructions -/

theorem test_meets_integer : (∃ d view, Rules.intView (.iadd (fr 1 2 3 0 0)) = some (d, view)) ∧ Meets (.iadd (fr 1 2 3 0 0)) (bench 0)
    ∧ Meets (.nop (fr 0 0 0 0 0)) (bench 0) := ⟨⟨_, _, rfl⟩, meets_of _ _ (by decide), meets_of _ _ (by decide)⟩
theorem test_meets_predicate_and_pair : ∃ n f g r w, Rules.intWrites (.imadw (fr 2 4 5 6 0)) f.hd.u g (acting f.hd g r) = some w
    ∧ Ready (.imadw (fr 2 4 5 6 0)) (bench 0) n f g r ∧ acting f.hd g r ≠ 0 ∧ g.stays (bench 0) :=
  ⟨0, _, _, benchRun 0, _, rfl, ready_of _ _ _ _ _ rfl (by decide), by decide, by decide, by decide⟩
/-- ICMP whose destination is P7, and its uniform form whose destination is Q3. -/
theorem test_meets_true_predicates : Meets (.icmp (fr 7 2 3 0 0)) (bench 0) ∧ Meets (.icmp (fu 3 2 3 0 0)) (bench 0) :=
  ⟨meets_of _ _ (by decide), meets_of _ _ (by decide)⟩
/-- MOVI with each of its operations; and standing at a word whose operation is 3, or with FI, SAT or SGN. -/
theorem test_meets_movi : (∀ m ∈ [0, 1, 2], meetsB (.movi ⟨hv, ⟨false, false, false, m⟩, 1, 5⟩) (bench 0) = true)
    ∧ decode 0x000000050109DC1A = .ok (.movi ⟨hv, ⟨false, false, false, 2⟩, 1, 5⟩)
    ∧ Rules.Standing (bench 7) 0 ((bench 7).grp 0 0) (benchRun 7) 7
    ∧ clauseUnit (.movi ⟨hv, ⟨false, false, false, 3⟩, 1, 5⟩) &&& hdrCls (benchRun 7).hdr = clauseUnit (.movi ⟨hv, ⟨false, false, false, 3⟩, 1, 5⟩) :=
  ⟨by decide, rfl, ⟨rfl, rfl, rfl, rfl, rfl, rfl, by decide, rfl⟩, by decide⟩
theorem test_meets_float_short : ∃ n f g r d rm, ∃ y : Fin 32 → W32 × BitVec 5, (∀ l, Rules.floatLane (.fadd (fr 1 2 3 0 0)) ((bench 0).team 0 g.team) f.hd.u g l = some (d, rm, y l))
    ∧ Ready (.fadd (fr 1 2 3 0 0)) (bench 0) n f g r ∧ acting f.hd g r ≠ 0 ∧ g.stays (bench 0)
    ∧ ∀ l, (acting f.hd g r).getLsbD l.val = true → (y l).2 &&& fpEnables g = 0 :=
  ⟨0, _, _, benchRun 0, _, _, _, fun _ => rfl, ready_of _ _ _ _ _ rfl (by decide), by decide, ⟨by decide, by decide⟩, by decide⟩
/-- Infinity minus infinity in lane 0 with the enable of IV set. -/
def benchIv : State := benchG fun g => { g with
  fpstat := 0x100, v := vset (vset g.v 2 (vset (.replicate 32 0) 0 0x7F800000)) 3 (vset (.replicate 32 0) 0 0xFF800000) }
theorem test_meets_float_trap : ∃ n f g r d rm, ∃ (y : Fin 32 → W32 × BitVec 5) (l : Fin 32), (∀ l, Rules.floatLane (.fadd (fr 1 2 3 0 0)) (benchIv.team 0 g.team) f.hd.u g l = some (d, rm, y l))
    ∧ Ready (.fadd (fr 1 2 3 0 0)) benchIv n f g r ∧ (acting f.hd g r).getLsbD l.val = true ∧ (y l).2 &&& fpEnables g ≠ 0
    ∧ ∀ k : Fin 32, k < l → (acting f.hd g r).getLsbD k.val = true → (y k).2 &&& fpEnables g = 0 :=
  ⟨0, _, _, benchRun 0, _, _, _, 0, fun _ => rfl, ready_of _ _ _ _ _ rfl (by decide), by decide, by decide, by decide⟩
theorem test_meets_float_selection : ∃ n f g r w, Rules.selectWrites (.fclass (fr 1 2 0 0 0)) f.hd.u g (acting f.hd g r) = some w
    ∧ Ready (.fclass (fr 1 2 0 0 0)) (bench 0) n f g r ∧ acting f.hd g r ≠ 0 ∧ g.stays (bench 0) :=
  ⟨0, _, _, benchRun 0, _, rfl, ready_of _ _ _ _ _ rfl (by decide), by decide, by decide, by decide⟩
theorem test_meets_float_long : ∃ n f g r d, ∃ y : Fin 32 → Res, (∀ l, Rules.longLane (.frcp (fr 1 2 0 0 0)) f.hd.u g l = some (d, y l))
    ∧ Ready (.frcp (fr 1 2 0 0 0)) (bench 0) n f g r ∧ acting f.hd g r ≠ 0 ∧ g.stays (bench 0) ∧ (∀ o ∈ g.out, ¬ o.pending)
    ∧ ∀ l, (acting f.hd g r).getLsbD l.val = true → (y l).flags &&& fpEnables g = 0 :=
  ⟨0, _, _, benchRun 0, _, _, fun _ => rfl, ready_of _ _ _ _ _ rfl (by decide), by decide, ⟨by decide, by decide⟩, by decide,
    fun _ _ => by show _ &&& (0 : BitVec 5) = 0; simp⟩
theorem test_meets_lane : ∃ n f g r w, Rules.laneWrites (.shfl (fr 6 5 1 1 8)) f.hd.u g r (acting f.hd g r) (takingLanes f.hd g r) = some w
    ∧ Ready (.shfl (fr 6 5 1 1 8)) (bench 0) n f g r ∧ acting f.hd g r ≠ 0 ∧ g.stays (bench 0) :=
  ⟨0, _, _, benchRun 0, _, rfl, ready_of _ _ _ _ _ rfl (by decide), by decide, by decide, by decide⟩
theorem test_meets_redux_and_scan : Meets (.redux (fr 1 2 0 0 0)) (bench 0) ∧ Meets (.scan (fr 1 2 0 0 4)) (bench 0) :=
  ⟨meets_of _ _ (by decide), meets_of _ _ (by decide)⟩
theorem test_meets_float_tree : ∃ n f g r w, ∃ (fl : Fin 32 → BitVec 5) (rm : BitVec 3),
    Rules.treeEffect (.fredux (fr 1 2 0 0 0)) ((bench 0).team 0 g.team) f.hd.u g (acting f.hd g r) (takingLanes f.hd g r) = some (w, fl, rm)
    ∧ Ready (.fredux (fr 1 2 0 0 0)) (bench 0) n f g r ∧ acting f.hd g r ≠ 0 ∧ g.stays (bench 0) ∧ ∀ l, fl l &&& fpEnables g = 0 :=
  ⟨0, _, _, benchRun 0, _, _, _, rfl, ready_of _ _ _ _ _ rfl (by decide), by decide, ⟨by decide, by decide⟩,
    fun _ => by show _ &&& (0 : BitVec 5) = 0; simp⟩
/-! ## Hypotheses met together: memory -/

theorem ok_all {x : Fin 32 → Except Trap Nat} (h : ∀ l : Fin 32, (match x l with | .ok v => v == 0 | _ => false) = true) :
    ∀ l, x l = .ok 0 := by
  intro l
  have := h l
  split at this
  · rename_i v e; rw [e]; simp at this; rw [this]
  · cases this
/-- Every memory instruction can be ready. -/
theorem test_ready_memory : ∀ i ∈ [Instr.ld (fm 20 2 4), .st (fm 20 2 4), .ldu { fm 20 2 4 with hd := hu }, .stu { fm 20 2 4 with hd := hu }, .ldf (fm 2 2 4),
    .stf (fm 2 2 4), .pref { fm 0 0 4 with }, .cctl (fm 0 0 4), .ltsub ⟨hu, z, 9, 4, 8, 16, 0⟩, .ltsubInv ⟨hu, z23, 4, 0, 0, 0, 0⟩,
    .ltqry (fu 1 4 0 0 0), .atom (fa 0 1 false 4 2 0 1), .atomf (fa 0 1 false 4 2 0 1), .cas (fa 0 1 false 4 2 0 1), .red (fa 0 0 false 4 2 0 1),
    .redf (fa 0 0 false 4 2 0 1), .redd (fa 0 0 false 4 2 0 1), .redflush (fr 0 0 0 0 1), .ffill (fa 0 1 false 4 2 0 1), .freset (fa 0 0 false 4 0 0 1)],
    meetsB i (benchL 2 1024) = true := by decide
def mLd : Instr := .ld (fm 20 2 4)
def mSt : Instr := .st (fm 20 2 4)
def mAtom : Instr := .atom (fa 0 1 false 4 2 0 1)
theorem test_meets_scratch_load : ∃ n f g r m, ∃ u : Fin 32 → Nat, Rules.memForm mLd (benchL 2 1024) n f.hd g = some m ∧ (∀ l, Rules.isLoad (m.op l) = true)
    ∧ Ready mLd (benchL 2 1024) n f g r ∧ acting f.hd g r ≠ 0 ∧ g.stays (benchL 2 1024)
    ∧ (∀ l, (acting f.hd g r).getLsbD l.val = true → m.at' l = .ok (u l))
    ∧ isScratch (entSpace (entryOf (benchL 2 1024) g m.lh)) = true ∧ ∀ o ∈ g.out, ¬ o.pending :=
  ⟨0, _, _, benchRun 0, _, fun _ => 0, rfl, fun _ => rfl, ready_of _ _ _ _ _ rfl (by decide), by decide, ⟨by decide, by decide⟩,
    fun l _ => ok_all (by decide) l, by decide, by decide⟩
theorem test_meets_scratch_store : ∃ n f g r m, ∃ u : Fin 32 → Nat, Rules.memForm mSt (benchL 3 1) n f.hd g = some m ∧ (∀ l, Rules.isStore (m.op l) = true)
    ∧ Ready mSt (benchL 3 1) n f g r ∧ acting f.hd g r ≠ 0 ∧ g.stays (benchL 3 1)
    ∧ (∀ l, (acting f.hd g r).getLsbD l.val = true → m.at' l = .ok (u l))
    ∧ isScratch (entSpace (entryOf (benchL 3 1) g m.lh)) = true ∧ ∀ o ∈ g.out, ¬ o.pending :=
  ⟨0, _, _, benchRun 0, _, fun _ => 0, rfl, fun _ => rfl, ready_of _ _ _ _ _ rfl (by decide), by decide, ⟨by decide, by decide⟩,
    fun l _ => ok_all (by decide) l, by decide, by decide⟩
theorem test_meets_scratch_atomic : ∃ n f g r m, ∃ (u : Fin 32 → Nat) (fn : Fin 32 → AtomFn) (sco : BitVec 3) (tag : Option W32) (dst : Option (RegCls × Nat)),
    Rules.memForm mAtom (benchL 2 1024) n f.hd g = some m ∧ (∀ l, m.op l = .atom (fn l) sco tag dst) ∧ m.rel = none ∧ m.acq = none
    ∧ Ready mAtom (benchL 2 1024) n f g r ∧ acting f.hd g r ≠ 0 ∧ g.stays (benchL 2 1024) ∧ (benchL 2 1024).det 0 = false
    ∧ (∀ l, (acting f.hd g r).getLsbD l.val = true → m.at' l = .ok (u l))
    ∧ isScratch (entSpace (entryOf (benchL 2 1024) g m.lh)) = true ∧ ∀ o ∈ g.out, ¬ o.pending :=
  ⟨0, _, _, benchRun 0, _, fun _ => 0, _, _, _, _, rfl, fun _ => rfl, rfl, rfl, ready_of _ _ _ _ _ rfl (by decide), by decide, ⟨by decide, by decide⟩,
    by decide, fun l _ => ok_all (by decide) l, by decide, by decide⟩
/-- An offset of 1 in an entry of extent 1: LAYOUT_BOUNDS in the lowest lane. -/
theorem test_meets_memory_trap : ∃ n f g r m t, Rules.memForm (.ld { fm 20 2 4 with off := 1 }) (benchL 2 1) n f.hd g = some m
    ∧ Ready (.ld { fm 20 2 4 with off := 1 }) (benchL 2 1) n f g r ∧ (acting f.hd g r).getLsbD 0 = true ∧ m.at' 0 = .error t
    ∧ (∀ k : Fin 32, k < 0 → (acting f.hd g r).getLsbD k.val = true → ∃ u, m.at' k = .ok u) ∧ t.cause = 0x0B :=
  ⟨0, _, _, benchRun 0, _, _, rfl, ready_of _ _ _ _ _ rfl (by decide), by decide, rfl, fun k hk => absurd hk (by simp), by decide⟩
/-- R64 at the last element of an extent, and one past it. -/
def locateAt (c : W32) (off : Int) (k : AccKind) (size : Nat) : Except Trap Nat :=
  locate (bench 0) ((bench 0).team 0 0) ⟨0, 0, 0, 0⟩ k 4 (ent 2 0 1024) [c] off size none
theorem test_locate_last : locateAt 1023 0 .load 4 = .ok 4092 := rfl
theorem test_locate_past : (match locateAt 1023 1 .load 4 with | .error t => t.cause | _ => 0) = 0x0B := by decide
theorem test_locate_negative : (match locateAt 0 (-1) .load 4 with | .error t => t.cause | _ => 0) = 0x0B := by decide
theorem test_locate_shape : (match locate (bench 0) ((bench 0).team 0 0) ⟨0, 0, 0, 0⟩ .load 4 (ent 2 0 1024) [0, 0] 0 4 none with
    | .error t => t.cause | _ => 0) = 0x0A := by decide
/-- R66: the gap of a block is skipped; R67: permutation 1 exchanges quarters of a row. -/
theorem test_pitch : pitch 0 191 = 191 ∧ pitch 0 192 = 256 ∧ pitch (pitch 0 191) 1 = 256 ∧ unpitch 256 = 192 ∧ permute 1 128 = 144 := by decide
/-- Narrowing to 16 elements at element 8, without WR; and past the extent. -/
def narrowed (o n : Nat) : Except Trap Ent :=
  narrow (ent 2 0 1024) 0 false 4 9 (fun d => if d = 0 then o else 0) (fun d => if d = 0 then n else 0) 0x1D none
theorem test_meets_narrowing : (∀ d, (if d = 0 then 8 else 0) < 2 ^ 32) ∧ (match narrowed 1008 16 with | .ok e => entExt e 0 == 16 && entRights e == 0x1D | _ => false) = true :=
  ⟨fun d => by split <;> decide, by decide⟩
theorem test_narrow_past : (match narrowed 1009 16 with | .ok _ => true | _ => false) = false := by decide
/-- LTSUB of 16 elements, and of none. -/
def benchSub (n : W32) : State := (benchL 2 1024).modGrp 0 0 fun g => { g with s := vset (vset g.s 12 n) 16 31 }
def mSub : FmtR := ⟨hu, z, 9, 4, 8, 16, 0⟩
theorem test_meets_ltsub : Meets (.ltsub mSub) (benchSub 16)
    ∧ (match Rules.derived (benchSub 16) mSub ((benchSub 16).grp 0 0) with | .ok e => entExt e 0 | _ => 0) = 16
    ∧ Meets (.ltsub mSub) (benchSub 0)
    ∧ (match Rules.derived (benchSub 0) mSub ((benchSub 0).grp 0 0) with | .error t => t.cause | _ => 0) ≠ 0 :=
  ⟨meets_of _ _ (by decide), by decide, meets_of _ _ (by decide), by decide⟩
/-- LTQRY of a valid entry with RD and of one without. -/
theorem test_meets_ltqry : Meets (.ltqry (fu 1 4 0 0 0)) (benchL 2 1024)
    ∧ Meets (.ltqry (fu 1 4 0 0 0)) (benchT fun t => { t with ls := vset t.ls 4 (ent 2 0 1024 &&& ~~~(1 <<< 69 : Ent)) })
    ∧ Meets (.pref (fm 0 0 4)) (benchL 2 1024) := ⟨meets_of _ _ (by decide), meets_of _ _ (by decide), meets_of _ _ (by decide)⟩

/-! ## Hypotheses met together: issue and control -/

/-- The bench with 1 GiB of DRAM mapped at 0 and a header at the start of its code: N = 0, BRT, every class. -/
def benchC (f : Group → Group) : State :=
  let s := (benchG f).modCore 0 fun k => { k with tlb := [⟨0, 0, 3, 0x0F⟩] }
  { s with mem := { s.mem with dram := [(3, 0xE0), (7, 0xC5)] } }
theorem test_ready_control : ∀ i ∈ [Instr.bra ⟨hv, z, 0, 0⟩, .brx (fr 0 2 0 0 0), .call ⟨hv, z, 1, 0⟩, .callx (fr 1 2 0 0 0), .ret (fr 0 2 0 0 0),
    .meet ⟨hv, z, 1, 0⟩, .meet ⟨hv, z, 1, 512⟩, .join (fr 0 1 0 0 0), .exitLanes (fr 0 0 0 0 0), .yieldTurn (fr 0 0 0 0 0), .sleep ⟨hv, z, 0, 0, 9⟩,
    .trap ⟨hv, z, 0, 0, 9⟩, .bkpt ⟨hv, z, 0, 0, 9⟩, .flt ⟨hv, z, 0, 0, 9⟩, .rte (fu 0 0 0 0 0), .rdsr ⟨hv, z, 1, 0x001, 0, 0⟩,
    .wrsr ⟨hu, z, 1, 0x020, 0, 0⟩, .rdcnt ⟨hv, z, 2, 1, 0, 0⟩], meetsB i (benchC id) = true := by decide
theorem test_meets_no_lane : ∃ n f g r, Ready (.iadd { fr 1 2 3 0 0 with hd := ⟨false, 7, true, 7⟩ }) (bench 0) n f g r ∧ acting f.hd g r = 0
    ∧ g.stays (bench 0) := ⟨0, _, _, benchRun 0, ready_of _ _ _ _ _ rfl (by decide), by decide, by decide, by decide⟩
/-- Standing at each refusal of R192: an unassigned opcode, a class the header does not permit, an ill-formed field, a
last-of-clause instruction inside one, a register above the allocation. -/
theorem test_meets_encoding_traps : Rules.Standing (bench 7) 0 ((bench 7).grp 0 0) (benchRun 7) 7
    ∧ clauseUnit (.ld (fm 20 2 4)) &&& hdrCls 0xC500000000000000 ≠ clauseUnit (.ld (fm 20 2 4))
    ∧ (∃ f, (Instr.iadd (fr 1 2 3 4 0)).form = some f ∧ f.wf = false)
    ∧ (∃ f, (Instr.join (fr 0 1 0 0 0)).form = some f ∧ f.last = true ∧ f.wf = true ∧ 0 ≠ hdrN 0xC5000000C0000001)
    ∧ (∃ f, (Instr.iadd (fr 255 2 3 0 0)).form = some f ∧ f.wf = true ∧ ∃ u ∈ f.regs, allocated u 255 0 = false) :=
  ⟨⟨rfl, rfl, rfl, rfl, rfl, rfl, by decide, rfl⟩, by decide, ⟨_, rfl, by decide⟩, ⟨_, rfl, by decide, by decide, by decide⟩,
    ⟨_, rfl, by decide, by decide⟩⟩
theorem test_meets_trap_entry : ((bench 0).grp 0 0).handler = false ∧ (1 : Mask) ≠ 0 ∧ LRec.handler ((bench 0).team 0 0).lrec ≠ 0xFFFFFFFF
    ∧ ((bench 0).ctxRec 0).desc.getLsbD 145 = false := by decide
/-- A trap in handler state, and in a launch without a handler. -/
theorem test_meets_unhandled : ((State.reset).hub.cmds.map (·.seq)).Nodup ∧ ((benchG fun g => { g with handler := true }).grp 0 0).handler = true
    ∧ LRec.handler ((benchT fun t => { t with lrec := vset t.lrec 3 0xFFFFFFFF }).team 0 0).lrec = 0xFFFFFFFF := by decide
def targetsB (s : State) (f : Fin 32 → Int) : Nat :=
  match checkTargets 0 0 (s.team 0 0) f s (Rules.members (BitVec.allOnes 32)) with | .ok _ => 0 | .bad t => 1 + t.x2.toNat | .wait _ => 9
/-- Targets that pass, that are not aligned, that lie at the end of the code, that are no branch target; a page not there. -/
theorem test_meets_targets : targetsB (benchC id) (fun _ => 0) = 0 ∧ targetsB (benchC id) (fun _ => 4) = 1 ∧ targetsB (benchC id) (fun _ => 4096) = 2
    ∧ targetsB (benchC id) (fun _ => -8) = 2 ∧ targetsB (benchC id) (fun _ => 8) = 3 ∧ targetsB (bench 0) (fun _ => 0) = 9 := by decide
theorem test_meets_transfer : ∃ n f g r target link, Rules.transferOf (.call ⟨hv, z, 1, 0⟩) f.hd.u g r = some (target, link)
    ∧ Ready (.call ⟨hv, z, 1, 0⟩) (benchC id) n f g r ∧ acting f.hd g r ≠ 0 ∧ g.stays (benchC id) :=
  ⟨0, _, _, benchRun 0, _, _, rfl, ready_of _ _ _ _ _ rfl (by decide), by decide, by decide, by decide⟩
/-- A clause past its last instruction. -/
theorem test_meets_clause_end : ∃ g r, (benchG fun g => { g with run := some { benchRun 0 with idx := 1 } }).grp 0 0 = g ∧ g.resident = true ∧ g.run = some r
    ∧ hdrN r.hdr < r.idx ∧ g.stays (bench 0) ∧ g.handler = false := ⟨_, _, rfl, rfl, rfl, by decide, ⟨by decide, by decide⟩, rfl⟩
/-- RTE outside handler state, and inside it with XPC at the end of the code. -/
theorem test_meets_rte : Meets (.rte (fu 0 0 0 0 0)) (benchC id) ∧ Meets (.rte (fu 0 0 0 0 0)) (benchC fun g => { g with handler := true, xpc := 4096 })
    ∧ ((benchC fun g => { g with handler := true, xpc := 4096 }).grp 0 0).xpc.toNat = 4096 := ⟨meets_of _ _ (by decide), meets_of _ _ (by decide), by decide⟩
def headerB (s : State) (x : Nat) : Option W64 := match codeWord s 0 (s.team 0 0) x with | (.ok h, _) => some h | _ => none
/-- RTE's resumption points: a header with ORG, a branch target without it, a word that is no header, an index past the
clause, an index in a clause without ORG. -/
theorem test_meets_rte_points : headerB (benchC id) 0 = some 0xC5000000E0000000 ∧ hdrOk 0xC5000000E0000000 = true ∧ hdrBrt 0xC5000000E0000000 = true
    ∧ (0x80000001 : W32).getLsbD 31 = true ∧ (0x80000001 : W32).toNat % 32 ≤ hdrN 0xC5000000E0000000 + 1
    ∧ headerB (benchC id) 8 = some 0 ∧ hdrOk 0 = false ∧ hdrN 0xC5000000E0000000 + 1 < (0x80000002 : W32).toNat % 32
    ∧ (1 : W32).getLsbD 31 = false ∧ (1 : W32).toNat % 32 ≠ 0 ∧ hdrBrt 0xC5000000C0000000 = false := by decide
/-- RDSR and WRSR of FPSTAT with a float result outstanding; WRSR of a value it refuses. -/
theorem test_meets_special : Meets (.rdsr ⟨hv, z, 1, 0x020, 0, 0⟩) (benchG fun g => { g with out := [{ sb := 0, kind := .done, float := true }] })
    ∧ Meets (.wrsr ⟨hu, z, 1, 0x020, 0, 0⟩) (benchG fun g => { g with out := [{ sb := 0, kind := .done, float := true }] })
    ∧ Meets (.wrsr ⟨hu, z, 1, 0x001, 0, 0⟩) (bench 0) := ⟨meets_of _ _ (by decide), meets_of _ _ (by decide), meets_of _ _ (by decide)⟩
/-! ## Hypotheses met together: synchronisation -/

/-- A load that a replayable fault holds, and an acquire that waits behind it. -/
def pendingOut : Out := { sb := 0, kind := .mem [{ lane := 0, entry := ent 2 0 1024, u := 0, size := 4, op := .load 0 false .v 20, wait := [(0, 7)] }] }
def acquireOut : Out := { sb := 7, kind := .act .fence, acq := some 1 }
/-- The bench whose barrier 3 is b, with S8, S9 and the group as given. -/
def benchB (b : Bar) (s8 s9 : W32) (f : Group → Group) : State :=
  (benchT fun t => { t with bars := vset t.bars 3 b }).modGrp 0 0 fun g => f { g with s := vset (vset g.s 8 s8) 9 s9 }
/-- Barrier 3 of the team as a meaning sees it, after S8 and S9 are set. -/
def barB (s : State) : Bar := (s.team 0 0).bar 3
def needB (x : FmtR) (s : State) : BarNeed := Rules.waitNeed x (s.grp 0 0)
theorem test_ready_sync : ∀ i ∈ [Instr.bari (fu 0 3 8 9 0), .bara (fr 0 3 0 0 0), .bara (fr 0 3 0 0 0x09), .barw (fr 0 3 0 0 0x11), .bars (fr 0 3 0 0 0x19),
    .barq (fu 2 3 0 0 0), .fence (fr 0 0 0 0 0x1C), .pfence (fr 0 0 0 0 0), .psync (fr 0 0 0 0 0), .stepClose (fu 0 8 0 0 0), .snap (fu 1 8 0 0 0)],
    meetsB i (benchB {} 4 0 id) = true := by decide
/-- The update rule of R116: a failed barrier, an arrival too many, one that completes the phase, a delivery of all bytes. -/
theorem test_meets_bar_update : (match Rules.barStep { exp := 1 } (.arrive 2 0) with
    | .error c => c.toNat | _ => 0) = 1 ∧ (match Rules.barStep { exp := 1 } (.arrive 1 0) with | .ok (a, p) => (a, p) | _ => (9, 9)) = (1, 0)
    ∧ (match Rules.barStep { exp := 1, mode := 1, pend := 8 } (.deliver 8) with | .ok (a, p) => (a, p) | _ => (9, 9)) = (0, 0)
    ∧ ({ mode := 1, pend := 4, exp := 1 : Bar }.update (.deliver 8)).pend = 0 := by decide
theorem test_arrival_completes : ({ exp := 1 : Bar }.update (.arrive 1 0)) = { exp := 1, phase := true } := by decide
theorem test_arrival_fails : ({ exp := 1 : Bar }.update (.arrive 2 0)) = { exp := 1, err := true, ecode := 1 } := by decide
/-- BARI: a barrier that the team lacks (96 in S8), data refused, a busy barrier, and one that it initialises. -/
theorem test_meets_bari : Meets (.bari ⟨hu, z23, 0, 8, 8, 9, 0⟩) (benchB {} 96 0 id)
    ∧ (Rules.barOf ⟨hu, z23, 0, 8, 8, 9, 0⟩ ((benchB {} 96 0 id).grp 0 0)).toNat = LRec.nbars benchRec
    ∧ Meets (.bari (fu 0 3 8 9 0)) (benchB {} 0 0 id) ∧ Rules.barDataBad 0 0 0
    ∧ Meets (.bari (fu 0 3 8 9 0)) (benchB { pend := 1 } 4 3 id) ∧ ¬ Rules.barDataBad 0 4 3 ∧ (barB (benchB { pend := 1 } 4 3 id)).pend ≠ 0
    ∧ Meets (.bari (fu 0 3 8 9 0)) (benchB {} 4 3 id) ∧ (barB (benchB {} 4 3 id)).waiters = [] :=
  ⟨meets_of _ _ (by decide), by decide, meets_of _ _ (by decide), by unfold Rules.barDataBad; decide, meets_of _ _ (by decide),
    by unfold Rules.barDataBad; decide, by decide, meets_of _ _ (by decide), by decide⟩
theorem test_meets_barq : Meets (.barq ⟨hu, z23, 2, 8, 0, 0, 0⟩) (benchB {} 96 0 id) ∧ Meets (.barq (fu 2 3 0 0 0)) (benchB {} 0 0 id)
    ∧ 3 < LRec.nbars benchRec := ⟨meets_of _ _ (by decide), meets_of _ _ (by decide), by decide⟩
/-- BARA: a barrier that the team lacks; bytes outside transaction mode; with a release and without. -/
theorem test_meets_bara : Meets (.bara ⟨hu, z23, 0, 8, 0, 0, 0⟩) (benchB {} 96 0 id)
    ∧ Meets (.bara ⟨hu, ⟨false, false, true, 0⟩, 0, 3, 0, 9, 0⟩) (benchB {} 0 16 id) ∧ (barB (benchB {} 0 16 id)).mode ≠ 1
    ∧ Meets (.bara (fu 0 3 0 0 0x09)) (benchB { exp := 2 } 0 0 id) ∧ Rules.relAt (fu 0 3 0 0 0x09) = some 1
    ∧ Meets (.bara (fu 0 3 0 0 0)) (benchB { exp := 2 } 0 0 id) ∧ Rules.relAt (fu 0 3 0 0 0) = none :=
  ⟨meets_of _ _ (by decide), meets_of _ _ (by decide), by decide, meets_of _ _ (by decide), by decide, meets_of _ _ (by decide), by decide⟩
/-- BARW: the form does not suit the mode; a failed barrier; a phase that has gone; one still to come; a group released; one failed. -/
theorem test_meets_barw : Meets (.barw ⟨hu, z23, 0, 8, 0, 0, 0⟩) (benchB {} 96 0 id)
    ∧ Meets (.barw (fu 0 3 0 0 0)) (benchB { mode := 2 } 0 0 id) ∧ ¬ Rules.needSuits (barB (benchB { mode := 2 } 0 0 id)) (.phase false)
    ∧ Meets (.barw (fu 0 3 0 0 0)) (benchB { err := true } 0 0 id) ∧ Rules.needSuits { err := true } (.phase false)
    ∧ Meets (.barw (fu 0 3 0 0 0)) (benchB { phase := true } 0 0 id) ∧ Rules.needMet { phase := true } (.phase false)
    ∧ Meets (.barw (fu 0 3 0 0 0)) (benchB {} 0 0 id) ∧ ¬ Rules.needMet {} (.phase false) ∧ needB (fu 0 3 0 0 0) (benchB {} 0 0 id) = .phase false
    ∧ Meets (.barw (fu 0 3 0 0 0)) (benchB {} 0 0 fun g => { g with block := .released 0 })
    ∧ Meets (.barw (fu 0 3 0 0 0)) (benchB {} 0 0 fun g => { g with block := .failed 1 2 3 })
    ∧ Meets (.barw (fu 0 3 0 0 0)) (benchB {} 0 0 fun g => { g with out := [pendingOut, acquireOut] })
    ∧ ((benchB {} 0 0 fun g => { g with out := [pendingOut, acquireOut] }).grp 0 0).acqPending = true
    ∧ ((benchB {} 0 0 id).grp 0 0).acqPending = false :=
  ⟨meets_of _ _ (by decide), meets_of _ _ (by decide), by unfold Rules.needSuits; decide, meets_of _ _ (by decide), by unfold Rules.needSuits; decide,
    meets_of _ _ (by decide), by unfold Rules.needMet; decide, meets_of _ _ (by decide), by unfold Rules.needMet; decide, by decide,
    meets_of _ _ (by decide), meets_of _ _ (by decide), meets_of _ _ (by decide), by decide, by decide⟩
/-- A count of BARW at its edge: ARR equal to the count, with nobody before it. -/
theorem test_meets_barw_count : Rules.needMet { mode := 2, arr := 5 } (.count 5) ∧ ¬ Rules.needMet { mode := 2, arr := 4 } (.count 5)
    ∧ Rules.needSuits { mode := 2 } (.count 5) := by unfold Rules.needMet Rules.needSuits; decide
/-- BARS: semaphore mode; a failed barrier; accesses that its release must wait for; its arrival completing the phase, not
completing it, failing the barrier; a group released. -/
theorem test_meets_bars : Meets (.bars (fu 0 3 0 0 0)) (benchB { mode := 2 } 0 0 id) ∧ Meets (.bars (fu 0 3 0 0 0)) (benchB { err := true } 0 0 id)
    ∧ Meets (.bars (fu 0 3 0 0 0x09)) (benchB { exp := 2 } 0 0 fun g => { g with out := [pendingOut] })
    ∧ ((benchB { exp := 2 } 0 0 fun g => { g with out := [pendingOut] }).grp 0 0).memPending = true
    ∧ Meets (.bars (fu 0 3 0 0 0)) (benchB { exp := 1 } 0 0 id) ∧ (barB (updateBar (benchB { exp := 1 } 0 0 id) 0 0 3 (.arrive 1 0))).phase = true
    ∧ Meets (.bars (fu 0 3 0 0 0)) (benchB { exp := 2 } 0 0 id) ∧ (barB (updateBar (benchB { exp := 2 } 0 0 id) 0 0 3 (.arrive 1 0))).phase = false
    ∧ Meets (.bars (fu 0 3 0 0 0)) (benchB { exp := 0 } 0 0 id) ∧ (barB (updateBar (benchB { exp := 0 } 0 0 id) 0 0 3 (.arrive 1 0))).err = true
    ∧ Meets (.bars (fu 0 3 0 0 0)) (benchB {} 0 0 fun g => { g with block := .released 0 }) :=
  ⟨meets_of _ _ (by decide), meets_of _ _ (by decide), meets_of _ _ (by decide), by decide, meets_of _ _ (by decide), by decide, meets_of _ _ (by decide),
    by decide, meets_of _ _ (by decide), by decide, meets_of _ _ (by decide)⟩
/-- PSYNC with nothing to wait for, with a write that waits, and with one for a failed stack. -/
def benchP (st : BitVec 2) : State :=
  let s := benchG fun g => { g with uid := 1 }
  { s with mem := { s.mem with pwait := [{ base := 0, bytes := [(0, 1)], sets := [(1, 0)] }] }, hub := { s.hub with pstacks := vset s.hub.pstacks 0 { state := st } } }
theorem test_meets_psync : Meets (.psync (fr 0 0 0 0 0)) (bench 0) ∧ (bench 0).pfail = false ∧ openPersists (admitPersists (bench 0)) 0 = []
    ∧ persistOpen (admitPersists (bench 0)) [] 0 1 = false ∧ Meets (.psync (fr 0 0 0 0 0)) (benchP 0) ∧ openPersists (admitPersists (benchP 0)) 1 = [0]
    ∧ Meets (.psync (fr 0 0 0 0 0)) (benchP 3)
    ∧ (openPersists (admitPersists (benchP 3)) 1).find? (fun b => ((admitPersists (benchP 3)).hub.pstacks[stackOf b]).state == 3) = some 0 :=
  ⟨meets_of _ _ (by decide), by decide, by decide, by decide, meets_of _ _ (by decide), by decide, meets_of _ _ (by decide), by decide⟩
/-- STEP.CLOSE of the team's step, and of another; SNAP without a configuration, and with one for a step below the team's. -/
def benchStep (cfg : Bool) (step s8 : W32) : State :=
  let s := (benchT fun t => { t with step := step, grid := 1, lrec := vset t.lrec 0 (if cfg then bits 27 27 else 0) }).modGrp 0 0 fun g => { g with s := vset g.s 8 s8 }
  s.modHub fun h => { h with grids := [{ id := 1, cmd := none, parent := none, asid := 0, lrec := benchRec, prio := 0, cmask := 0, depth := 0 }] }
theorem test_meets_step : Meets (.stepClose (fu 0 8 0 0 0)) (benchStep false 5 5) ∧ Meets (.stepClose (fu 0 8 0 0 0)) (benchStep false 5 4)
    ∧ Meets (.snap (fu 1 8 0 0 0)) (benchStep false 5 4) ∧ Meets (.snap (fu 1 8 0 0 0)) (benchStep true 5 5) ∧ Meets (.snap (fu 1 8 0 0 0)) (benchStep true 5 4)
    ∧ LRec.snap ((benchStep true 5 4).team 0 0).lrec = true
    ∧ ((benchStep true 5 4).grid? 1).isSome = true :=
  ⟨meets_of _ _ (by decide), meets_of _ _ (by decide), meets_of _ _ (by decide), meets_of _ _ (by decide), meets_of _ _ (by decide), by decide, by decide⟩
/-- A request that finds its block unreadable, and one that an earlier request covers. -/
def snapB (s : State) (gr : Grid) (k : W32) : Nat := match snapRequest s gr k with | .ok (b, _) => b.toNat | .error t => t.cause.toNat
def gridOne (j : Option W32) : Grid := { id := 1, cmd := none, parent := none, asid := 0, lrec := benchRec, prio := 0, cmask := 0, depth := 0, snap := j }
theorem test_meets_snap_request : snapB (benchStep true 5 4) (gridOne none) 4 = 0x25 ∧ snapB (benchStep true 5 4) (gridOne (some 4)) 4 = 0 := by decide

/-- Cells of FWAIT in SHARED: full, full in error, empty. -/
def benchF (b4 b5 : Byte) : State :=
  let e : Ent := BitVec.ofNat 512 (2 <<< 57 + 31 <<< 69 + 1 <<< 127 + 1024 <<< 128 + 1 <<< 256)
  benchT fun t => { t with ls := vset t.ls 4 e, shared := Memory.set (Memory.set t.shared 4 b4) 5 b5 }
def fwaitI : FmtMA := fa 0 1 false 4 0 2 1
def seenB (i : Instr) (s : State) : Option (List (Bool × W64)) :=
  match i.form, (s.grp 0 0).run with
  | some f, some r => match Rules.seen i s 0 f.hd (s.grp 0 0) r with
    | some (.ok l, _) => some (l.map fun y => (y.bad, y.val))
    | _ => none
  | _, _ => none
theorem test_meets_fwait : Meets (.fwait fwaitI) (benchF 1 0) ∧ seenB (.fwait fwaitI) (benchF 1 0) = some (.replicate 32 (false, 0x100000000))
    ∧ Meets (.fwait fwaitI) (benchF 3 4) ∧ seenB (.fwait fwaitI) (benchF 3 4) = some (.replicate 32 (false, 0x40300000000))
    ∧ Meets (.fwait fwaitI) (benchF 0 0) ∧ seenB (.fwait fwaitI) (benchF 0 0) = some (.replicate 32 (false, 0)) :=
  ⟨meets_of _ _ (by decide), by decide, meets_of _ _ (by decide), by decide, meets_of _ _ (by decide), by decide⟩
/-- FWAIT of a group that has been released, its one cell found full; behind an acquire that is not done. -/
def benchFound : State := ((benchF 0 0).modGrp 0 0 fun g => { g with block := .released 0 }).modCtx 0 fun x =>
  { x with waits := [{ idx := 0, ps := [⟨.shared 0 0, 0⟩], key := {}, recheck := false, sco := 1, index := 0, expect := none, seen := some (0x100000000, false) }] }
theorem test_meets_fwait_found : Meets (.fwait fwaitI) benchFound ∧ ((waitsOf benchFound 0 0).map (·.seen)) = [some (0x100000000, false)]
    ∧ (0x100000000 : W64).getLsbD 33 = false
    ∧ Meets (.fwait fwaitI) ((benchF 1 0).modGrp 0 0 fun g => { g with out := [pendingOut, acquireOut] })
    ∧ seenB (.fwait fwaitI) ((benchF 1 0).modGrp 0 0 fun g => { g with out := [pendingOut, acquireOut] }) = some (.replicate 32 (false, 0x100000000)) :=
  ⟨meets_of _ _ (by decide), by decide, by decide, meets_of _ _ (by decide), by decide⟩
/-- WAITA on two words: one differs, none differs; a group that a write has released. -/
def waitaI : FmtMA := ⟨hu, 1, 1, 0, 4, 16, 20, 0, false, 0, 1⟩
theorem test_meets_waita : Meets (.waita waitaI) (benchF 1 0) ∧ seenB (.waita waitaI) (benchF 1 0) = some [(false, 0), (false, 0)]
    ∧ ((benchF 1 0).grp 0 0).rdS 21 = 0
    ∧ Meets (.waita waitaI) ((benchF 1 0).modGrp 0 0 fun g => { g with s := vset g.s 21 5 })
    ∧ Meets (.waita waitaI) ((benchF 1 0).modGrp 0 0 fun g => { g with block := .released 1 }) :=
  ⟨meets_of _ _ (by decide), by decide, by decide, meets_of _ _ (by decide), meets_of _ _ (by decide)⟩
/-- REDD to HOSTMEM and to SHARED; REDFLUSH. -/
def reddI : Instr := .redd (fa 0 0 false 4 2 0 1)
theorem test_meets_redd : Meets reddI (benchL 7 1024) ∧ usable (ent 7 0 1024) = true ∧ lowLane (BitVec.allOnes 32) = some 0
    ∧ Meets reddI (benchL 2 1024) ∧ ((((benchL 2 1024).cores[(0 : CoreId)]).ctx.redd)[(0 : Fin 4)]).length + 32 ≤ 1024
    ∧ Meets (.redflush (fr 0 0 0 0 1)) (bench 0) :=
  ⟨meets_of _ _ (by decide), by decide, by decide, meets_of _ _ (by decide), by decide, meets_of _ _ (by decide)⟩
/-! ## Hypotheses met together: matrix operations, rings, engines -/

/-- The bench with ring 2 as q, S8 and S9 as given, the producer group 0. -/
def benchQ (q : Ring) (s8 s9 : W32) : State :=
  (benchT fun t => { t with rings := vset t.rings 2 q, lrec := vset t.lrec 0 (bits 18 18) }).modGrp 0 0 fun g => { g with s := vset (vset g.s 8 s8) 9 s9 }
theorem test_ready_engine : ∀ i ∈ [Instr.qmma (fr 2 20 24 2 2), .qmmb (fr 2 20 24 2 0x10), .qzero (fr 2 0 0 0 0), .qmov (fr 20 2 0 0 0), .mxcfg (fu 0 8 0 0 0),
    .mxw (fu 0 2 0 0 0), .mxmm (fu 0 2 3 0 0), .mxscan (fu 0 2 3 0 0), .mxepi (fu 0 0 3 0 2), .mxt (fu 0 2 3 0 0), .rgput (fu 0 2 1 0 0), .rgget (fu 0 2 1 0 0),
    .rgset (fu 0 2 8 0 0), .rgsetClr ⟨hu, z23, 0, 2, 0, 0, 0⟩, .rgqry (fu 4 2 0 0 0), .cpq (fu 4 8 0 0 0), .cpc (fu 1 8 0 0 0),
    .tspawn ⟨hv, z, 20, 0⟩, .targ (fr 20 0 0 0 0), .tchild (fu 1 8 4 0 0), .twait ⟨hu, z23, 0, 0, 0, 0, 0⟩, .twait ⟨hu, z22, 0, 0, 0, 0, 0⟩,
    .twait (fu 0 8 0 0 0), .stage { fm 1 0 4 with hd := hu, cr := 16 }], meetsB i (benchQ {} 0 0) = true := by decide
theorem test_meets_matrix : ∃ n f g r, Rules.matrixFields (.qmma (fr 2 20 24 2 2)) = some (fr 2 20 24 2 2) ∧ Ready (.qmma (fr 2 20 24 2 2)) (bench 0) n f g r
    ∧ acting f.hd g r ≠ 0 ∧ g.stays (bench 0) ∧ ∀ o ∈ g.out, ¬ o.pending :=
  ⟨0, _, _, benchRun 0, rfl, ready_of _ _ _ _ _ rfl (by decide), by decide, ⟨by decide, by decide⟩, by decide⟩
/-- Lane 9 reads row c of its own quarter. -/
theorem test_mate : Rules.mate 9 7 = 15 ∧ Rules.mate 31 0 = 24 := by decide
/-- INT8 1 times 1 in element 0, on an accumulator element of 2^31 - 1: the sum saturates. -/
theorem test_matrix_saturates : Rules.matrixElem (.qmma (fr 2 20 24 2 6)) (((benchG fun g => g).grp 0 0)) 0 0 0 = some 0
    ∧ Rules.satInt 2147483648 = 0x7FFFFFFF ∧ Rules.satInt (-2147483649) = 0x80000000 := by decide
/-- MXC words on either side of R294. -/
theorem test_meets_mxcfg : Rules.configOk 0x42 ∧ ¬ Rules.configOk 0x46 ∧ ¬ Rules.configOk 0x100042 ∧ Rules.configOk 0x4C6 := by
  refine ⟨?_, ?_, ?_, ?_⟩ <;> unfold Rules.configOk <;> simp [Nat.testBit]
def entRing (space : Nat) : Ent := ent space 0 256
/-- A ring of four 128-byte entries that a group produces (pra = false) or consumes. -/
def ring4 (pp cp : BitVec 16) : Ring := { val := true, cnt := 3, esz := 0, pp := pp, cp := cp, entry := entRing 4 }
def sideB (q : Ring) (n : Nat) (put move : Bool) : Nat := match Rules.sideTrap ((benchQ q 0 0).team 0 0) 2 n put move with | some t => t.cause.toNat | none => 0
/-- A move of n at the edge of what the ring holds, with PP past its wrap; one more; a role that is the array's; no ring. -/
theorem test_meets_ring_side : sideB (ring4 0xFFFE 0xFFFE) 4 true true = 0 ∧ sideB (ring4 0xFFFE 0xFFFE) 5 true true = 0x17
    ∧ sideB (ring4 1 0xFFFE) 3 false true = 0 ∧ sideB (ring4 1 0xFFFE) 4 false true = 0x17 ∧ sideB (ring4 0 0) 9 false false = 0
    ∧ sideB { ring4 0 0 with pra := true } 1 true false = 0x15 ∧ sideB {} 1 true false = 0x14 := by decide
theorem test_meets_ring_moves : Meets (.rgput ⟨hu, z22, 0, 2, 8, 0, 0⟩) (benchQ (ring4 0 0) 65 0)
    ∧ Rules.ringCount ⟨hu, z22, 0, 2, 8, 0, 0⟩ ((benchQ (ring4 0 0) 65 0).grp 0 0) = 65
    ∧ Rules.ringCount ⟨hu, z22, 0, 2, 8, 0, 0⟩ ((benchQ (ring4 0 0) 4 0).grp 0 0) = 4
    ∧ Meets (.rgput (fu 0 2 1 0 0)) ((benchQ (ring4 0 0) 0 0).modGrp 0 0 fun g => { g with out := [pendingOut] })
    ∧ Meets (.rgget ⟨⟨true, 0, false, 3⟩, z23, 0, 2, 1, 0, 0⟩) (benchQ (ring4 0 0) 0 0) ∧ Meets (.rgget (fu 0 2 1 0 0)) (benchQ (ring4 1 0) 0 0) :=
  ⟨meets_of _ _ (by decide), by decide, by decide, meets_of _ _ (by decide), meets_of _ _ (by decide), meets_of _ _ (by decide)⟩
/-- RGQRY and RGSET.CLR: no such ring in the launch, a busy ring, an idle one. -/
theorem test_meets_ring_reads : Meets (.rgqry (fu 4 2 0 0 0)) (benchQ {} 0 0) ∧ (2 : BitVec 3).toNat < LRec.nrings benchRec
    ∧ Meets (.rgqry (fu 4 2 0 0 0)) (benchT fun t => { t with lrec := vset benchRec 6 (bits 19 19 ||| bits 8 8 ||| bits 22 22) })
    ∧ LRec.nrings (vset benchRec 6 (bits 19 19 ||| bits 8 8 ||| bits 22 22)) = 2
    ∧ Meets (.rgsetClr ⟨hu, z23, 0, 2, 0, 0, 0⟩) (benchQ (ring4 1 0) 0 0) ∧ (ring4 1 0).pp ≠ (ring4 1 0).cp
    ∧ Meets (.rgsetClr ⟨hu, z23, 0, 2, 0, 0, 0⟩) (benchQ (ring4 1 1) 0 0) :=
  ⟨meets_of _ _ (by decide), by decide, meets_of _ _ (by decide), by decide, meets_of _ _ (by decide), by decide, meets_of _ _ (by decide)⟩
def benchRing (space : Nat) (w : W32) : State := (benchQ {} w 0).modTeam 0 0 fun t => { t with ls := vset t.ls 4 (entRing space) }
def carveB (s : State) : Nat := match carve (s.team 0 0) s (benchRun 0) 2 ((s.grp 0 0).rdS 8) with | .ok q => q.cnt.toNat | .error t => 256 + t.cause.toNat
/-- RGSET of one entry in XBUF, its whole partition; of two, past it; in YBUF by a consumer. -/
theorem test_meets_carve : Meets (.rgset (fu 0 2 8 0 0)) (benchRing 4 0x1000004) ∧ carveB (benchRing 4 0x1000004) = 0
    ∧ Meets (.rgset (fu 0 2 8 0 0)) (benchRing 4 0x1000044) ∧ carveB (benchRing 4 0x1000044) = 256 + 0x0B ∧ carveB (benchRing 5 0x1000004) = 256 + 0x15 :=
  ⟨meets_of _ _ (by decide), by decide, meets_of _ _ (by decide), by decide, by decide⟩
def mxwOp (id : Nat) : ArrOp := { id := id, kind := .mxw true, mxc := 0x42, pub := false, ringIn := some 2, ringOut := none, team := 0, idx := 0, gid := 0, draw := 0 }
/-- The bench with a 512 KiB ring entry in WBUF and BF16 formats in MXC. -/
def benchA (full : Bool) (q : List ArrOp) : State :=
  let s := (benchQ { ring4 1 0 with esz := 511, cna := full, entry := entRing 3 } 0 0).modGrp 0 0 fun g => { g with mxc := 0x42 }
  s.modCore 0 fun k => { k with run := some 0, ctx := { k.ctx with arrq := q } }
def mxwI : Instr := .mxw ⟨hu, z22, 0, 2, 0, 0, 0⟩
/-- MXW of a ring with the wrong role, with a full queue, and with room. -/
theorem test_meets_array_issue : Rules.arrayForm mxwI = some (.mxw true, some 2, none, false, 0) ∧ Meets mxwI (benchA false [])
    ∧ (arrayCheck ((benchA false []).cores[(0 : CoreId)]).ctx 0 0x42 (.mxw true) (some 2) none).isSome = true
    ∧ Meets mxwI (benchA true (.replicate 32 (mxwOp 0))) ∧ Meets mxwI (benchA true [])
    ∧ (arrayCheck ((benchA true []).cores[(0 : CoreId)]).ctx 0 0x42 (.mxw true) (some 2) none).isNone = true :=
  ⟨by decide, meets_of _ _ (by decide), by decide, meets_of _ _ (by decide), meets_of _ _ (by decide), by decide⟩
/-- One operation to fire with a full entry in its ring; one that has fired. -/
theorem test_meets_array_events : ((benchA true [mxwOp 4]).cores[(0 : CoreId)]).run.isSome = true ∧ ((benchA true [mxwOp 4]).cores[(0 : CoreId)]).stopping = .no
    ∧ ((benchA true [mxwOp 4]).team 0 0).tbHere = true ∧ (mxwOp 4).ringsReady ((benchA true [mxwOp 4]).team 0 0) = true
    ∧ ((((benchA true [{ mxwOp 4 with fired := true }]).cores[(0 : CoreId)]).ctx.arrq).filter (·.fired))[0]?.isSome = true := by decide

/-! ## Hypotheses met together: copies, tasks, children, stages -/

/-- An entry of INT32 elements. -/
def entI (space ext : Nat) : Ent := ent space 0 ext ||| BitVec.ofNat 512 (8 <<< 60)
/-- The bench with INT32 handles at 4 (SHARED) and 5 (XBUF), a box of 8 elements by one row in S16 and on, a transaction barrier 3. -/
def benchCp (n0 : W32) (f : Group → Group) (j : List Cmd) : State :=
  let s := (benchQ {} 0 0).modTeam 0 0 fun t => { t with ls := vset (vset t.ls 4 (entI 2 1024)) 5 (entI 4 256), bars := vset t.bars 3 { mode := 1 } }
  let s := s.modGrp 0 0 fun g => f { g with s := (vset (vset (vset (vset g.s 24 n0) 25 1) 26 1) 27 1) }
  s.modCore 0 fun k => { k with run := some 0, journal := j }
def cptX : FmtRE := ⟨hu, 0, 0, false, false, 8, 0, 4, 0, 5, 0, 16, 3⟩
def cptB (s : State) : Option Nat := (copyCheck s 0 (Rules.command s 0 (s.grp 0 0) .t cptX false) (wordTrap 0x02 0)).map fun t => t.cause.toNat
/-- A command of the bench's group that the journal holds. -/
def cmdOf (st : CmdState) : Cmd :=
  { Rules.command (benchCp 8 id []) 0 ((benchCp 8 id []).grp 0 0) .t cptX false with state := st }
/-- CPT by another group, with a row of no element, past the extent, behind an access, into a full journal, and accepted. -/
theorem test_meets_copy_issue : Rules.copyForm (.cpt cptX) = some (.t, cptX, false) ∧ Meets (.cpt cptX) (benchCp 8 (fun g => { g with gid := 1 }) [])
    ∧ Meets (.cpt cptX) (benchCp 0 id []) ∧ cptB (benchCp 0 id []) = some 0x02 ∧ Meets (.cpt cptX) (benchCp 257 id []) ∧ cptB (benchCp 257 id []) = some 0x0B
    ∧ Meets (.cpt cptX) (benchCp 8 (fun g => { g with out := [pendingOut] }) []) ∧ cptB (benchCp 8 id []) = none
    ∧ Meets (.cpt cptX) (benchCp 8 id []) ∧ (Rules.command (benchCp 8 id []) 0 ((benchCp 8 id []).grp 0 0) .t cptX false).counted = 32 :=
  ⟨by decide, meets_of _ _ (by decide), meets_of _ _ (by decide), by decide, meets_of _ _ (by decide), by decide, meets_of _ _ (by decide), by decide,
    meets_of _ _ (by decide), by decide⟩
/-- CPQ and CPC without a command, and with the group's own (its number in S8). -/
theorem test_meets_copy_query : Meets (.cpq (fu 4 8 0 0 0)) (benchCp 8 id []) ∧ Meets (.cpq (fu 4 8 0 0 0)) (benchCp 8 id [cmdOf .queued])
    ∧ (cmdOf .queued).seq = ((benchCp 8 id [cmdOf .queued]).grp 0 0).rdS 8 ∧ Meets (.cpc (fu 1 8 0 0 0)) (benchCp 8 id [])
    ∧ Meets (.cpc (fu 1 8 0 0 0)) (benchCp 8 (fun g => { g with gid := 1 }) []) ∧ Meets (.cpc (fu 1 8 0 0 0)) (benchCp 8 id [{ cmdOf .queued with bi := 127 }]) :=
  ⟨meets_of _ _ (by decide), meets_of _ _ (by decide), by decide, meets_of _ _ (by decide), meets_of _ _ (by decide), meets_of _ _ (by decide)⟩
/-- A fill of n bytes of SHARED with one byte value. -/
def fillCmd (st : CmdState) (n : W32) (landed : List (Bool × VPlace)) : Cmd :=
  let k := Rules.command (benchCp n id []) 0 ((benchCp n id []).grp 0 0) .f cptX false
  { k with state := st, held := false, dst := ent 2 0 1024 ||| BitVec.ofNat 512 (4 <<< 60), landed := landed }
def engB (k : Cmd) : Bool :=
  let s := benchCp 8 id [k]
  decide (((s.cores[(0 : CoreId)]).journal.find? fun j => j.seq == 0 && (s.cores[(0 : CoreId)]).run == some j.asid) = some k)
    && (s.cores[(0 : CoreId)]).run.isSome && decide ((s.cores[(0 : CoreId)]).stopping ≠ .drained) && (s.team 0 0).tbHere && !s.det 0
    && !k.fut && decide (k.role = none) && decide (k.op ≠ .put) && !k.rge
def leftB (k : Cmd) : Nat := (k.remaining (copyCtx (benchCp 8 id [k]) 0 k)).length
/-- A fill of 60 bytes: two sectors to write, of which m is 0 or 1; one that the engines may take; one that has landed; a scatter
stopped at an index; a command whose fork waits; one that failed. -/
theorem test_meets_copy_events : engB (fillCmd .inFlight 60 []) = true ∧ leftB (fillCmd .inFlight 60 []) = 2
    ∧ entSpace (fillCmd .inFlight 60 []).dst = 2 ∧ entW (fillCmd .inFlight 60 []).dst = 8 ∧ entPerm (fillCmd .inFlight 60 []).dst = 0
    ∧ entStride (fillCmd .inFlight 60 []).dst 0 = 1 ∧ (fillCmd .inFlight 60 []).total = 1
    ∧ (∀ d : Fin 4, 0 < d.val → vat (fillCmd .inFlight 60 []).blk (4 + d.val) = 0 ∧ vat (fillCmd .inFlight 60 []).blk (8 + d.val) = 1)
    ∧ engB (fillCmd .queued 60 []) = true ∧ (fillCmd .queued 60 []).waiting = true
    ∧ engB (fillCmd .inFlight 60 [(false, .scratch (.shared 0 0) 0), (false, .scratch (.shared 0 0) 48)]) = true
    ∧ leftB (fillCmd .inFlight 60 [(false, .scratch (.shared 0 0) 0), (false, .scratch (.shared 0 0) 48)]) = 0
    ∧ engB { fillCmd .inFlight 0 [] with op := .s, stop := some (.failed 0x0B 4 0 0 0) } = true
    ∧ leftB { fillCmd .inFlight 0 [] with op := .s, stop := some (.failed 0x0B 4 0 0 0) } = 0
    ∧ engB { fillCmd .queued 60 [] with held := true } = true ∧ engB (cmdOf (.failed 0x42 4 0 0 0)) = true := by decide
/-- TSPAWN to the header of the bench's code with an empty pool and with a full one; past the code. -/
def benchTs (pool : Nat) : State := (benchC id).modCtx 0 fun x =>
  { x with pool := .replicate pool { num := 0, team := 1, entry := 0, arg := .replicate 8 0, born := 0 } }
def spawn (off : BitVec 32) : FmtC := ⟨⟨false, 7, true, 0⟩, z, 20, off⟩
def spawnB (s : State) (off : BitVec 32) : Nat :=
  match checkTargets 0 0 (s.team 0 0) (fun _ => 8 * off.toInt) s [(0 : Fin 32)] with
  | .ok u => (u.cores[(0 : CoreId)]).ctx.pending | .bad t => 10000 + t.cause.toNat | .wait _ => 20000
theorem test_meets_tspawn : Meets (.tspawn (spawn 0)) ((benchTs 0).modGrp 0 0 fun g => { g with p := vset g.p 0 0xF }) ∧ spawnB (benchTs 0) 0 = 0
    ∧ Meets (.tspawn (spawn 512)) ((benchTs 0).modGrp 0 0 fun g => { g with p := vset g.p 0 0xF }) ∧ 10000 ≤ spawnB (benchTs 0) 512 ∧ spawnB (benchTs 0) 512 < 20000 :=
  ⟨meets_of _ _ (by decide), by decide, meets_of _ _ (by decide), by decide, by decide⟩
theorem test_meets_full_pool : 4096 ≤ (((benchTs 4096).cores[(0 : CoreId)]).ctx).pending := by
  show 4096 ≤ (List.replicate 4096 _).length + _
  simp
/-- The bench for children: its grid at a depth, S8 as given, one child of the team in slot 5, generation 1. -/
def benchCh (depth : Nat) (s8 : W32) (ch : Child) (f : Group → Group) : State :=
  let s := (benchL 7 1024).modGrp 0 0 fun g => f { g with s := vset g.s 8 s8 }
  let s := s.modTeam 0 0 fun t => { t with grid := 1, children := [(5, 1)] }
  s.modHub fun h => { h with childs := vset h.childs 5 ch
                             grids := [{ id := 1, cmd := none, parent := none, asid := 0, lrec := benchRec, prio := 0, cmask := 0, depth := depth }] }
def tchildI : Instr := .tchild (fu 1 8 4 0 0)
def childPlace (s : State) (ext : Nat) : Nat := match locate s (s.team 0 0) ⟨0, 0, 0, 0⟩ .load 4 (ent 7 0 ext) [0] 0 256 none with | .ok u => u | .error t => 10000 + t.cause.toNat
/-- TCHILD by another group, at depth 16, of slot 64, of an entry without the right shape, and of a record. -/
theorem test_meets_tchild : Meets tchildI (benchCh 0 4 {} fun g => { g with gid := 1 }) ∧ Meets tchildI (benchCh 16 4 {} id)
    ∧ (∃ k, (benchCh 16 4 {} id).grid? 1 = some k ∧ k.depth = 16) ∧ (∃ k, (benchCh 15 4 {} id).grid? 1 = some k ∧ k.depth ≠ 16)
    ∧ Meets tchildI (benchCh 15 64 {} id) ∧ Meets tchildI (benchCh 15 4 {} id) ∧ childPlace (benchCh 15 4 {} id) 1024 = 0
    ∧ 10000 ≤ childPlace (benchCh 15 4 {} id) 1 :=
  ⟨meets_of _ _ (by decide), meets_of _ _ (by decide), ⟨_, rfl, rfl⟩, ⟨_, rfl, by decide⟩, meets_of _ _ (by decide), meets_of _ _ (by decide), by decide, by decide⟩
/-- TWAIT for tasks with one in the pool, and with none below; for a child (slot 5, generation 1) that runs, that has
completed, that has faulted; for all children behind an access. -/
def twaitT : FmtR := ⟨hu, z23, 0, 0, 0, 0, 0⟩
def twaitC : FmtR := fu 0 8 0 0 0
def kidRuns : Child := { held := true, gen := 1 }
def benchTw (pool : Nat) : State := ((benchTs pool).modTeam 0 0 fun t => { t with tnum := 1 }).modCtx 0 fun x => { x with pool := x.pool.map fun k => { k with team := 0 } }
theorem test_meets_twait : Meets (.twait twaitT) (benchTw 1) ∧ tasksOpen ((benchTw 1).cores[(0 : CoreId)]).ctx 0 1 0 = true ∧ gridKilled (benchTw 1) ((benchTw 1).team 0 0) = false
    ∧ Meets (.twait twaitT) (benchTw 0) ∧ tasksOpen ((benchTw 0).cores[(0 : CoreId)]).ctx 0 1 0 = false
    ∧ ((0x1005 : W32).extractLsb' 0 12, (0x1005 : W32).extractLsb' 12 20) = ((5 : BitVec 12), (1 : BitVec 20))
    ∧ Meets (.twait twaitC) (benchCh 0 0x1005 kidRuns id) ∧ Meets (.twait twaitC) (benchCh 0 0x1005 { kidRuns with done := true } id)
    ∧ Meets (.twait twaitC) (benchCh 0 0x1005 { kidRuns with done := true, fault := true } id)
    ∧ ((benchCh 0 0x1005 { kidRuns with done := true, fault := true } id).hub.childs[(5 : BitVec 12).toFin]).fault = true
    ∧ Meets (.twait ⟨hu, z22, 0, 0, 0, 0, 0⟩) (benchCh 0 0 kidRuns fun g => { g with out := [pendingOut] }) :=
  ⟨meets_of _ _ (by decide), by decide, by decide, meets_of _ _ (by decide), by decide, by decide, meets_of _ _ (by decide), meets_of _ _ (by decide),
    meets_of _ _ (by decide), by decide, meets_of _ _ (by decide)⟩
/-- STAGE of an entry in SHARED: VALID in byte 0 bit 7, BI in its bits 55 to 49; none, barrier 0 in transaction mode and not,
a barrier that the team lacks, none named. -/
def stageX : FmtM := { fm 1 0 4 with hd := hu, cr := 16 }
def benchSt (b0 b6 : Byte) (mode : BitVec 2) (st : Nat) : State :=
  (benchL 2 1024).modTeam 0 0 fun t => { t with shared := Memory.set (Memory.set t.shared 0 b0) 6 b6, bars := vset t.bars 0 { mode := mode }
                                                stages := .replicate st { entry := 0, handle := 0, launch := false, total := 0 } }
def stageB (s : State) : Option (BitVec 512) := match stageFetch s 0 (s.grp 0 0) 4 (ent 2 0 1024) 0 with | .got e s' => if s'.core = s.core then some e else none | _ => none
theorem test_meets_stage : Meets (.stage stageX) (benchSt 0 0 0 0) ∧ stageB (benchSt 0 0 0 0) = some 0
    ∧ Meets (.stage stageX) (benchSt 0x80 0 1 7) ∧ stageB (benchSt 0x80 0 1 7) = some 0x80 ∧ Meets (.stage stageX) (benchSt 0x80 0 1 8)
    ∧ Meets (.stage stageX) (benchSt 0x80 0 0 0) ∧ Meets (.stage stageX) (benchSt 0x80 0xC0 0 0)
    ∧ (stageB (benchSt 0x80 0xC0 0 0)).map (fun e => e.extractLsb' 49 7) = some 96
    ∧ (stageB (benchSt 0x80 0xFE 0 0)).map (fun e => e.extractLsb' 49 7) = some 127
    ∧ Meets (.stage stageX) (benchG fun g => { g with gid := 32 }) ∧ Meets (.stage stageX) (bench 0) :=
  ⟨meets_of _ _ (by decide), by decide, meets_of _ _ (by decide), by decide, meets_of _ _ (by decide), meets_of _ _ (by decide), meets_of _ _ (by decide),
    by decide, by decide, meets_of _ _ (by decide), meets_of _ _ (by decide)⟩
/-! ## Hypotheses met together: companion cores -/

/-- A feeder that runs, with x5, x6 and its data store as given, in a team with ring 2 as q and barrier 3 as b. -/
def benchK (x5 x6 : W32) (dm : Mem := []) (q : Ring := {}) (b : Bar := {}) : State :=
  let s := benchT fun t => { t with rings := vset t.rings 2 q, bars := vset t.bars 3 b, ls := vset (vset (vset t.ls 4 (entI 2 1024)) 5 (entI 4 256)) 6 (ent 6 0 1024) }
  let s := s.modComp 0 .feeder fun k => { k with running := true, x := vset (vset k.x 5 x5) 6 x6, dmem := dm }
  { s with agent := .companion .feeder, ilen := 4 }
def kOf (s : State) : Companion := s.comp 0 .feeder
theorem kready (s : State) (h1 : s.agent = .companion .feeder) (hc : s.core = 0) (h2 : (kOf s).ready = true) : Rules.KReady s .feeder (kOf s) :=
  ⟨h1, by rw [hc]; rfl, h2⟩
theorem test_meets_companion : Rules.KReady (benchK 1 2) .feeder (kOf (benchK 1 2)) := kready _ rfl rfl (by decide)
/-- The companion core after one instruction. -/
def afterK (i : Instr) (s : State) : Companion := match exec i s with | .next t => t.comp 0 .feeder | _ => {}
/-- Division by zero and the overflow of a division go on (RISC-V M); x0 takes no write; MULHSU of -1 and 2^32 - 1. -/
theorem test_division : (afterK (.rv32 false (.op .div 7 5 6)) (benchK 9 0)).rd 7 = 0xFFFFFFFF ∧ (afterK (.rv32 false (.op .rem 7 5 6)) (benchK 9 0)).rd 7 = 9
    ∧ (afterK (.rv32 false (.op .div 7 5 6)) (benchK 0x80000000 0xFFFFFFFF)).rd 7 = 0x80000000
    ∧ (afterK (.rv32 false (.op .rem 7 5 6)) (benchK 0x80000000 0xFFFFFFFF)).rd 7 = 0 := by decide +kernel
theorem test_mulhsu : (afterK (.rv32 false (.op .mulhsu 7 5 6)) (benchK 0xFFFFFFFF 0xFFFFFFFF)).rd 7 = 0xFFFFFFFF
    ∧ (afterK (.rv32 false (.op .add 0 5 6)) (benchK 1 2)).rd 0 = 0 := by decide +kernel
theorem test_branch : (afterK (.rv32 false (.branch .bltu 5 6 0xFFC)) (benchK 1 0xFFFFFFFF)).pc = 0xFFFFFFF8
    ∧ (afterK (.rv32 false (.branch .blt 5 6 0xFFC)) (benchK 1 0xFFFFFFFF)).pc = 4 := by decide +kernel
/-- The last word of the data store; a word at its first byte; one past, one below, one misaligned. -/
theorem test_meets_kload : (kOf (benchK 0x17FFC 0)).rd 5 % 4 = 0 ∧ (0x17FFC : W32).toNat + 4 ≤ 0x18000
    ∧ (afterK (.rv32 false (.load .lw 7 5 0)) (benchK 0x17FFC 0 [(0x17FFF, 0x80)])).rd 7 = 0x80000000
    ∧ (afterK (.rv32 false (.load .lb 7 5 0)) (benchK 0x17FFF 0 [(0x17FFF, 0x80)])).rd 7 = 0xFFFFFF80 := by decide +kernel
theorem test_meets_kload_fault : (afterK (.rv32 false (.load .lw 7 5 4)) (benchK 0x17FFC 0)).running = false
    ∧ (afterK (.rv32 false (.load .lw 7 5 0xFFF)) (benchK 0x10000 0)).running = false
    ∧ (afterK (.rv32 false (.store .sh 5 6 1)) (benchK 0x10000 0)).running = false ∧ (afterK (.rv32 false (.store .sb 5 6 1)) (benchK 0x10000 0)).running = true := by decide +kernel
theorem test_meets_kfetch : (match ({ pc := 0x10000 : Companion }).fetchWord with | .error t => t.cause.toNat | _ => 0) = 0x43
    ∧ (match ({ pc := 1 : Companion }).fetchWord with | .error t => t.cause.toNat | _ => 0) = 0x43 := by decide +kernel
/-- A CSR that is not there, a read-only one written, and each one read; KSRCNT written. -/
theorem test_meets_csr : Rules.csrValue (benchK 1 2) .feeder (kOf (benchK 1 2)) 0x300 = none
    ∧ (Rules.csrValue (benchK 1 2) .feeder (kOf (benchK 1 2)) 0x301) = some 0x40801104
    ∧ (afterK (.rv32 false (.csr .rs false 7 0x301 0)) (benchK 1 2)).rd 7 = 0x40801104
    ∧ (afterK (.rv32 false (.csr .rs false 7 0x301 5)) (benchK 1 2)).running = false
    ∧ (afterK (.rv32 false (.csr .rw true 7 0x7C0 9)) (benchK 1 2)).ksrcnt = 9 := by decide +kernel
theorem test_meets_ksystem : (afterK (.ebreak false) (benchK 1 2)).running = false ∧ (afterK .ecall (benchK 1 2)).running = false
    ∧ (afterK .ecall (benchK 1 2)).minstret = 1 ∧ (afterK .wfi (benchK 1 2)).pc = 4 := by decide +kernel
/-- FENCE with a deferred eviction to report, and with none. -/
theorem test_meets_kfence : ((benchK 1 2).ctxRec 0).deferL2 = [] ∧ ((benchK 1 2).ctxRec 0).deferMsc = []
    ∧ ((((benchK 1 2).modCtxRec 0 fun c => { c with deferL2 := [7] }).ctxRec 0).deferL2 ++ (((benchK 1 2).modCtxRec 0 fun c => { c with deferL2 := [7] }).ctxRec 0).deferMsc) = [7] := by
  decide +kernel
/-- A command block at the last place of the data store: 8 INT32 elements of one row; its control word names handles 4 and
5 and no barrier; the word with a reserved bit. -/
def blockMem (c1 : Byte) : Mem :=
  [(0x17FD4, 8), (0x17FD8, 1), (0x17FDC, 1), (0x17FE0, 1), (0x17FFC, 0x44), (0x17FFD, c1), (0x17FFE, 0x1F)]
def kcptX : K2 := ⟨7, 5⟩
def benchKC (at' : W32) (c1 : Byte) : State := benchK at' 0 (blockMem c1)
theorem test_meets_kcopy : (0x17FB4 : W32).toNat % 4 = 0 ∧ (0x17FB4 : W32).toNat + 76 ≤ 0x18000 ∧ (0x17FB8 : W32).toNat + 76 > 0x18000
    ∧ Rules.kcopyForm (.kcpt kcptX) = some (.t, kcptX) ∧ (BitVec.ofNat 32 (Rules.kword (kOf (benchKC 0x17FB4 0xD1)) 0x17FB4 18) : W32).extractLsb' 12 2 ≠ 0
    ∧ (BitVec.ofNat 32 (Rules.kword (kOf (benchKC 0x17FB4 0xC1)) 0x17FB4 18) : W32).extractLsb' 12 2 = 0
    ∧ (afterK (.kcpt kcptX) (benchKC 0x17FB8 0xC1)).running = false ∧ (afterK (.kcpt kcptX) (benchKC 0x17FB4 0xC1)).pc = 4 := by decide +kernel
def kcmdB (s : State) : Bool :=
  let k := kOf s
  let b := k.cmdBlock (k.rd 5)
  let f := blockFields b[18]
  let c : Cmd := { mkCmd s 0 k.team .t (Vector.ofFn fun j => if j.val < 15 then vat b j.val else 0) f.spec f.rm f.fut f.rge f.ring f.bi f.ls f.ldh k.ksrcnt with role := some .feeder }
  (match (Instr.cpt f).form with | some o => o.ok | none => false) && (copyCheck s 0 c (k.wordFault 0x02)).isNone
theorem test_meets_kcopy_accepted : kcmdB (benchKC 0x17FB4 0xC1) = true := by decide +kernel
/-- KBARA of barrier 96 which the launch lacks, of bytes outside transaction mode, of an arrival; KBARW of each kind. -/
theorem test_meets_kbar : LRec.nbars benchRec ≤ (BitVec.ofNat 7 (96 : W32).toNat).toNat ∧ (BitVec.ofNat 7 (3 : W32).toNat).toNat < LRec.nbars benchRec
    ∧ (afterK (.kbara ⟨5, 6⟩) (benchK 96 0)).running = false ∧ (afterK (.kbara ⟨5, 6⟩) (benchK 3 8)).running = false ∧ (afterK (.kbara ⟨5, 6⟩) (benchK 3 0)).pc = 4
    ∧ (afterK (.kbarw ⟨0, false, 5, 6⟩) (benchK 3 0 [] {} { mode := 2 })).running = false ∧ (afterK (.kbarw ⟨0, false, 5, 6⟩) (benchK 3 0 [] {} { err := true })).running = false
    ∧ (afterK (.kbarw ⟨0, false, 5, 6⟩) (benchK 3 0 [] {} { phase := true })).pc = 4 ∧ (afterK (.kbarw ⟨0, false, 5, 6⟩) (benchK 3 0)).block = .parked := by decide +kernel
/-- KRGPUT of 64 and 65 entries; a ring with too few; a wait on one; a role that is the array's. -/
theorem test_meets_kring : (afterK (.krgput ⟨false, 5, 6⟩) (benchK 2 65)).running = false ∧ (afterK (.krgput ⟨false, 5, 6⟩) (benchK 2 1)).running = false
    ∧ (afterK (.krgput ⟨false, 5, 6⟩) (benchK 2 4 [] (ring4 0 0))).pc = 4 ∧ (afterK (.krgput ⟨false, 5, 6⟩) (benchK 2 5 [] (ring4 0 0))).running = false
    ∧ (afterK (.krgput ⟨true, 5, 6⟩) (benchK 2 5 [] (ring4 0 0))).running = true ∧ (afterK (.krgput ⟨true, 5, 6⟩) (benchK 2 5 [] (ring4 0 0))).pc = 0
    ∧ (afterK (.krgget ⟨false, 5, 6⟩) (benchK 2 1 [] { ring4 1 0 with cna := true })).running = false := by decide +kernel
/-- KLT of a handle in PRIVATE; past the extent; of the last element of SHARED; a store that a load reads back. -/
def kltB (s : State) (a : AccKind) (x : KLt) : Nat :=
  match locate s (s.team 0 0) ⟨0, 0, 0, 0⟩ a x.h.toNat ((s.team 0 0).ls[x.h.toFin]) [(kOf s).rd x.rs1] 0 4 none with | .ok u => u | .error t => 10000 + t.cause.toNat
theorem test_meets_klt : entSpace (((benchK 0 0).team 0 0).ls[(6 : BitVec 6).toFin]) = spPrivate ∧ usable (((benchK 0 0).team 0 0).ls[(6 : BitVec 6).toFin]) = true
    ∧ kltB (benchK 1023 0) .load ⟨4, 7, 5, 0⟩ = 4092 ∧ kltB (benchK 1024 0) .store ⟨4, 7, 5, 0⟩ = 10000 + 0x0B
    ∧ (afterK (.kltLw ⟨6, 7, 5, 0⟩) (benchK 0 0)).running = false ∧ (afterK (.kltLw ⟨4, 7, 5, 0⟩) (benchK 1024 0)).running = false
    ∧ (afterK (.kltLw ⟨4, 7, 5, 0⟩) ((benchK 1 0).modTeam 0 0 fun t => { t with shared := [(4, 0x2A)] })).rd 7 = 0x2A := by decide +kernel
theorem test_klt_store : (match exec (.kltSw ⟨4, 6, 5, 0⟩) (benchK 1 0x1234) with | .next t => (t.team 0 0).shared | _ => []) = [(4, 0x34), (5, 0x12)] := by decide +kernel
/-- A load of a sector of device memory, and of one that is poisoned. -/
def benchKP (p : List PLoc) : State :=
  let s := (benchK 1 0).modTeam 0 0 fun t => { t with ls := vset t.ls 4 (entI 0 1024) }
  let s := s.modCore 0 fun k => { k with tlb := [⟨0, 0, 3, 0x0F⟩] }
  { s with mem := { s.mem with poison := p } }
theorem test_klt_poison : (afterK (.kltLw ⟨4, 7, 5, 0⟩) (benchKP [])).running = true ∧ (afterK (.kltLw ⟨4, 7, 5, 0⟩) (benchKP [⟨.dram, 0⟩])).running = false := by decide +kernel
/-! ## Hypotheses met together: issue, retirement, tasks, waits -/

/-- The bench between clauses, its code sector in the die L2: a header (N = 0, every class) or another word, then NOPs. -/
def codeSector (top : Byte) : Sector :=
  { tgt := .dram, base := 0, valid := BitVec.allOnes 48, data := vset (vset (.replicate 48 0) 3 0xC0) 7 top }
def benchI (top : Byte) (f : Group → Group) : State :=
  let s := benchG fun g => f { g with run := none, active := true }
  let s := s.modDie 0 fun d => { d with l2 := [codeSector top] }
  s.modCore 0 fun k => { k with tlb := [⟨0, 0, 3, 0x0F⟩], run := some 0, ctx := { k.ctx with order := vset k.ctx.order 0 [0] } }
theorem mayIssue_bench : Rules.MayIssue (benchI 0xC5 id) 0 0 ((benchI 0xC5 id).grp 0 0) :=
  ⟨rfl, rfl, rfl, rfl, rfl, rfl, rfl, rfl, rfl, rfl, rfl, by decide⟩
theorem test_meets_clause_issue : ∃ h ws s1 s2, Rules.MayIssue (benchI 0xC5 id) 0 0 ((benchI 0xC5 id).grp 0 0)
    ∧ (benchI 0xC5 id).det 0 = false ∧ ((benchI 0xC5 id).grp 0 0).active = true
    ∧ 0 ∈ (((benchI 0xC5 id).cores[(0 : CoreId)]).ctx.order)[((benchI 0xC5 id).grp 0 0).sched]
    ∧ ((benchI 0xC5 id).grp 0 0).issueSet.1 ≠ 0 ∧ codeWord (benchI 0xC5 id) 0 ((benchI 0xC5 id).team 0 0) 0 = (.ok h, s1)
    ∧ (∀ m k, s1.grp k m = (benchI 0xC5 id).grp k m) ∧ (∀ m k, s1.team k m = (benchI 0xC5 id).team k m)
    ∧ Rules.soundHeader h ∧ codeWords 0 ((benchI 0xC5 id).team 0 0) s1 8 1 = (.ok ws, s2) ∧ (∀ m k, s2.grp k m = s1.grp k m) :=
  ⟨0xC5000000C0000000, [0], _, _, mayIssue_bench, rfl, rfl, by decide, by decide, rfl, fun _ _ => rfl, fun _ _ => rfl, by unfold Rules.soundHeader; decide,
    rfl, fun _ _ => rfl⟩
/-- The same in deterministic mode, the cluster at the pinned clock and the rotation at the group; R47 prefers a group to itself. -/
def benchDet : State := (benchI 0xC5 id).modTeam 0 0 fun t => { t with lrec := vset t.lrec 0 (vat t.lrec 0 ||| bits 26 26) }
theorem test_meets_det_issue : benchDet.det 0 = true ∧ (benchDet.grp 0 0).active = true ∧ (benchDet.hub.clusters[clusterOf 0]).fcur = 44
    ∧ (((benchDet.cores[(0 : CoreId)]).ctx.order)[(benchDet.grp 0 0).sched])[((benchDet.cores[(0 : CoreId)]).ctx.rot)[(benchDet.grp 0 0).sched]]? = some 0
    ∧ lexLt (chooseKey (benchI 0xC5 id) 0 0) (chooseKey (benchI 0xC5 id) 0 0) = false := by decide +kernel
theorem test_meets_det_turn : Rules.MayIssue benchDet 0 0 (benchDet.grp 0 0) :=
  ⟨rfl, rfl, rfl, rfl, rfl, rfl, rfl, rfl, rfl, rfl, rfl, by decide⟩
/-- No wait of a header with every threshold 15 holds a group; threshold 0 of SB0 holds one with an instruction outstanding there. -/
theorem test_meets_waits : Rules.waitsMet ((benchI 0xC5 id).grp 0 0) 0xC5000000CFFFFFF0
    ∧ ¬ Rules.waitsMet ((benchI 0xC5 fun g => { g with out := [pendingOut] }).grp 0 0) 0xC5000000CFFFFF00
    ∧ Rules.waitsMet ((benchI 0xC5 fun g => { g with out := [pendingOut] }).grp 0 0) 0xC5000000CFFFFF10 := by
  unfold Rules.waitsMet; decide
theorem test_meets_bad_header : ¬ Rules.soundHeader 0x05000000C0000000
    ∧ (match codeWord (benchI 0x05 id) 0 ((benchI 0x05 id).team 0 0) 0 with | (.ok h, _) => h | _ => 0) = 0x05000000C0000000 := by
  unfold Rules.soundHeader; decide
/-- Two completed instructions before one that waits, on SB0. -/
def benchRet : State := benchG fun g => { g with out := [{ sb := 0, kind := .done }, { sb := 0, kind := .done }, { sb := 0, kind := .copy 5 }] }
theorem test_meets_retire : ((benchRet.grp 0 0).out.all fun o => !o.pending) = true ∧ (benchRet.grp 0 0).resident = true
    ∧ (benchRet.grp 0 0).liveLanes ≠ 0 ∧ (benchRet.grp 0 0).hangAct ≠ 2 ∧ gridKilled benchRet (benchRet.team 0 (benchRet.grp 0 0).team) = false
    ∧ (((benchRet.grp 0 0).out.filter fun o => o.sb = 0).takeWhile fun o => o.kind = .done).length = 2 := by decide
/-- SCHEDCFG with HEXP 16 and HACT 1; the counter at 2^16; the group between clauses, at a wait, inside a clause. -/
def benchHang : State :=
  (benchI 0xC5 fun g => { g with hang := 65536, hangAct := 1 }).modCore 0 fun k => { k with schedcfg := 0x50000000 }
theorem test_meets_hang : 2 ^ max (((benchHang.cores[(0 : CoreId)]).schedcfg.toNat) / 2 ^ 24 % 32) 16 ≤ (benchHang.grp 0 0).hang
    ∧ ((benchHang.cores[(0 : CoreId)]).schedcfg.toNat) / 2 ^ 30 = 1 ∧ (benchHang.grp 0 0).run = none ∧ (benchHang.grp 0 0).resume = none
    ∧ (benchHang.grp 0 0).hangAct = 1 ∧ (benchHang.cores[(0 : CoreId)]).run.isSome = true := by decide
theorem test_meets_hang_waits : ((benchG fun g => { g with block := .polling, hangAct := 1 }).grp 0 0).run = some (benchRun 0)
    ∧ ((bench 0).grp 0 0).block = .free ∧ ((bench 0).grp 0 0).run ≠ none ∧ (0x90000000 : W32).toNat / 2 ^ 30 = 2
    ∧ (∀ b ∈ ((bench 0).team 0 0).bars.toList, Waiter.grp 0 ∉ b.waves) := by
  refine ⟨by decide, by decide, by decide, by decide, ?_⟩
  decide +kernel
theorem test_meets_hang_lanes : Rules.candidate (benchHang.grp 0 0) 0
    ∧ (∀ k : Fin 32, ¬ Rules.candidate ((benchG fun g => { g with lane := .replicate 32 .held }).grp 0 0) k)
    ∧ ((benchG fun g => { g with lane := .replicate 32 .held }).grp 0 0).lane[(0 : Fin 32)] ≠ .exited := by
  unfold Rules.candidate; decide
theorem test_meets_sleep : ((benchG fun g => { g with block := .sleeping 0 }).grp 0 0).block = .sleeping 0
    ∧ ((benchG fun g => { g with block := .sleeping 0 }).grp 0 0).resident = true := by decide
/-- A task that has waited 1,024 cycles with TFEXP 10; a formed group of one task; a queued team of another context at SLEXP 10. -/
def oneTask : Task := { num := 0, team := 0, entry := 0, arg := .replicate 8 5, born := 0 }
def benchTask : State :=
  let s := (benchI 0xC5 id).modCore 0 fun k => { k with schedcfg := 0x00A50000
                                                        queued := [{ grid := 0, t := 0, asid := 1, offered := 0 }] }
  let s := s.modCluster 0 fun k => { k with cycles := 1024 }
  s.modCtx 0 fun x => { x with pool := [oneTask], bins := [{ team := 0, entry := 0, tasks := [oneTask] }] }
theorem test_meets_tasks : (((benchTask.cores[(0 : CoreId)]).ctx.pool.filter fun k => k.team = 0 ∧ k.entry = 0) = [oneTask]) ∧ benchTask.det 0 = false
    ∧ oneTask.born + 2 ^ ((benchTask.cores[(0 : CoreId)]).schedcfg.toNat / 2 ^ 20 % 16) ≤ benchTask.cycles 0
    ∧ ((benchTask.cores[(0 : CoreId)]).schedcfg.toNat / 2 ^ 15 % 32) = 10 ∧ (benchTask.cores[(0 : CoreId)]).run ≠ some 1
    ∧ taskRoom (benchTask.cores[(0 : CoreId)]).ctx { team := 0, entry := 0, tasks := [oneTask] } = some (1, 32, 1)
    ∧ gridKilled benchTask (benchTask.team 0 0) = false ∧ (benchTask.cores[(0 : CoreId)]).stopping = .no ∧ (benchTask.grp 0 1).resident = false
    ∧ (∀ m : Slot, (benchTask.grp 0 m).resident = true → (benchTask.grp 0 m).team = 0 → (benchTask.grp 0 m).gid.toNat ≠ 32)
    ∧ vecUsed (benchTask.cores[(0 : CoreId)]).ctx + (8 * LRec.na (benchTask.team 0 0).lrec + 8) ≤ 8192
    ∧ (∀ k : Fin 4, ((benchTask.cores[(0 : CoreId)]).ctx.order)[k].length < 16)
    ∧ ((benchTask.cores[(0 : CoreId)]).queued[0]?.map fun q => (q.risen, decide (q.offered + 2 ^ 10 ≤ benchTask.cycles 0))) = some (false, true) := by decide +kernel
/-- A wave of two groups at the slot boundary after that of the wave before, and at the same one; the first leaves, charged 5. -/
def benchWave (at' : Nat) : State :=
  ((benchT fun t => { t with bars := vset t.bars 3 { waves := [.grp 0, .grp 1, .grp 2], waveN := 2, waveI := 5, waveAt := at' } })).modCluster 0 fun k => { k with cycles := 64 }
theorem test_meets_wave : (benchWave 0).cycles 0 % 64 = 0 ∧ (((benchWave 0).team 0 0).bar 3).waveAt < (benchWave 0).cycles 0 / 64
    ∧ (((benchWave 0).team 0 0).bar 3).waves ≠ [] ∧ (benchWave 1).cycles 0 / 64 ≤ (((benchWave 1).team 0 0).bar 3).waveAt
    ∧ (match exec (.barrierWaveRelease 0 0 3) (benchWave 0) with
      | .next t => (((t.team 0 0).bar 3).waves, (t.hub.clusters[(0 : Fin 16)]).waveA) | _ => ([], 0)) = ([.grp 2], 10) := by decide
/-- A parked WAITA whose location 1 a write has reached; one to check again, with the expected value there and another. -/
def waitEnt (x : W32) : WaitEnt := { idx := 0, ps := (List.range 4).map fun j => ⟨.shared 0 0, j⟩, key := {}, sco := 1, index := 1, expect := some x, recheck := true, fired := true }
def benchWait (x : W32) : State := (benchG fun g => { g with block := .parked }).modCtx 0 fun y => { y with waits := [waitEnt x] }
theorem test_meets_wake : ((benchWait 0).grp 0 0).block = .parked ∧ (((benchWait 0).cores[(0 : CoreId)]).ctx.waits.filter fun w => w.idx = 0) = [waitEnt 0]
    ∧ (placeRead (benchWait 0) 0 0 {} 1 (waitEnt 0).ps).1 = (0, false) ∧ (waitEnt 0).expect = some 0 ∧ (waitEnt 7).expect = some 7 := by decide

/-! ## Hypotheses met together: teams -/

/-- A grid of one team of one group with 4 KiB of SHARED that core 0 may take, its context running there. -/
def oneRec : LRec := vset benchRec 4 (bits 0 0 ||| bits 17 17 ||| bits 28 28)
def oneGrid : Grid := { id := 1, cmd := none, parent := none, asid := 0, lrec := oneRec, prio := 0, cmask := 1, depth := 0 }
def oneQ : QTeam := { grid := 1, t := 0, asid := 0, offered := 0 }
def benchGr (g : Grid) (q : List QTeam) : State :=
  let s := State.reset.modHub fun h => { h with grids := [g] }
  s.modCore 0 fun k => { k with run := some 0, queued := q }
theorem test_meets_staging : (benchGr oneGrid []).grid? 1 = some oneGrid ∧ LRec.teams oneRec = 1 ∧ coreFits oneGrid 0 0 = true ∧ coreFits oneGrid 0 1 = false
    ∧ boundTo ((benchGr oneGrid []).cores[(0 : CoreId)]) 0 = true ∧ (launchStages (benchGr oneGrid []) 0 (oneQ.stub (benchGr oneGrid []))).length = 0
    ∧ stagingBytes (benchGr oneGrid []) 0 = 0 := by decide
/-- The team that a pre-emption has sent away, offered again. -/
def benchAgain : State := benchGr oneGrid [{ oneQ with away := true }]
theorem test_meets_offer_again : (benchAgain.cores[(0 : CoreId)]).queued = [{ oneQ with away := true }] ∧ benchAgain.grid? 1 = some oneGrid
    ∧ (launchStages benchAgain 0 ({ oneQ with away := true }.stub benchAgain)).length = 0 ∧ stagingBytes benchAgain 0 = 0
    ∧ (benchAgain.dies[(0 : Fin 4)]).stgbud.toNat = 512 := by decide
theorem test_meets_deadline : ((benchGr oneGrid [oneQ]).cores[(0 : CoreId)]).queued[0]? = some oneQ
    ∧ oneQ.offered + 1024 * LRec.deadline (oneQ.lrec (benchGr oneGrid [oneQ])) ≤ (benchGr oneGrid [oneQ]).cycles 0
    ∧ (benchGr oneGrid [oneQ]).cycles 0 < oneQ.offered + 1024 * LRec.deadline (vset oneRec 3 (bits 32 32)) := by decide
theorem test_meets_admission : ((benchGr oneGrid [oneQ]).cores[(0 : CoreId)]).queued[0]? = some oneQ ∧ (benchGr oneGrid [oneQ]).grid? 1 = some oneGrid
    ∧ (benchGr oneGrid [oneQ]).hub.puts = [] ∧ mayAdmit (benchGr oneGrid [oneQ]) 0 oneQ oneGrid = true
    ∧ (let k := (benchGr oneGrid [oneQ]).cores[(0 : CoreId)]
       LRec.ngroups oneRec = 1 ∧ vecUsed k.ctx + vecSlots oneRec ≤ 8192 ∧ heldBars k.ctx + LRec.nbars oneRec = 96
       ∧ held k.ctx spShared + allocation (oneQ.stub (benchGr oneGrid [oneQ])) spShared = 4096 ∧ carveOpen (benchGr oneGrid [oneQ]) 0 = true
       ∧ LRec.feederImg oneRec = 0 ∧ LRec.drainImg oneRec = 0
       ∧ pickSlots k.ctx 1 = some [0] ∧ pickScheds k.ctx false (schedLoad k.ctx) (List.range 1) = some [0]
       ∧ placeParts k.ctx (oneQ.stub (benchGr oneGrid [oneQ])) = some (0, 0, 0) ∧ blockedParts k (oneQ.stub (benchGr oneGrid [oneQ])) = false) := by decide +kernel
/-- A live team with nothing left, of a grid with none to come; one with a group. -/
def benchEnd : State := ((benchGr { oneGrid with next := 1 } []).modTeam 0 0 fun t => { t with live := true, grid := 1, lrec := oneRec })
theorem test_meets_retirement : mayRetire benchEnd 0 0 = true ∧ benchEnd.grid? (benchEnd.team 0 0).grid = some { oneGrid with next := 1 }
    ∧ ((bench 0).grp 0 0).resident = true ∧ ((bench 0).grp 0 0).team = 0 := by decide
/-- A stage entry of a resident team: two words of DRAM to SHARED at 16; a prefetch; one with a reserved bit. -/
def stgE (tgt toff bad : Nat) : BitVec 512 :=
  BitVec.ofNat 512 (4 + (bad <<< 6) + (1 <<< 7) + (tgt <<< 8) + (toff <<< 16) + (127 <<< 49) + (2 <<< 160) + (1 <<< 224) + (1 <<< 288) + (1 <<< 352))
def stgS (tgt toff bad : Nat) : Stage := { entry := stgE tgt toff bad, handle := entI 0 1024, launch := false, total := 8, busy := true }
/-- A context whose table maps 1 GiB at 0: the root at 0, the next table at 256. -/
def tables : Mem := [(0, 1), (1, 1), (256, 0x0F)]
def benchStg (x : Stage) : State := let s := (benchT fun t => { t with stages := [x] }).modCore 0 fun k => { k with run := some 0 }; { s with mem := { s.mem with dram := tables } }
def stgReadB (x : Stage) : Option (List Byte × Bool) :=
  match stageRead (benchStg x) (stageCtx (benchStg x) 0 ((benchStg x).team 0 0)) ((benchStg x).team 0 0) x.entry x.handle with
  | (.ok bs, u) => some (bs, u.core == 0) | _ => none
theorem test_meets_stage_entries : (stagesOf ((benchStg (stgS 1 16 0)).cores[(0 : CoreId)]))[0]? = some (.team 0, 0)
    ∧ ((benchStg (stgS 1 16 0)).team 0 0).stages[0]? = some (stgS 1 16 0)
    ∧ stageCause (benchStg (stgS 1 16 0)) 0 ((benchStg (stgS 1 16 0)).team 0 0) (stgE 1 16 0) (entI 0 1024) true = none
    ∧ stgReadB (stgS 1 16 0) = some ([1, 1, 0, 0, 0, 0, 0, 0], true)
    ∧ stageCause (benchStg (stgS 0 0 0)) 0 ((benchStg (stgS 0 0 0)).team 0 0) (stgE 0 0 0) (entI 0 1024) true = none
    ∧ stageCause (benchStg (stgS 1 16 1)) 0 ((benchStg (stgS 1 16 1)).team 0 0) (stgE 1 16 1) (entI 0 1024) true = some 0x08
    ∧ stageCause (benchStg (stgS 1 4088 0)) 0 ((benchStg (stgS 1 4088 0)).team 0 0) (stgE 1 4088 0) (entI 0 1024) true = none
    ∧ stageCause (benchStg (stgS 1 4089 0)) 0 ((benchStg (stgS 1 4089 0)).team 0 0) (stgE 1 4089 0) (entI 0 1024) true = some 0x0B := by decide +kernel
/-- An engine serves the entry, and no other entry of the die waits for one. -/
theorem test_meets_serving : Rules.Serving (benchStg (stgS 1 16 0)) 0 0 0 0 (stgS 1 16 0)
    ∧ ((benchStg (stgS 0 0 0)).dies[dieOf 0]).sways = 0
    ∧ (match stageLines (benchStg (stgS 0 0 0)) 0 ((benchStg (stgS 0 0 0)).team 0 0) (stgE 0 0 0) (entI 0 1024) with | (none, u) => u.core == 0 | _ => false) = true :=
  ⟨⟨by decide +kernel, by decide, rfl, by decide, by decide, by decide, by decide +kernel⟩, by decide, by decide +kernel⟩
/-! ## Hypotheses met together: commands and contexts -/

/-- A command of state st that depends on command 1, which is in state d; both in the journal window. -/
def benchCmd (st d : BitVec 4) (g : Option Nat) : State :=
  let c : Command := { seq := 2, queue := 0, slot := 0, asid := 0, state := st, status := 0, lrec := vset benchRec 0 (bits 56 56), deps := [1], grid := g }
  (benchGr oneGrid []).modHub fun h => { h with jseq := 3, jlow := 1, cmds := [{ c with seq := 1, state := d, deps := [] }, c] }
theorem test_meets_commands : (∀ d : BitVec 4, (((benchCmd 1 d none).cmd? 1).map (·.state)) = some d) ∧ LRec.ver (((benchCmd 1 3 none).cmd? 2).map (·.lrec) |>.getD benchRec) = 1
    ∧ ((benchCmd 1 3 none).ctxRec 0).hold = false ∧ (benchCmd 1 3 none).hub.boot.minimal = false
    ∧ ((benchCmd 2 3 (some 1)).cmd? 2).map (·.grid) = some (some 1) := by decide
theorem test_meets_command_start : (match exec (.commandStart 2) (benchCmd 1 3 none) with | .next t => (t.cmd? 2).map (·.state) | _ => none) = some 2
    ∧ (match exec (.commandStart 2) (benchCmd 1 4 none) with | .next t => (t.cmd? 2).map fun c => (c.state, c.status) | _ => none) = some (5, 0x13)
    ∧ (match exec (.commandStart 2) (benchCmd 1 2 none) with | .next t => (t.cmd? 2).map (·.state) | _ => none) = some 1 := by decide
/-- CANCEL below JLOW, at JSEQ, of a final command, of a running one. -/
theorem test_meets_cancel : (0 : W64).toNat < (benchCmd 1 3 none).hub.jlow.toNat ∧ (benchCmd 1 3 none).hub.jseq.toNat ≤ (3 : W64).toNat
    ∧ (match exec (.cancel 0) (benchCmd 2 3 (some 1)) with | .next t => t.hub.cstat | _ => 0) = 3
    ∧ (match exec (.cancel 3) (benchCmd 2 3 (some 1)) with | .next t => t.hub.cstat | _ => 0) = 3
    ∧ (match exec (.cancel 1) (benchCmd 2 3 (some 1)) with | .next t => t.hub.cstat | _ => 0) = 2
    ∧ (match exec (.cancel 2) (benchCmd 2 3 (some 1)) with | .next t => t.hub.cstat | _ => 0) = 1 := by decide
/-- A queue of 16 slots in device memory with its tail 16 ahead, and 17 ahead; a taken slot. -/
def benchQu (tail : Byte) (taken : Nat) : State :=
  let s := State.reset.modHub fun h => { h with queues := vset h.queues 5 { en := true, loc := true, taken := taken }, boot := { h.boot with ready := true } }
  { s with mem := { s.mem with dram := if tail = 0 then [] else [(0, tail)] } }
def tailB (s : State) : Option (List Byte) := (hubRead s (s.hub.queues[(5 : Fin 256)]).loc (s.hub.queues[(5 : Fin 256)]).tailAt 8).1
theorem test_meets_queue : tailB (benchQu 16 0) = some [16, 0, 0, 0, 0, 0, 0, 0] ∧ tailB (benchQu 17 0) = some [17, 0, 0, 0, 0, 0, 0, 0]
    ∧ 2 ^ ((benchQu 17 0).hub.queues[(5 : Fin 256)]).lsize.toNat = 16 ∧ ((benchQu 17 2).hub.queues[(5 : Fin 256)]).taken = 2
    ∧ ((benchQu 17 2).hub.queues[(4 : Fin 256)]).en = false ∧ (benchQu 17 2).pfail = false := by decide
theorem test_meets_queue_read : ∃ bs, hubRead (benchQu 16 0) true 0 256 = (some bs, benchQu 16 0) := ⟨_, rfl⟩
/-- A contender two classes above the resident team, in a core that runs context 0. -/
def benchSw (st : Stopping) (at' : Option Nat) : State :=
  let s := (benchT fun t => { t with lrec := vset benchRec 0 (bits 23 23) }).modGrp 0 0 fun g => { g with run := none }
  let s := s.modHub fun h => { h with grids := [{ oneGrid with id := 2, asid := 7, lrec := vset oneRec 0 (bits 24 23) }] }
  let s := s.modCluster 0 fun k => { k with cycles := 4096 }
  s.modCore 0 fun k => { k with run := some 0, stopping := st, stopAt := at', queued := [{ grid := 2, t := 0, asid := 7, offered := 0 }] }
theorem test_meets_switch : (contenders (benchSw .no none) 0).any (preempts (benchSw .no none) 0) = true
    ∧ bestContender ((contenders (benchSw .drained none) 0).filter (preempts (benchSw .drained none) 0)) = some ⟨7, 3, 3, 0⟩
    ∧ coreStopped (benchSw .groups (some 2048)) 0 = true ∧ 2048 + 2048 ≤ (benchSw .groups (some 2048)).cycles 0
    ∧ (benchSw .groups (some 2049)).cycles 0 < 2049 + 2048 ∧ (benchSw .drained none).hub.puts = []
    ∧ (((benchSw .no none).modCore 0 fun k => { k with run := none }).cores[(0 : CoreId)]).run = none
    ∧ bestContender (contenders ((benchSw .no none).modCore 0 fun k => { k with run := none }) 0) = some ⟨7, 3, 3, 0⟩
    ∧ contenders ((benchSw .drained none).modCore 0 fun k => { k with queued := [] }) 0 = [] := by decide +kernel
/-- A context away from the core, its records in save areas that no table maps; a partition away. -/
def benchAway : State := (benchSw .no none).modCore 0 fun k => { k with saved := [(7, { k.ctx with groups := .replicate 64 {} })] }
theorem test_meets_save : (benchAway.cores[(0 : CoreId)]).run ≠ some 7 ∧ (benchAway.cores[(0 : CoreId)]).stream ≠ some 7
    ∧ (∃ y ∈ contenders benchAway 0, y.asid = 7) ∧ ((benchAway.cores[(0 : CoreId)]).saved.find? (fun y => y.1 == 7)).isSome = true
    ∧ ((benchT fun t => { t with tbHere := false }).team 0 0).tbHere = false ∧ (((benchT fun t => { t with tbHere := false }).cores[(0 : CoreId)]).saved) = []
    ∧ (∀ j : Slot, j < 0 → ((benchT fun t => { t with tbHere := false }).team 0 j).live = false) := by decide +kernel

/-- Context 7 saved with no group and no team, its core record on DRAM from 0 up as it was written. -/
def benchKept (m : Mem) : State :=
  let s := (benchSw .no none).modCore 0 fun k => { k with saved := [(7, {})] }
  { s with mem := { s.mem with dram := m } }
def wholeMem : Mem := (List.range 1048576).map fun j => (pitch 0 j, Config.freeByte (480512 + j))
theorem get_of_places (l : List Nat) (f : Nat → Nat) (g : Nat → Byte) (hf : ∀ a b, f a = f b → a = b) (a : Nat) (ha : a ∈ l) :
    Memory.get (l.map fun j => (f j, g j)) (f a) = g a := by
  induction l with
  | nil => exact absurd ha List.not_mem_nil
  | cons b l ih =>
    simp only [List.map_cons, Memory.get]
    split
    · rename_i h; rw [hf _ _ h]
    · rename_i h
      exact ih ((List.mem_cons.1 ha).resolve_left fun e => h (by rw [e]))
theorem test_meets_saved (m : Mem) : ((benchKept m).cores[(0 : CoreId)]).saved.find? (fun y => y.1 == 7) = some (7, {}) := rfl
theorem test_meets_no_records : saveRecords 0 {} = [] := by decide +kernel
theorem whole_of (m : Mem) (h : ∀ j < 1048576, Memory.get m (pitch 0 j) = Config.freeByte (480512 + j)) :
    coreHolds (benchKept m) 0 7 ({} : CtxCore).priv = true := by
  have hr : coreRecord 0 0 = (List.range 1048576).map fun j => (j, Config.freeByte (480512 + j)) := by
    simp only [coreRecord, privateBytes]
    refine List.map_congr_left fun j _ => ?_
    simp
  have hb : fieldN ((benchKept m).ctxRec 7).desc 192 57 = 0 := by
    have : ((benchKept m).ctxRec 7).desc = 0 := rfl
    rw [this]; decide
  unfold coreHolds
  rw [beq_iff_eq, show (({} : CtxCore).priv) = 0 from rfl, hr, homeBytes_home _ _ _ (by
    intro p hp
    obtain ⟨x, -, rfl⟩ := List.mem_map.1 hp
    rfl)]
  simp only [corePlaces, hb, List.map_map]
  refine List.map_congr_left fun j hj => ?_
  have hs : sectorBase (pitch 0 j) ≤ pitch 0 j ∧ pitch 0 j - sectorBase (pitch 0 j) < 48 := by
    simp only [sectorBase, pitch]; omega
  show vat (Vector.ofFn fun i : Fin 48 => homeByte (benchKept m) .dram (sectorBase (pitch 0 j)) i.val _) (pitch 0 j - sectorBase (pitch 0 j)) = _
  have hm : (pitch 0 j - sectorBase (pitch 0 j)) % 48 = pitch 0 j - sectorBase (pitch 0 j) := Nat.mod_eq_of_lt hs.2
  simp only [vat, Fin.getElem_fin, Fin.val_ofNat, Vector.getElem_ofFn, hm]
  show Memory.get m (sectorBase (pitch 0 j) + (pitch 0 j - sectorBase (pitch 0 j))) = _
  rw [Nat.add_sub_cancel' hs.1]
  exact h j (List.mem_range.1 hj)
theorem test_meets_whole : coreHolds (benchKept wholeMem) 0 7 ({} : CtxCore).priv = true :=
  whole_of wholeMem fun j hj => get_of_places _ (pitch 0) (fun j => Config.freeByte (480512 + j))
    (by intro a b; simp only [pitch]; omega) j (List.mem_range.2 hj)
/-- The context in STREAM, its registers spilled. -/
theorem test_meets_stream : (((benchAway.modCore 0 fun k => { k with stream := some 7 }).cores[(0 : CoreId)]).saved.map (·.1)).Nodup
    ∧ (∀ y ∈ ((benchAway.modCore 0 fun k => { k with stream := some 7 }).cores[(0 : CoreId)]).saved, ∀ n : Slot, (y.2.groups[n]).spills = [] ∧ (y.2.groups[n]).mapped = 0) := by decide +kernel
/-- A journal of one command in flight when the drain window closes. -/
theorem test_meets_drain : (((benchSw .groups (some 2048)).modCore 0 fun k => { k with journal := [{ fillCmd .inFlight 60 [] with seq := 5, asid := 0 }] }).cores[(0 : CoreId)]).journal.map (·.seq) = [5]
    ∧ coreStopped ((benchSw .groups (some 2048)).modCore 0 fun k => { k with journal := [{ fillCmd .inFlight 60 [] with seq := 5, asid := 0 }] }) 0 = true := by decide +kernel
/-- The lane that acceptance looks at: a record of zeros pending in queue 5, the tier writable. -/
theorem test_meets_acceptance : (benchQu 16 0).hub.boot.ready = true ∧ ((benchQu 16 0).hub.queues[(5 : Fin 256)]).en = true
    ∧ (((benchQu 16 0).modQueue 5 fun x => { x with tail := 16 }).hub.queues[(5 : Fin 256)]).pending ≠ 0
    ∧ (∀ k : Fin 256, k ≠ 5 → ((benchQu 16 0).hub.queues[k]).en = false) ∧ ((benchQu 16 0).hub.jseq - (benchQu 16 0).hub.jlow).toNat ≠ 2 ^ (benchQu 16 0).hub.boot.lj.toNat
    ∧ (benchQu 16 0).pfail = false ∧ ((benchQu 16 0).hub.pstacks[(0 : Fin 4)]).state ≠ 3 ∧ (∀ c ∈ (benchQu 17 2).hub.cmds, c.kept = true) := by decide +kernel

/-! ## Hypotheses met together: memory and power -/

/-- A dirty sector of byte 1 in the L2 of die 0 and in core 0's buffer, a dirty host block, a persistent write in queue 2. -/
def dirtySec (b : BitVec 48) : Sector := { codeSector 0 with dirty := b }
def benchMem (b : BitVec 48) : State :=
  let s := (State.reset.modDie 0 fun d => { d with l2 := [dirtySec b] }).modCore 0 fun k => { k with wcb := [dirtySec b] }
  { s with mem := { s.mem with hcache := [{ base := 64, data := .replicate 64 7, dirty := true }], mscDirty := [(48, 3)]
                               queues := vset s.mem.queues 2 [{ base := 0, bytes := [(0, 1)] }] } }
theorem test_meets_home : (dirtySec 2).tgt = .dram ∧ (benchMem 2).hub.capture = none ∧ keyAt (benchMem 2) ⟨.dram, 0⟩ = none
    ∧ ((((benchMem 2).dies[(0 : Fin 4)]).l2.filter fun x => x.dirty ≠ 0)[0]?) = some (dirtySec 2) ∧ ((benchMem 2).cores[(0 : CoreId)]).wcb[0]? = some (dirtySec 2)
    ∧ (((benchMem 0).dies[(0 : Fin 4)]).l2)[0]? = some (dirtySec 0)
    ∧ ((benchMem 2).mem.hcache.find? (·.base == 127 / 64 * 64)).isSome = true ∧ ((benchMem 2).mem.hcache.find? (·.base == 128 / 64 * 64)).isNone = true := by decide
theorem test_home_write : (homeWrite State.reset { dirtySec 0x80 with data := .replicate 48 9 }).mem.dram = [(7, 9)] := by decide
/-- Ways 14 and 15 under conversion; a cache die and its frame, and another's. -/
theorem test_meets_ways : (0xC000 : BitVec 16).getLsbD 15 = true ∧ (∀ m : Fin 16, 15 < m → (0xC000 : BitVec 16).getLsbD m.val = false)
    ∧ (State.reset.dies[(0 : Fin 4)]).blocked = 0 ∧ 0x3000 / 4096 % 8 = 3 ∧ 0x3000 / 4096 % 8 ≠ 4 ∧ stackOf (sectorBase 0x3000) = 3 ∧ stackOf (sectorBase 0x3000) ≠ 2 := by decide
theorem test_meets_errors : (benchMem 2).mem.mscDirty.find? (·.1 == sectorBase 95) = some (sectorBase 95, 3) ∧ (benchMem 2).mem.mscDirty.find? (·.1 == sectorBase 96) = none
    ∧ stackOf (sectorBase 0) = 0 ∧ Rules.logPlace (benchMem 2) 0 = 0 := by decide
theorem test_meets_persistence : (benchMem 2).mem.queues[(2 : Fin 4)] = [{ base := 0, bytes := [(0, 1)] }] ∧ ((benchMem 2).hub.pstacks[(2 : Fin 4)]).state ≠ 3
    ∧ (benchMem 2).mem.queues[(1 : Fin 4)] = [] := by decide
/-- The window with the link up: a page of slot 0 and one of a tenant. -/
def benchCxl (k : BitVec 10) : State :=
  let s := State.reset.modHub fun h => { h with link := some ⟨16, 64, 256⟩, mgmt := { h.mgmt with ide := .replicate 3 (some 7) }, boot := { h.boot with formatted := true, fwTier := [(98304, 192)] } }
  { s with mem := { s.mem with keys := [(⟨.dram, 0⟩, { slot := k })] } }
theorem test_meets_cxl : (benchCxl 0).hub.linkUp = true ∧ (benchCxl 0).hub.mgmt.ide[2].isSome = true ∧ (State.reset).hub.mgmt.ide[2] = none
    ∧ Sys2Proof.Machine.inJournal (benchCxl 0) 47 = true ∧ Sys2Proof.Machine.inJournal (benchCxl 0) 48 = false
    ∧ inRegions (benchCxl 0).hub.boot.fwTier 98304 = true ∧ inRegions (benchCxl 0).hub.boot.fwTier 98496 = false
    ∧ tenantPage (benchCxl 1) (winPlace true 98496) = false ∧ (∀ x ∈ (List.range 64).map fun j => winPlace false (0 / 64 * 64 + j), tenantPage (benchCxl 0) x = false)
    ∧ tenantPage (benchCxl 1) (winPlace false 0) = true ∧ (benchCxl 0).hub.boot.minimal = false := by decide
/-- PHINT with four windows open, of intensity 0 and of intensity 8. -/
def benchHint : State := (bench 0).modCtx 0 fun x => { x with hints := [⟨0, 90, 1, 0⟩, ⟨0, 50, 1, 1⟩, ⟨0, 50, 1, 2⟩, ⟨0, 90, 1, 3⟩] }
theorem test_meets_phint : Meets (.phint ⟨hu, z, 0, 0, 0x081⟩) benchHint ∧ Meets (.phint ⟨hu, z, 0, 0, 1⟩) benchHint ∧ Meets (.phint ⟨hu, z, 0, 0, 0x081⟩) (bench 0) :=
  ⟨meets_of _ _ (by decide), meets_of _ _ (by decide), meets_of _ _ (by decide)⟩
/-- The window that replaces the one that ends soonest, the first of two (R141). -/
theorem test_phint_replaces : (match exec (.phint ⟨hu, z, 0, 0, 0x081⟩) benchHint with | .next t => ((t.cores[(0 : CoreId)]).ctx.hints).map (·.ends) | _ => []) = [90, 50, 90, 80] := by decide
/-- A slot at cycle 0 and one not yet due; a target frequency that is not FCUR; a sample at cycle 1,024. -/
def benchPw (n : Nat) : State := State.reset.modCluster 3 fun k => { k with cycles := n, freq := 30 }
theorem test_meets_power : (benchPw 1024).hub.clusters[(3 : Fin 16)].cycles % 64 = 0 ∧ (benchPw 63).hub.clusters[(3 : Fin 16)].cycles % 64 ≠ 0
    ∧ (benchPw 0).hub.clusters[(3 : Fin 16)].freq ≠ (benchPw 0).hub.clusters[(3 : Fin 16)].fcur ∧ detPin (benchPw 0) 3 = false
    ∧ (State.reset).hub.clusters[(3 : Fin 16)].freq = (State.reset).hub.clusters[(3 : Fin 16)].fcur := by decide
/-- CPWR at the least limit and frequency, below each, and above the highest frequency. -/
theorem test_meets_cpwr : (match exec (.cpwrWrite 3 0x18000040) State.reset with | .next t => (t.hub.clusters[(3 : Fin 16)]).freq | _ => 0) = 24
    ∧ (match exec (.cpwrWrite 3 0x1800003F) State.reset with | .next t => (t.hub.clusters[(3 : Fin 16)]).freq | _ => 0) = 44
    ∧ (match exec (.cpwrWrite 3 0x17000040) State.reset with | .next t => (t.hub.clusters[(3 : Fin 16)]).freq | _ => 0) = 44
    ∧ (match exec (.cpwrWrite 3 0x32000040) State.reset with | .next t => (t.hub.clusters[(3 : Fin 16)]).freq | _ => 0) = 50
    ∧ (match exec (.cpwrWrite 3 0x33000040) State.reset with | .next t => (t.hub.clusters[(3 : Fin 16)]).freq | _ => 0) = 44 := by decide
theorem test_eclr : (match exec (.eclrCluster 0 16) State.reset with | .next t => t.hub.mgmt.errNo | _ => 9) = 1
    ∧ (match exec (.eclrCluster 0 15) State.reset with | .next t => t.hub.mgmt.errNo | _ => 9) = 0 := by decide
/-! ## Hypotheses met together: snapshots, restores, dead granules, start-up -/

/-- A valid configuration block for node 0: one region of 3,072 bytes at 4096, the save area at 2^30, members 0 to 15. -/
def blockNat : Nat := 0xc000000000000001000000000000000000000000000003001800000000040000000000f000e000d000c000b000a00090008000700060005000400030002000100000101000000000000
def cfgBlock : Vector W64 24 := Vector.ofFn fun j => BitVec.ofNat 64 (blockNat / 2 ^ (64 * j.val))
def tables4 : Mem := [(0, 1), (1, 1), (256, 0x0F), (264, 0x4F)]
def blockCells : Mem := [(65542, 1), (65543, 1), (65546, 1), (65548, 2), (65550, 3), (65552, 4), (65554, 5), (65556, 6), (65558, 7), (65560, 8), (65562, 9), (65564, 10), (65566, 11), (65568, 12), (65570, 13), (65572, 14), (65574, 15), (65579, 64), (65584, 128), (65585, 1), (65586, 48), (65601, 16), (65609, 12)]
/-- Context 0 of node 0: 1 GiB of DRAM at 0, 1 GiB of the tier at 2^30, the block at 65536. -/
def benchSn (f : Hub → Hub) (p : Mem) (blk : Bool := true) : State :=
  let s := (benchGr { oneGrid with closed := [(4, 1)] } []).modHub fun h => f { h with node := 0, restcfg := 65536 }
  { s with mem := { s.mem with dram := tables4 ++ if blk then blockCells else [], pst := p } }
def capOf (place frames : List PLoc) : Capture := { step := 4, grid := 1, asid := 0, cfg := cfgBlock, slot := 0, frames := frames, place := place }
def benchCap (c : Capture) : State := benchSn (fun h => { h with capture := some c, notices := (List.range 16).map fun k => (BitVec.ofNat 14 k, 4) }) [] false
theorem test_meets_capture : (capOf [⟨.dram, 4096⟩] []).armed = true ∧ framesLeft (capOf [⟨.dram, 4096⟩] []) = [⟨.dram, 4096⟩]
    ∧ framesLeft (capOf [⟨.dram, 4096⟩] [⟨.dram, 4096⟩]) = [] ∧ allClosed (benchCap (capOf [] [])) (capOf [] []) = true
    ∧ noticesIn (benchCap (capOf [] [])) (capOf [] []) = true ∧ imageSettled (benchCap (capOf [] [])) = true
    ∧ allClosed (benchCap { capOf [] [] with step := 5 }) { capOf [] [] with step := 5 } = false := by decide +kernel
/-- A capture in an area without regions: no padding, no parity bytes; its manifest persists, and does not after PFAIL. -/
def capNone : Capture := { capOf [] [] with cfg := vset (.replicate 24 0) 5 0x40000000, complete := true, parity := true }
theorem test_meets_persisted : (padImage (benchCap capNone) capNone).1 = true ∧ capNone.parityBytes = 0
    ∧ (slotPut (benchCap capNone) capNone capNone.parityAt []).1 = true
    ∧ (slotPut { benchCap capNone with pfail := true } capNone 0 [7]).1 = false := by decide +kernel
/-- One level of a walk: a leaf, and an entry that points to a table. -/
theorem walk_leaf (s : State) (e : W64) (va k table : Nat) (hp : paExists 0 (pitch table (8 * tableIndex (k + 1) va)) = true)
    (h : tableEntry s table (tableIndex (k + 1) va) = e) (he : e.getLsbD 0 = true) (ho : entryOk (k + 1) e = true) (hl : e.getLsbD 1 = true) :
    walkFrom s va (k + 1) table = .ok (e, k + 1) := by
  simp only [walkFrom, hp, h, he, ho, hl, Bool.not_true, Bool.false_eq_true, if_false, if_true]
theorem walk_table (s : State) (e : W64) (va k table : Nat) (hp : paExists 0 (pitch table (8 * tableIndex (k + 1) va)) = true)
    (h : tableEntry s table (tableIndex (k + 1) va) = e) (he : e.getLsbD 0 = true) (ho : entryOk (k + 1) e = true) (hl : e.getLsbD 1 = false) :
    walkFrom s va (k + 1) table = walkFrom s va k (256 * fieldN e 8 49) := by
  conv => lhs; unfold walkFrom
  simp only [hp, h, he, ho, hl, Bool.not_true, Bool.false_eq_true, if_false]
/-- Context 0 has DRAM in its first GiB and the tier in its second, each from physical 0 up. -/
def Mapped (s : State) : Bool :=
  fieldN (s.ctxRec 0).desc 0 57 == 0 && tableEntry s 0 0 == 0x101 && tableEntry s 256 0 == 0x0F && tableEntry s 256 1 == 0x4F
theorem mapped (s : State) (h : Mapped s = true) (pst : Bool) (x : Nat) (hx : x < 2 ^ 30) (hv : x % 256 < 192) :
    walkTranslate s 0 (x + if pst then 2 ^ 30 else 0) .read (if pst then 1 else 0) = .ok x := by
  simp only [Mapped, Bool.and_eq_true, beq_iff_eq] at h
  obtain ⟨⟨⟨hr, h4⟩, h0⟩, h1⟩ := h
  generalize hva : x + (if pst then 2 ^ 30 else 0) = va
  let e : W64 := if pst then 0x4F else 0x0F
  have i4 : tableIndex 4 va = 0 := by show va / 2 ^ 39 = 0; cases pst <;> simp at hva <;> omega
  have i3 : tableIndex 3 va = if pst then 1 else 0 := by
    show va / 2 ^ 30 % 512 = _; cases pst <;> simp at hva ⊢ <;> omega
  have h3 : tableEntry s 256 (tableIndex 3 va) = e := by
    rw [i3]
    cases pst
    · exact h0
    · exact h1
  have hw : walkFrom s va 4 0 = .ok (e, 3) := by
    rw [walk_table s 0x101 va 3 0 (by rw [i4]; decide) (by rw [i4]; exact h4) (by decide) (by decide) (by decide)]
    exact walk_leaf s e va 2 256 (by rw [i3]; cases pst <;> decide) h3 (by cases pst <;> decide) (by cases pst <;> decide)
      (by cases pst <;> decide)
  have hm : 65536 * fieldN e 16 41 + va % pageSize 3 = x := by
    have : fieldN e 16 41 = 0 := by cases pst <;> decide
    show 65536 * fieldN e 16 41 + va % 2 ^ 30 = x
    rw [this]; cases pst <;> simp at hva <;> omega
  have ht : fieldN e 6 2 = if pst then 1 else 0 := by cases pst <;> decide
  have hp : paExists (if pst then 1 else 0) x = true := by
    cases pst
    · show (x % 256 < 192 && 192 * (x / 256) + x % 256 < 2 ^ 39) = true
      simp only [Bool.and_eq_true, decide_eq_true_eq]; omega
    · show (x % 256 < 192 && 192 * (x / 256) + x % 256 < 2 ^ 40) = true
      simp only [Bool.and_eq_true, decide_eq_true_eq]; omega
  have hr2 : (Need.read == Need.write) = false := by decide
  have hr3 : (Need.read == Need.exec) = false := by decide
  unfold walkTranslate
  rw [hr, hw]
  simp only [leafCheck, hm, ht, hp, hr2, hr3, Bool.false_and, Bool.not_true, Bool.false_eq_true, if_false, ne_eq, not_true_eq_false]
/-- Bytes of an object there, of an object's line and of a slot. -/
theorem mapped_bytes (s : State) (h : Mapped s = true) (base n : Nat) (hb : base % 256 = 0) (hn : base < 2 ^ 29) (hl : n ≤ 192) :
    contextBytes s 0 base 0 n .read = some ((List.range n).map fun k => dramByte s (base + k)) := by
  have key : ∀ l : List Nat, (∀ k ∈ l, k < 192) → l.foldr (fun k r => match r, contextByte s 0 (pitch base (0 + k)) .read with
      | some bs, some b => some (b :: bs)
      | _, _ => none) (some []) = some (l.map fun k => dramByte s (base + k)) := by
    intro l hk
    induction l with
    | nil => rfl
    | cons k l ih =>
      have hk' := hk k (List.mem_cons_self ..)
      have hp : pitch base (0 + k) = base + k := by simp only [pitch]; omega
      have hw : walkTranslate s 0 (base + k) .read 0 = .ok (base + k) := mapped s h false (base + k) (by omega) (by omega)
      rw [List.foldr_cons, ih fun j hj => hk j (List.mem_cons_of_mem _ hj), hp]
      simp only [contextByte, hw, List.map_cons]
  exact key _ fun k hk => by have := List.mem_range.1 hk; omega
theorem mapped_manifest (s : State) (h : Mapped s = true) (c : Capture) (ha : c.asid = 0) (hs : c.slot = 0 ∨ (vat c.cfg 6).toNat = 0) (hv : fieldN (vat c.cfg 5) 0 57 = 2 ^ 30)
    (hp : ∀ k < 192, homePoison s .pst (sectorBase k) = false) :
    slotBytesAt s c 0 192 = some ((List.range 192).map fun k => Memory.get s.mem.pst k) := by
  have key : ∀ l : List Nat, (∀ k ∈ l, k < 192) → l.foldr (fun i l => match l, walkTranslate s c.asid (captureVa c (0 + i)) .read 1 with
      | some l, .ok pa => if homePoison s .pst (sectorBase pa) then none else some (Memory.get s.mem.pst pa :: l)
      | some l, .error _ => some (0 :: l)
      | none, _ => none) (some []) = some (l.map fun k => Memory.get s.mem.pst k) := by
    intro l hk
    induction l with
    | nil => rfl
    | cons k l ih =>
      have hk' := hk k (List.mem_cons_self ..)
      have hp1 : captureVa c (0 + k) = k + 2 ^ 30 := by
        have : (if c.slot = 0 then 0 else (vat c.cfg 6).toNat / 2 / 192 * 192) = 0 := by rcases hs with h | h <;> simp [h]
        simp only [captureVa, hv, this, pitch]; omega
      have hw : walkTranslate s 0 (k + 2 ^ 30) .read 1 = .ok k := mapped s h true k (by omega) (by omega)
      rw [List.foldr_cons, ih fun j hj => hk j (List.mem_cons_of_mem _ hj), hp1, ha]
      simp only [hw, hp k hk', Bool.false_eq_true, if_false, List.map_cons]
  exact key _ fun k hk => List.mem_range.1 hk
theorem test_meets_restore_go : (benchSn id []).hub.boot.minimal = false ∧ (benchSn id []).hub.restState ≠ 1
    ∧ (((benchSn id []).modCtxRec 0 fun c => { c with hold := true }).ctxRec 0).hold = true ∧ cfgFault (benchSn id []) 0 cfgBlock = none
    ∧ (0x8000000000004000 : W64).toNat / 2 ^ 44 % 2 ^ 16 = 0 ∧ (0x8000100000004000 : W64).toNat / 2 ^ 44 % 2 ^ 16 ≠ 0 := by decide +kernel
theorem test_meets_block : restBlock (benchSn id []) 0 = some cfgBlock := by
  have hm : Mapped (benchSn id []) = true := by decide +kernel
  have hb : contextBytes (benchSn id []) 0 (benchSn id []).hub.restcfg.toNat 0 192 .read
      = some ((List.range 192).map fun k => dramByte (benchSn id []) (65536 + k)) :=
    mapped_bytes (benchSn id []) hm 65536 192 (by decide) (by decide) (by decide)
  unfold restBlock
  rw [hb]
  decide +kernel
/-- A slot whose manifest says protected, in a save area without regions; both slots of an area that holds none. -/
def restCfg : Vector W64 24 := vset (.replicate 24 0) 5 0x40000000
def goodManifest : Mem := [(0, 4), (16, 2), (188, 5), (189, 58), (190, 112), (191, 61)]
def benchGood (p : Mem) : State := benchSn (fun h => { h with restJob := some (false, 4, 0, restCfg) }) p false
theorem test_meets_restore : slotGood (benchGood goodManifest) (restSlot (benchGood goodManifest) 0 restCfg 4 0) = true := by
  have hm : Mapped (benchGood goodManifest) = true := by decide +kernel
  have hb := mapped_manifest (benchGood goodManifest) hm (restSlot (benchGood goodManifest) 0 restCfg 4 0) rfl (.inl rfl) (by decide) (by decide +kernel)
  unfold slotGood manifestBytes
  rw [hb]
  decide +kernel
theorem test_no_manifest : ∀ k ∈ [0, 1], manifestBytes (benchGood []) (restSlot (benchGood []) 0 restCfg 4 k) = none := by
  intro k _
  have hm : Mapped (benchGood []) = true := by decide +kernel
  have hb := mapped_manifest (benchGood []) hm (restSlot (benchGood []) 0 restCfg 4 k) rfl (.inr (by show (vat restCfg 6).toNat = 0; decide))
    (by show fieldN (vat restCfg 5) 0 57 = 2 ^ 30; decide) (by decide +kernel)
  unfold manifestBytes
  rw [hb]
  decide +kernel
theorem test_meets_restore_fails : ∀ k ∈ [0, 1], slotGood (benchGood []) (restSlot (benchGood []) 0 restCfg 4 k) = false := by
  intro k hk
  unfold slotGood
  rw [test_no_manifest k hk]
/-- The last granule of DRAM, and one past it; a mark that runs. -/
theorem test_meets_dead_range : inRegions [(65536 * 5, 100)] (65536 * 5) = true
    ∧ (∃ r ∈ [(65536 * 5, 100)], (r.1 : Nat) < 65536 * (5 + 1) ∧ 65536 * 5 < r.1 + r.2) ∧ (∀ r ∈ [(65536 * 5, 100)], ¬ ((r.1 : Nat) < 65536 * (6 + 1) ∧ 65536 * 6 < r.1 + r.2)) := by decide
theorem test_meets_dead : paExists 0 (65536 * 0xAAAA9) = true ∧ paExists 0 (65536 * 0xAAAAAA) = true ∧ paExists 0 (65536 * 0xAAAAAB) = false
    ∧ (0xAAAAAA0000 : BitVec 62).toNat / 2 ^ 16 % 2 ^ 24 = 0xAAAAAA ∧ (State.reset).hub.deadOp = none ∧ (State.reset).hub.boot.minimal = false := by decide
/-- Start-ups: all stages pass; no slot has both signatures; too late; the fourth in a row. -/
def goodEnv : BootEnv :=
  { slotA := ⟨true, true⟩, slotB := ⟨true, true⟩, secA := true, secB := true, diesOk := true, stacksOk := true, tierOk := true, tierBlank := false
    lj := 10, jbase := 0, cmdCore := ⟨true, true⟩, linkOk := true, link := ⟨16, 64, 256⟩, ide := .replicate 3 7, fwDram := [], fwTier := []
    inTime := true, holdup := some 70, pfailed := false }
theorem test_meets_startup : startFailure State.reset.hub.boot goodEnv = none ∧ startFailure (State.reset.hub.boot.verify { goodEnv with slotA := ⟨true, false⟩, slotB := ⟨false, true⟩ }) goodEnv = some (0x01, 2)
    ∧ startFailure State.reset.hub.boot { goodEnv with inTime := false } = some (0x08, 7) ∧ min 15 (State.reset.hub.boot.startcnt + 1) < 4 := by decide

/-! ## Hypotheses met together: nodes, sessions, links, registers -/

/-- NODECFG with a reserved bit, a NODE change while EN = 1, and a sound value. -/
theorem test_meets_nodes : (0x100000000 : W64).toNat / 2 ^ 32 ≠ 0 ∧ (5 : W64).setWidth 14 ≠ (State.reset).hub.node ∧ (0x80000005 : W64).toNat / 2 ^ 14 % 2 ^ 17 = 0
    ∧ (State.reset).hub.portup.getLsbD 0 = false := by decide
def benchNode : State := (benchSn (fun h => { h with nodeEn := true, declared := [7] }) [] false)
def contrib (n : BitVec 14) (b : Byte) : Contribution := { node := n, op := 1, fmt := 0, asid := 0, key := 0, pst := false, whole := [8192], cells := [(8192, b)] }
/-- Half of a put of two sectors: the first byte, or the second. -/
def halfPut (n : BitVec 14) (a : Nat) (b : Byte) : Contribution := { contrib n b with whole := [8192, 8240], cells := [(a, b)] }
def openS (cons : List Contribution) : Session := { en := true, state := 1, op := 1, ncon := 2, tmo := 1, nodes := [2, 7], cons := cons, rssig := 127 <<< 44 }
def benchSes (cons : List Contribution) : State := benchNode.modHub fun h => { h with sessions := vset h.sessions 5 (openS cons) }
theorem test_meets_notices : (7 : BitVec 14) ∈ benchNode.hub.declared ∧ (6 : BitVec 14) ∉ benchNode.hub.declared ∧ (openS [contrib 2 1]).awaits 7 = true
    ∧ (openS [contrib 2 1]).awaits 2 = false := by decide
theorem test_meets_contribution : contributionOk (benchSes []) (contrib 2 1) = true ∧ contributionOk (benchSes []) { contrib 2 1 with key := 3 } = false
    ∧ (contrib 2 1).node ∈ (openS []).nodes ∧ (contrib 3 1).node ∉ (openS []).nodes ∧ ((benchSes []).hub.sessions[(4 : Fin 64)]).state ≠ 1 := by decide
/-- Both contributions: XOR of 0x0F and 0xFF at its place. -/
theorem test_meets_complete : (openS [contrib 2 0x0F, contrib 7 0xFF]).bi = 127 ∧ vaPlaces benchNode 0 false .write [8192] = some [⟨.dram, 8192⟩]
    ∧ sessionSum (openS [contrib 2 0x0F, contrib 7 0xFF]) [8192] = [0xF0]
    ∧ (openS [contrib 2 0x0F, contrib 7 0xFF]).unwritten = [8192] ∧ (openS [contrib 7 0xFF, contrib 2 0x0F]).order = [contrib 2 0x0F, contrib 7 0xFF]
    ∧ (∀ n ∈ (openS []).nodes, (openS [contrib 2 0x0F, contrib 7 0xFF]).has n = true) ∧ (openS [contrib 2 0x0F]).has 7 = false := by decide +kernel
/-- The first sector has arrived from both nodes, the second from one: the first alone is written. -/
def benchHalf : State := benchSes [{ halfPut 2 8192 0x0F with cells := [(8192, 0x0F), (8240, 1)] }, halfPut 7 8192 0xFF]
theorem test_meets_sector : ((benchHalf.hub.sessions[(5 : Fin 64)]).unwritten.filter fun a => sectorBase a == 8192) = [8192]
    ∧ vaPlaces benchHalf 0 false .write [8192] = some [⟨.dram, 8192⟩] ∧ (openS [halfPut 7 8192 0xFF]).has 7 = false
    ∧ (∀ y ∈ (halfPut 7 8192 1).cells, ∀ z ∈ (halfPut 7 8240 1).cells, z.1 ≠ y.1) := by decide +kernel
theorem test_sector_written : ((combineSector benchHalf 5 8192).hub.sessions[(5 : Fin 64)]).written = [8192]
    ∧ dramByte (combineSector benchHalf 5 8192) 8192 = 0xF0 ∧ dramByte (combineSector benchHalf 5 8240) 8240 = 0 := by decide +kernel
/-- RSCTL of XOR, two nodes, whose list (nodes 2 and 7) lies at 4096. -/
def benchOpen : State :=
  let s := benchNode.modHub fun h => { h with sessions := vset h.sessions 5 { rslist := 4096, rssig := 127 <<< 44 }, early := [(4, contrib 2 1)] }
  { s with mem := { s.mem with dram := [(4096, 2), (4098, 7)] } }
def rsctl : W64 := 0x0100004001000000
theorem test_meets_session_open : (benchOpen.hub.sessions[(5 : Fin 64)]).en = false ∧ rsctl.toNat / 2 ^ 58 % 8 = 0 ∧ rsctl.toNat % 2 ^ 24 = 0
    ∧ sessionRange (setBit rsctl 63 true) = true ∧ nodeList benchOpen 4096 (rsctl.toNat / 2 ^ 37 % 2 ^ 14) = some [2, 7] ∧ rising [2, 7] = true ∧ (∀ n ∈ [2, 7], n < 16384)
    ∧ (benchOpen.hub.sessions[(5 : Fin 64)]).bi = 127 ∧ (∀ y ∈ benchOpen.hub.early, y.1 ≠ 5) ∧ benchOpen.hub.boot.minimal = false
    ∧ benchOpen.hub.early[0]? = some (4, contrib 2 1) ∧ ((benchSes []).hub.sessions[(5 : Fin 64)]).en = true := by decide +kernel
/-- Signals: a team that has not come, one that is resident, one beyond the grid; a cell that is empty and one that is full. -/
def benchSig (next : Nat) (live : Bool) : State :=
  let s := benchNode.modHub fun h => { h with grids := [{ oneGrid with next := next }] }
  if live then s.modTeam 0 0 fun t => { t with live := true, grid := 1, lrec := oneRec } else s
theorem test_meets_signals : signalTo (benchSig 1 true) 0 0 3 = .at 0 0 ∧ signalTo (benchSig 1 true) 0 1 3 = .missing
    ∧ vaPlaces benchNode 0 false .write (dataVas 8192 8) = some ((List.range 8).map fun k => ⟨.dram, 8192 + k⟩) := by decide +kernel
theorem held_of (s : State) (a : Asid) (team : W32) (b : BitVec 7) (g : Grid) (hj : jobGrid s a = some g) (h1 : ¬ LRec.teams g.lrec ≤ team.toNat)
    (h2 : ¬ LRec.nbars g.lrec ≤ b.toNat) (hf : findTeam s g.id team.toNat = none) (hn : g.next ≤ team.toNat) : signalTo s a team b = .held := by
  simp [signalTo, hj, h1, h2, hf, hn]
theorem test_meets_held_signal : signalTo (benchSig 0 false) 0 0 3 = .held := by
  have h : ∀ c : CoreId, ((benchSig 0 false).cores[c]).ctx.teams = Vector.replicate 64 ({} : Team) := by decide +kernel
  have hk : ∀ (c : CoreId) (t : Slot), ((benchSig 0 false).team c t).live = false := by
    intro c t
    show ((((benchSig 0 false).cores[c]).ctx.teams)[t]).live = false
    rw [h c]
    simp only [Fin.getElem_fin, Vector.getElem_replicate]
  refine held_of _ 0 0 3 { oneGrid with next := 0 } (by decide +kernel) (by decide) (by decide) ?_ (by decide)
  refine List.findSome?_eq_none_iff.2 fun c _ => ?_
  rw [List.find?_eq_none.2 fun t _ => by simp [hk]]
  rfl
theorem test_meets_fill : (homeBytes benchNode {} ((List.range 8).map fun k => ⟨.dram, 8192 + k⟩)).1 = (List.replicate 8 0, false)
    ∧ natLE (List.replicate 8 (0 : Byte)) / 2 ^ 32 % 2 = 0 ∧ natLE [0, 0, 0, 0, (1 : Byte), 0, 0, 0] / 2 ^ 32 % 2 = 1 := by decide
/-- A job of context 0 (JOBTAB at 12288), one without a context, a key of another. -/
def benchJob : State :=
  let s := benchNode.modHub fun h => { h with jobtab := 12288 }
  { s with mem := { s.mem with dram := Memory.set s.mem.dram 12289 0x80 } }
theorem test_meets_requests : jobContext benchJob 0 = some 0 ∧ jobContext benchJob 1 = none ∧ (benchJob.hub.kslots[(3 : BitVec 10).toFin]).state ≠ 1
    ∧ (vaPlaces benchJob 0 false .read (dataVas 8192 4)).isSome = true ∧ (regionPlaces benchJob 0 0 8192 4 .read).isSome = true
    ∧ regionPlaces benchJob 0 3 8192 4 .read = none ∧ (regionPlaces benchJob 0 0 8192 4 .write).isSome = true := by decide +kernel
theorem test_meets_abort : (benchCmd 2 3 (some 1)).hub.boot.minimal = false ∧ ((benchCmd 2 3 (some 1)).hub.cmds.map (·.seq)).Nodup
    ∧ ∃ c ∈ (benchCmd 2 3 (some 1)).hub.cmds, c.asid = 0 ∧ c.state = 2 := by decide
/-- A register with reserved bits, a busy state, a range, and a field of the hardware's. -/
def viewOf : RegView := { off := 0, cur := 2, rsv := 0xF0, ro := 2 }
theorem test_meets_register_rule : (0x10 : W64) &&& viewOf.rsv ≠ 0 ∧ (3 : W64) &&& viewOf.rsv = 0
    ∧ (∀ k < 64, viewOf.ro.getLsbD k = true → (3 : W64).getLsbD k = viewOf.cur.getLsbD k)
    ∧ (∃ k < 64, viewOf.ro.getLsbD k = true ∧ (1 : W64).getLsbD k ≠ viewOf.cur.getLsbD k) := by decide
/-- QCFG with LSIZE 3 and 4, JLOW at JSEQ and past it, CTXBASE at a multiple of 192 and not, the staging registers at their ends. -/
theorem test_meets_registers : (0x0C000000 : W64).toNat / 2 ^ 26 % 16 < 4 ∧ ¬ (0x10000000 : W64).toNat / 2 ^ 26 % 16 < 4 ∧ (1 : W64).toNat ≤ (State.reset).hub.jseq.toNat
    ∧ ¬ (2 : W64).toNat ≤ (State.reset).hub.jseq.toNat ∧ (192 : W64).toNat % 192 = 0 ∧ (191 : W64).toNat % 192 ≠ 0
    ∧ (8 : Nat) ≤ 0x8200 / 2 ^ 12 % 16 ∧ (0x8200 % 2 ^ 11 : Nat) = 512 ∧ (0x8201 % 2 ^ 11 : Nat) = 513 ∧ (0x9200 / 2 ^ 12 % 16 : Nat) = 9 := by decide
theorem test_meets_register_write : (regAt State.reset 0x7FF8).isNone = true ∧ narrowReg 0x5000 = false
    ∧ (match regAt State.reset 0x5000 with | some (.ro cur rsv) => (cur, rsv) | _ => (1, 1)) = (0, 0) := by decide
/-- An invalidation that runs; a logged fault, and one that is not; a context that a breakpoint stopped. -/
def benchFr (l : Bool) : State := State.reset.modHub fun h => { h with faults := [{ id := 3, core := 0, idx := 0, agent := 0, asid := 0, va := 0, type := 1, kind := 0, logged := l }] }
/-- A write of context 5 that has not been performed at PKG scope. -/
def benchOpenStore : State := State.reset.modCore 0 fun k => { k with wcb := [{ codeSector 0 with dirty := 1, owner := 5 }] }
theorem test_meets_open_store : tlbOpen benchOpenStore 1 5 = true ∧ tlbOpen benchOpenStore 1 4 = false ∧ tlbOpen benchOpenStore 2 4 = true := by decide +kernel
theorem test_meets_translation : (State.reset).hub.tlbBusy = none ∧ (∀ f ∈ (benchFr false).hub.faults, f.id = 3 → f.logged = false)
    ∧ (∃ f, (benchFr true).hub.faults = [f] ∧ f.id = 3 ∧ f.logged = true) ∧ ((State.reset.modCtxRec 4 fun c => { c with debug := true }).ctxRec 4).debug = true
    ∧ (0x1004 : W64).toNat / 2 ^ 12 ≠ 0 ∧ (4 : W64).toNat / 2 ^ 12 = 0 := ⟨rfl, by decide, ⟨_, rfl, rfl, rfl⟩, by decide, by decide, by decide⟩
theorem test_meets_no_waiter : ∀ (c : CoreId) (n : Slot), ((benchFr true).grp c n).waitsFor 3 = false := by
  intro c n
  show Group.waitsFor 3 (((Vector.replicate 64 ({} : Core))[c]).ctx.groups[n]) = false
  simp only [Fin.getElem_fin, Vector.getElem_replicate]
  decide

/-! ## Hypotheses met together: management, the step -/

/-- One error record, a latched counter, a secured session; the least and the greatest counts of RDJRNL. -/
def benchMg : State := (State.reset.modMgmt fun m => { m with errs := [5], errNo := 1, sessions := [(9, true)], transcript := [] }).modHub fun h => { h with jseq := 17 }
theorem test_meets_management : (0 : W32).toNat < benchMg.hub.mgmt.errNo ∧ benchMg.hub.mgmt.errNo ≤ (0 : W32).toNat + 256
    ∧ benchMg.hub.mgmt.errs[benchMg.hub.mgmt.errNo - 1 - (0 : W32).toNat]? = some 5 ∧ benchMg.hub.mgmt.errNo ≤ (1 : W32).toNat
    ∧ benchMg.hub.jlow.toNat ≤ (1 : W64).toNat ∧ (1 : W64).toNat + 16 ≤ benchMg.hub.jseq.toNat ∧ ¬ (2 : W64).toNat + 16 ≤ benchMg.hub.jseq.toNat
    ∧ (9, true) ∈ benchMg.hub.mgmt.sessions ∧ benchMg.hub.boot.minimal = false
    ∧ (benchMg.hub.kslots[(1 : BitVec 10).toFin]).state = 0 ∧ ¬ (∃ c ∈ benchMg.hub.cmds, c.asid = 0 ∧ c.state = 2) := by decide
theorem test_meets_records : (List.range 2).map (fun j => sectorRead benchMg .pst (densePa (48 * j))) = [List.replicate 48 0, List.replicate 48 0].map some := by decide +kernel
/-- The firmware slot that an update goes to: B at equal versions, A when B holds the higher one. -/
theorem test_meets_update : (State.reset).hub.boot.verB ≤ (State.reset).hub.boot.verA ∧ (State.reset).hub.boot.badA = false
    ∧ ((match exec (.pldmFirmwareUpdate [] 3 ⟨true, true⟩ false) State.reset with | .next t => (t.hub.boot.verA, t.hub.boot.verB) | _ => (9, 9)) = (0, 3)) := by decide
/-- A group's turn and a companion's, on a word of R195 and on one that is not assigned. -/
theorem test_meets_step_group : (((bench 0x960403020101DC0D).grp 0 0).resident = true) ∧ decode ((benchRun 0x960403020101DC0D).words.getD 0 0) = .ok (.lop ⟨hv, z, 1, 2, 3, 4, 0x96⟩)
    ∧ decode 0x000000000001DC20 = .error .illegalOpcode := ⟨by decide, by rfl, by rfl⟩
def benchKI (pc : W32) (imem : Mem) : State := (benchK 3 0).modComp 0 .feeder fun k => { k with pc := pc, imem := imem }
/-- ADDI x5, x5, 1 at the last place of the store; C.ADDI x5, 1 there; a pc outside and an odd one. -/
theorem test_step_companion : (match step { benchKI 0xFFFC [(0xFFFC, 0x93), (0xFFFD, 0x82), (0xFFFE, 0x12)] with agenda := [.companion 0 .feeder] } with
      | .next t => ((t.comp 0 .feeder).rd 5, (t.comp 0 .feeder).pc) | _ => (0, 0)) = (4, 0x10000)
    ∧ (match step { benchKI 0 [(0, 0x85), (1, 0x02)] with agenda := [.companion 0 .feeder] } with
      | .next t => ((t.comp 0 .feeder).rd 5, (t.comp 0 .feeder).pc) | _ => (0, 0)) = (4, 2)
    ∧ (match step { benchKI 1 [] with agenda := [.companion 0 .feeder] } with | .next t => (t.comp 0 .feeder).running | _ => true) = false := by decide +kernel
theorem test_step_group : (match step { bench 0xFFFFFB0A1481DC01 with agenda := [.group 0 0] } with | .next t => (t.grp 0 0).rdV 20 3 | _ => 0) = 0xFFFFFFFB := by decide
/-- A read of QCFG of queue 0, whose LSIZE is 4 at reset. -/
theorem test_step_read : (match step { State.reset with agenda := [.barRead (.bar0 0x1010) 8] } with | .next t => t.hub.readout | _ => 0) = 0x10000000 := by decide
/-- A mode that R370 lists, and one that it does not. -/
theorem test_link_modes : (match exec (.hostLinkTrain (some ⟨8, 32, 256⟩)) State.reset with | .next t => t.hub.linkUp | _ => false) = true
    ∧ (match exec (.hostLinkTrain (some ⟨4, 32, 256⟩)) State.reset with | .next t => t.hub.linkUp | _ => true) = false := by decide
theorem test_step_event : (match step { State.reset with agenda := [.event (.spacenPortTrain 3 true)] } with | .next t => t.hub.portup | _ => 0) = 8
    ∧ step { State.reset with off := true } = .fault .powerLost := ⟨by decide, rfl⟩
/-- A well-formed instruction and its word. -/
theorem test_meets_round_trip : encode (.lop ⟨hv, z, 1, 2, 3, 4, 0x96⟩) = some 0x960403020101DC0D ∧ (Instr.lop ⟨hv, z, 1, 2, 3, 4, 0x96⟩).wf = true
    ∧ encodeK (.kcpt ⟨10, 11⟩) = some 0x0005850B ∧ (Instr.kcpt ⟨10, 11⟩).wf = true := by decide

end Sys2Proof.Tests
end

/-! # P7 and Q3 (R145): the register operations, then an instruction whose predicate destination is one of them. -/

namespace Sys2Proof.Machine
open Sys2Proof

/-! ## The register operations -/

@[simp] theorem rdP_seven (g : Group) (l : Fin 32) : g.rdP 7 l = true := rfl
@[simp] theorem rdQ_three (g : Group) : g.rdQ 3 = true := rfl
@[simp] theorem wrP_seven (g : Group) (m : Mask) (f : Fin 32 → Bool) : g.wrP 7 m f = g := rfl
@[simp] theorem wrQ_three (g : Group) (b : Bool) : g.wrQ 3 b = g := rfl

/-- A predicate destination that names P7 with U = 0, or Q3 with U = 1, changes nothing of the group. -/
theorem pdst_discarded (g : Group) {u : Bool} {d : Nat} (m : Mask) (f : Fin 32 → Bool)
    (hd : (u = false ∧ d = 7) ∨ (u = true ∧ d = 3)) : g.pdst u d m f = g := by
  obtain ⟨rfl, rfl⟩ | ⟨rfl, rfl⟩ := hd
  · exact wrP_seven g m f
  · simp [Group.pdst]

/-! ## Instructions that issue -/

/-- An instruction whose effect leaves its group as it was answers a next state, so it takes no trap, and writes no
register. -/
theorem issueRegs_unchanged {i : Instr} {s : State} {n : Slot} {f : Form} {g : Group} {r : Run}
    (k : Hd → Group → Run → Group) (h : Ready i s n f g r) (ha : acting f.hd g r ≠ 0) (hs : g.stays s)
    (hk : k f.hd g r = g) :
    ∃ t, issueRegs i s k = .next t ∧ OnlyGroup s t n ∧ Writes.nil.take g (t.grp s.core n) := by
  obtain ⟨t, hnext, honly, hreg⟩ := issueRegs_spec k h ha (by rwa [hk])
  rw [hk] at hreg
  exact ⟨t, hnext, honly, hreg⟩

theorem exec_icmp (x : FmtR) (s : State) : exec (.icmp x) s = execIcmp x s := rfl

theorem hd_of_icmp_form {x : FmtR} {f : Form} (h : (Instr.icmp x).form = some f) : f.hd = x.hd := by
  cases h; rfl

/-- ICMP whose destination is P7 or Q3 issues and writes nothing. -/
theorem icmp_discarded {x : FmtR} {s : State} {n : Slot} {f : Form} {g : Group} {r : Run}
    (h : Ready (.icmp x) s n f g r) (ha : acting f.hd g r ≠ 0) (hs : g.stays s)
    (hd : (x.hd.u = false ∧ x.d = 7) ∨ (x.hd.u = true ∧ x.d = 3)) :
    ∃ t, exec (.icmp x) s = .next t ∧ OnlyGroup s t n ∧ Writes.nil.take g (t.grp s.core n) := by
  have hsink : (f.hd.u = false ∧ x.d.toNat = 7) ∨ (f.hd.u = true ∧ x.d.toNat = 3) := by
    rw [hd_of_icmp_form h.form]
    exact hd.imp (And.imp_right (congrArg BitVec.toNat)) (And.imp_right (congrArg BitVec.toNat))
  rw [exec_icmp, execIcmp]
  exact issueRegs_unchanged _ h ha hs (pdst_discarded g _ _ hsink)

/-- Settles O18: the register operations by computation, ICMP because its effect leaves its group as it was. -/
theorem truePredicates : Obligations.TruePredicates :=
  ⟨fun g l m f b => ⟨rdP_seven g l, rdQ_three g, wrP_seven g m f, wrQ_three g b⟩,
    fun _ _ _ _ _ _ h ha hs hd => icmp_discarded h ha hs hd⟩

end Sys2Proof.Machine

/-! # The values of E2M1 and E8M0 (R163, R167, R168) -/

namespace Sys2Proof.Machine
open Sys2Proof

/-! ## The value of a pattern of a float format, by its exponent field -/

/-- A finite pattern whose exponent field is 0 has no hidden bit. -/
theorem FFmt.num_of_exponent_zero {f : FFmt} {x : Nat} (hfin : f.mag x ≤ f.maxEnc) (hexp : f.mag x >>> f.mb = 0) :
    f.num x = .fin (f.neg x) (f.mag x % 2 ^ f.mb) (1 - (f.bias : Int) - f.mb) := by
  simp [FFmt.num, Nat.not_lt.mpr hfin, hexp]

/-- A finite pattern whose exponent field is not 0 has the hidden bit above its mantissa. -/
theorem FFmt.num_of_exponent_pos {f : FFmt} {x : Nat} (hfin : f.mag x ≤ f.maxEnc) (hexp : f.mag x >>> f.mb ≠ 0) :
    f.num x = .fin (f.neg x) (f.mag x % 2 ^ f.mb + 2 ^ f.mb) (((f.mag x >>> f.mb : Nat) : Int) - f.bias - f.mb) := by
  simp [FFmt.num, Nat.not_lt.mpr hfin, hexp]

/-! ## E2M1 -/

theorem numOf_e2m1 {c : Nat} (hc : c < 16) : numOf 6 c = e2m1.num c := by
  change e2m1.num (c % 16) = e2m1.num c
  rw [Nat.mod_eq_of_lt hc]

theorem e2m1_mag (c : Nat) : e2m1.mag c = c % 8 := rfl

theorem e2m1_neg {c : Nat} (hc : c < 16) : e2m1.neg c = decide (8 ≤ c) := by
  have hbit : e2m1.neg c = decide (c / 8 % 2 = 1) := Nat.testBit_eq_decide_div_mod_eq
  rw [hbit]
  exact decide_eq_decide.mpr (by omega)

/-- E2M1 has no special values. -/
theorem e2m1_finite (c : Nat) : e2m1.mag c ≤ e2m1.maxEnc := by
  have : c % 8 < 8 := Nat.mod_lt c (by decide)
  exact Nat.le_of_lt_succ this

theorem e2m1_exponent (c : Nat) : e2m1.mag c >>> e2m1.mb = c % 8 / 2 := by
  rw [e2m1_mag]; exact Nat.shiftRight_eq_div_pow _ 1

theorem e2m1_mantissa (c : Nat) : e2m1.mag c % 2 ^ e2m1.mb = c % 2 :=
  Nat.mod_mod_of_dvd c (by decide : 2 ∣ 8)

theorem e2m1_num_of_exponent_zero {c : Nat} (hc : c < 16) (hexp : c % 8 / 2 = 0) :
    e2m1.num c = .fin (decide (8 ≤ c)) (c % 2) (-1) := by
  rw [FFmt.num_of_exponent_zero (e2m1_finite c) ((e2m1_exponent c).trans hexp), e2m1_neg hc, e2m1_mantissa]
  rfl

theorem e2m1_num_of_exponent_succ {c k : Nat} (hc : c < 16) (hexp : c % 8 / 2 = k + 1) :
    e2m1.num c = .fin (decide (8 ≤ c)) (c % 2 + 2) ((k : Int) - 1) := by
  have hfield : e2m1.mag c >>> e2m1.mb = k + 1 := (e2m1_exponent c).trans hexp
  have hscale : ((k + 1 : Nat) : Int) - e2m1.bias - e2m1.mb = k - 1 := by simp [e2m1]
  rw [FFmt.num_of_exponent_pos (e2m1_finite c) (by omega), e2m1_neg hc, e2m1_mantissa, hfield, hscale]
  rfl

/-- The magnitudes of the codes 0 to 7 in halves, the unit of the smallest subnormal (R167). -/
def e2m1Halves : List Nat := [0, 1, 2, 3, 4, 6, 8, 12]

theorem e2m1Halves_of_exponent_zero : ∀ b < 2, e2m1Halves.getD b 0 = b := by decide

theorem e2m1Halves_of_exponent_succ : ∀ k < 3, ∀ b < 2, e2m1Halves.getD (2 * (k + 1) + b) 0 = (b + 2) * 2 ^ k := by
  decide

/-- Every code of E2M1 is finite, carries its sign in bit 3, and has the magnitude that R167 lists. -/
theorem numOf_e2m1_value {c : Nat} (hc : c < 16) :
    ∃ (m : Nat) (e : Int), numOf 6 c = .fin (decide (8 ≤ c)) m e ∧ -1 ≤ e
      ∧ m * 2 ^ (e + 1).toNat = e2m1Halves.getD (c % 8) 0 := by
  have hbit : c % 2 < 2 := Nat.mod_lt c (by decide)
  rw [numOf_e2m1 hc]
  cases hexp : c % 8 / 2 with
  | zero =>
    have hcode : c % 8 = c % 2 := by omega
    refine ⟨_, _, e2m1_num_of_exponent_zero hc hexp, Int.le_refl _, ?_⟩
    rw [hcode, e2m1Halves_of_exponent_zero _ hbit]
    exact Nat.mul_one _
  | succ k =>
    have hcode : c % 8 = 2 * (k + 1) + c % 2 := by omega
    refine ⟨_, _, e2m1_num_of_exponent_succ hc hexp, by omega, ?_⟩
    rw [hcode, e2m1Halves_of_exponent_succ k (by omega) _ hbit, Int.sub_add_cancel, Int.toNat_natCast]

/-! ## E8M0 -/

theorem numOf_e8m0 (x : Nat) :
    numOf 7 x = if x % 256 = 255 then .nan else .fin false 1 (((x % 256 : Nat) : Int) - 127) := rfl

theorem numOf_e8m0_of_lt {e : Nat} (he : e < 255) : numOf 7 e = .fin false 1 ((e : Int) - 127) := by
  have hcode : e % 256 = e := Nat.mod_eq_of_lt (by omega)
  rw [numOf_e8m0, hcode, if_neg (by omega)]

theorem numOf_e8m0_nan : numOf 7 255 = .nan := by
  rw [numOf_e8m0, if_pos rfl]

/-- Settles O20: E2M1 by the exponent field of the code, E8M0 by whether the code is the NaN's. -/
theorem narrowFormatValues : Obligations.NarrowFormatValues :=
  ⟨fun _ hc => numOf_e2m1_value hc, fun _ he => numOf_e8m0_of_lt he, numOf_e8m0_nan⟩

end Sys2Proof.Machine

/-! # MOVI (R211): its fields in the word, its result, and the words it refuses. -/

namespace Sys2Proof.Machine
open Sys2Proof

/-! ## Decoding -/

theorem rawDecode_of_decode {w : W64} {i : Instr} (h : decode w = .ok i) : rawDecode w = some i := by
  unfold decode at h
  split at h
  · cases h
  · split at h
    · cases h; assumption
    · cases h

theorem eq_or_eq_of_ite_eq {α : Type} {c : Prop} [Decidable c] {a b y : α} (h : (if c then a else b) = y) :
    a = y ∨ b = y := by
  split at h
  · exact .inl h
  · exact .inr h

/-- A word that is an instruction is one of the family its opcode lies in (R195). -/
theorem families_of_rawDecode {w : W64} {i : Instr} (h : rawDecode w = some i) :
    decodeInt w = some i ∨ decodeFloat w = some i ∨ decodeConv w = some i ∨ decodeLane w = some i ∨ decodeMem w = some i
      ∨ decodeAtom w = some i ∨ decodeSync w = some i ∨ decodeCtl w = some i ∨ decodeMat w = some i ∨ decodeCopy w = some i
      ∨ decodeSys w = some i := by
  simp only [rawDecode] at h
  repeat refine (eq_or_eq_of_ite_eq h).imp_right fun h => ?_
  exact (eq_or_eq_of_ite_eq h).resolve_right nofun

/-- MOVI is of the integer family: no other family names it. -/
theorem decodeInt_of_rawDecode_movi {w : W64} {x : FmtI32} (h : rawDecode w = some (.movi x)) :
    decodeInt w = some (.movi x) := by
  obtain h | h | h | h | h | h | h | h | h | h | h := families_of_rawDecode h
  · exact h
  all_goals
    exfalso
    simp only [decodeFloat, decodeConv, decodeLane, decodeMem, decodeAtom, decodeSync, decodeCtl, decodeMat, decodeCopy,
      decodeSys] at h
    split at h
    all_goals try split at h
    all_goals cases h

/-- The integer opcode that is MOVI takes its operands from the fields of format I32 (R187). -/
theorem eq_getFmtI32_of_decodeInt_movi {w : W64} {x : FmtI32} (h : decodeInt w = some (.movi x)) : x = getFmtI32 w := by
  unfold decodeInt at h
  split at h
  all_goals try split at h
  all_goals cases h
  rfl

theorem eq_getFmtI32_of_decode_movi {w : W64} {x : FmtI32} (h : decode w = .ok (.movi x)) : x = getFmtI32 w :=
  eq_getFmtI32_of_decodeInt_movi (decodeInt_of_rawDecode_movi (rawDecode_of_decode h))

/-! ## The form -/

/-- R211: FI, SAT and SGN are zero, and the operation is 0, 1 or 2. -/
theorem movi_form_ok_iff {x : FmtI32} {f : Form} (h : (Instr.movi x).form = some f) :
    f.ok = true ↔ x.lo.b23 = false ∧ x.lo.b22 = false ∧ x.lo.b21 = false ∧ x.lo.m.toNat < 3 := by
  cases h
  simp [and_assoc, Nat.lt_succ_iff]

theorem form_ok_of_wf {f : Form} (h : f.wf = true) : f.ok = true := by
  simp only [Form.wf, Bool.and_eq_true] at h
  obtain ⟨⟨-, hok⟩, -⟩ := h
  exact hok

theorem form_wf_of_not_ok {f : Form} (h : ¬ f.ok = true) : f.wf = false :=
  Bool.eq_false_iff.2 fun hwf => h (form_ok_of_wf hwf)

/-! ## A field that R192 refuses -/

/-- An instruction of a permitted class whose fields its form refuses is stopped by the checks, before anything of it
has happened (R192). -/
theorem issueChecks_illegalField {i : Instr} {s : State} {n : Slot} {g : Group} {r : Run} {w : W64} {f : Form}
    (h : Rules.Standing s n g r w) (hform : i.form = some f) (hunit : clauseUnit i &&& hdrCls r.hdr = clauseUnit i)
    (hwf : f.wf = false) : issueChecks i s = .trap n r (wordTrap 0x02 w) := by
  have hinside : ¬ hdrN r.hdr < r.idx := Nat.not_lt.2 h.inside
  have hawake := h.awake
  unfold issueChecks
  simp only [h.agent, h.group, h.run, h.word, h.resident, h.noFetch, hinside, hform, hunit, hwf, Option.isSome_none,
    bne_self_eq_false, Bool.not_true, Bool.not_false, Bool.true_or, Bool.or_self, Bool.false_eq_true, decide_false, if_false,
    if_true]
  cases hblock : g.block <;> simp [hblock, Block.looks] at hawake ⊢

theorem issueRegs_illegalField {i : Instr} {s : State} {n : Slot} {g : Group} {r : Run} {w : W64} {f : Form}
    (k : Hd → Group → Run → Group) (h : Rules.Standing s n g r w) (hform : i.form = some f)
    (hunit : clauseUnit i &&& hdrCls r.hdr = clauseUnit i) (hwf : f.wf = false) :
    issueRegs i s k = Rules.encodingTrap s n r w 0x02 := by
  unfold issueRegs issue
  rw [issueChecks_illegalField h hform hunit hwf]
  rfl

/-! ## The operation -/

theorem exec_movi (x : FmtI32) (s : State) : exec (.movi x) s = execMovi x s := rfl

theorem moviVal_zero (d imm : W32) : moviVal 0 d imm = imm := rfl

theorem toNat_moviVal_one (d imm : W32) : (moviVal 1 d imm).toNat = (d.toNat + imm.toNat) % 2 ^ 32 :=
  BitVec.toNat_add d imm

theorem getLsbD_moviVal_two (d imm : W32) (k : Nat) :
    (moviVal 2 d imm).getLsbD k = (d.getLsbD k != imm.getLsbD k) :=
  BitVec.getLsbD_xor

/-- MOVI, ready to issue, writes the value of its operation to D and nothing else. -/
theorem movi_writes {x : FmtI32} {s : State} {n : Slot} {f : Form} {g : Group} {r : Run} (h : Ready (.movi x) s n f g r)
    (ha : acting f.hd g r ≠ 0) (hs : g.stays s) :
    ∃ t, exec (.movi x) s = .next t ∧ OnlyGroup s t n
      ∧ (Writes.data f.hd.u x.d.toNat (acting f.hd g r) fun l => moviVal x.lo.m (g.src f.hd.u x.d.toNat l) x.imm).take g
          (t.grp s.core n) :=
  issueRegs_dst _ _ h ha hs (exec_movi x s) rfl

/-- MOVI with a field that its form refuses traps ILLEGAL_FIELD. -/
theorem movi_illegalField {x : FmtI32} {s : State} {n : Slot} {g : Group} {r : Run} {w : W64}
    (h : Rules.Standing s n g r w) (hunit : clauseUnit (.movi x) &&& hdrCls r.hdr = clauseUnit (.movi x))
    (hbad : 3 ≤ x.lo.m.toNat ∨ x.lo.b21 = true ∨ x.lo.b22 = true ∨ x.lo.b23 = true) :
    exec (.movi x) s = Rules.encodingTrap s n r w 0x02 := by
  have hok : ¬ (x.lo.b23 = false ∧ x.lo.b22 = false ∧ x.lo.b21 = false ∧ x.lo.m.toNat < 3) := by
    rintro ⟨h23, h22, h21, hm⟩
    exact hbad.elim (Nat.not_le.2 hm) (by simp [h21, h22, h23])
  rw [exec_movi]
  exact issueRegs_illegalField _ h rfl hunit (form_wf_of_not_ok (mt (movi_form_ok_iff rfl).1 hok))

/-- Settles O19: the fields by the decoder's one MOVI case, the result by the rule of a single data destination, the
refusals by the form, which R192 checks before the instruction acts. -/
theorem moviFollowsRule : Obligations.MoviFollowsRule := by
  refine ⟨fun w x hdec => ?_, fun x s n f g r h ha hs => ?_, fun _ _ _ _ _ _ => movi_illegalField⟩
  · rw [eq_getFmtI32_of_decode_movi hdec]
    exact ⟨rfl, rfl, rfl⟩
  · obtain ⟨-, -, -, hop⟩ := (movi_form_ok_iff h.form).1 (form_ok_of_wf h.wf)
    obtain ⟨t, hnext, honly, htake⟩ := movi_writes h ha hs
    refine ⟨hop, t, _, hnext, honly, htake, fun l => ⟨fun hm => ?_, fun hm => ?_, fun hm k => ?_⟩⟩
    · rw [hm, moviVal_zero]
    · rw [hm, toNat_moviVal_one]
    · rw [hm, getLsbD_moviVal_two]

end Sys2Proof.Machine
